-- ==== Sys2Proof/Word.lean ====
section
/-! DEFINITION. Word types: the bit vectors the manual itself gives a width (00_scope.md R11, 20_memory.md R500). -/

namespace Sys2Proof

/-- One byte of host memory (20_memory.md R510). -/
abbrev Byte := BitVec 8

/-- A requester's 16-bit source-id: bus 15:8, device 7:3, function 2:0 (22_translation.md R700). -/
abbrev SourceId := BitVec 16

/-- A 16-bit domain-id field (10_state.md R124). -/
abbrev DomainId := BitVec 16

/-- A 20-bit process address space id (22_translation.md R700). -/
abbrev Pasid := BitVec 20

/-- A 64-bit input address or host physical address while it is computed (20_memory.md R500). -/
abbrev Addr := BitVec 64

/-- One bit as a bit vector. -/
abbrev bit (b : Bool) : BitVec 1 := BitVec.ofBool b

end Sys2Proof
end

