-- ==== Sys2Proof/Machine/Bits.lean ====
section
/-! DEFINITION. Bit-field, byte-order and mask helpers used by the decoder and the machine (20_memory.md R510:
little-endian, bit 0 least significant). -/

namespace Sys2Proof

/-- Bit `i` of a word, as a Bool. -/
def bitAt {w : Nat} (x : BitVec w) (i : Nat) : Bool := x.getLsbD i

/-- The `n`-bit field of `x` that starts at bit `lo`. -/
def field {w : Nat} (x : BitVec w) (lo n : Nat) : BitVec n := x.extractLsb' lo n

/-- The value `x` placed at bit `lo` of a `w`-bit word. -/
def put (w : Nat) {n : Nat} (x : BitVec n) (lo : Nat) : BitVec w := (x.setWidth w) <<< lo

/-- A flag placed at bit `i` of a `w`-bit word. -/
def flag (w : Nat) (b : Bool) (i : Nat) : BitVec w := put w (BitVec.ofBool b) i

/-- A mask with `n` ones from bit `lo` up. -/
def onesAt (w lo n : Nat) : BitVec w := BitVec.ofNat w ((2 ^ n - 1) * 2 ^ lo)

/-- The bytes of a value, least significant first (20_memory.md R510, log 9). -/
def toBytes : Nat → Nat → List Byte
  | 0, _ => []
  | n + 1, v => BitVec.ofNat 8 v :: toBytes n (v / 256)

/-- The value of a list of bytes, least significant first (20_memory.md R510, log 9). -/
def ofBytes : List Byte → Nat
  | [] => 0
  | b :: bs => b.toNat + 256 * ofBytes bs

/-- The low `n` bits of an address kept, the others cleared. -/
def lowBits (a : Addr) (n : Nat) : Addr := BitVec.ofNat 64 (a.toNat % 2 ^ n)

/-- The address with its low `n` bits cleared. -/
def highBits (a : Addr) (n : Nat) : Addr := BitVec.ofNat 64 (a.toNat / 2 ^ n * 2 ^ n)

/-- The low n bits of a word cleared. -/
def clearLow {w : Nat} (x : BitVec w) (n : Nat) : BitVec w := (x >>> n) <<< n

/-- A page number field (address bits 63:12) as an address. -/
def pageAddr (p : BitVec 52) : Addr := p ++ 0#12

/-- The even numbers of a list of flags: a list of bits, least significant first, as a number. -/
def ofFlags : List Bool → Nat
  | [] => 0
  | b :: bs => b.toNat + 2 * ofFlags bs

end Sys2Proof
end

