-- ==== Sys2Proof/Config.lean ====
section
/-! DEFINITION. What the spec leaves open and no register reports: the free values (opaque, log 8), the byte an
unlisted memory address reads as (log 2), and the read-only register values of the unit after reset (log 1). -/

namespace Sys2Proof.Config

/-- Free value: what a read of a write-only field returns (93 U4). DESIGN CHOICE (log 8), safe. -/
opaque freeRead : Nat → BitVec 64

/-- Free value: a data byte of a zero-length read's completion (93 U30). DESIGN CHOICE (log 8), safe. -/
opaque freeZlrByte : Nat → BitVec 8

/-- Free value: a data byte read from an address that is not memory (a device the spec does not describe).
DESIGN CHOICE (log 8), safe. -/
opaque freeDeviceByte : Nat → BitVec 8

/-- Free value: FRCD_REG.FI for interrupt fault reason 25h (93 U35). DESIGN CHOICE (log 8), safe. -/
opaque freeFaultInfo : Nat → BitVec 52

/-- Free value: the PASID field of a page_req_dsc with PP=0 (93 U20). DESIGN CHOICE (log 8), safe. -/
opaque freePrqPasid : Nat → BitVec 20

/-- Free value: the PRGI field of a page_req_dsc with neither R nor W (93 U20). DESIGN CHOICE (log 8), safe. -/
opaque freePrqPrgi : Nat → BitVec 9

/-- Free value: the memory type of an address in MTRR ranges whose overlap is undefined (93 U10).
DESIGN CHOICE (log 8), safe. -/
opaque freeMemType : Nat → BitVec 3

/-- What a byte of host memory that nothing has written reads as. DESIGN CHOICE (log 2), unsafe. -/
def unlistedByte : BitVec 8 := 0

/-- VER_REG after reset: MAX=5, MIN=0 (10_state.md R120). DESIGN CHOICE (log 1). -/
def verReg : BitVec 32 := 0x00000050

/-- CAP_REG after reset: ESRTPS, ESIRTPS, ECMDS, FS5LP, PI, FS1GP, DRD, DWD, PSI, ZLR, PHMR, PLMR = 1, MAMV=18, NFR=1,
SSLPS=0011b, FRO=22h, MGAW=47, SAGAW=01110b, ND=6, CM=RWBF=0 (10_state.md R121). DESIGN CHOICE (log 1). -/
def capReg : BitVec 64 := 0xF9D2018C226F0E66

/-- ECAP_REG after reset: every capability on except ERS, PSS=19, MHMV=15, IRO=F0h (10_state.md R122).
DESIGN CHOICE (log 1). -/
def ecapReg : BitVec 64 := 0x043BFF9EA6F0F0DF

/-- MTRRCAP_REG after reset: WC, FIX, VCNT=10 (12 R400). DESIGN CHOICE (log 1). -/
def mtrrcapReg : BitVec 64 := 0x50A

/-- PERFCAP_REG after reset: CS=0, PCCS, IOS, GFS = 1, CWE=0, all filters, EGCNT=5, CW=48, NCNTR=4 (12 R430).
DESIGN CHOICE (log 1). -/
def perfcapReg : BitVec 64 := 0xF00E001F05300004

/-- PERFCFGOFF_REG after reset (12 R431). DESIGN CHOICE (log 1). -/
def perfcfgoffReg : BitVec 32 := 0x1000
/-- PERFFRZOFF_REG after reset (12 R432). DESIGN CHOICE (log 1). -/
def perffrzoffReg : BitVec 32 := 0x1800
/-- PERFOVFOFF_REG after reset (12 R433). DESIGN CHOICE (log 1). -/
def perfovfoffReg : BitVec 32 := 0x1808
/-- PERFCNTROFF_REG after reset (12 R434). DESIGN CHOICE (log 1). -/
def perfcntroffReg : BitVec 32 := 0x2000

/-- PERFEVNTCAP_REG[0..4] after reset: every event of 46 R1240 (12 R442). DESIGN CHOICE (log 1). -/
def perfevntcapRegs : List (BitVec 64) := [0x6F, 0x61, 0xFF, 3, 7]

/-- PERFCNTRCAP_REG and PERFCNTREVCAP_REGs of the four counters after reset: PCC=0, CW=48, IOS, GFS (12 R449, R450).
DESIGN CHOICE (log 1). -/
def percapRegs : List (BitVec 32 × List (BitVec 32)) := List.replicate 4 (0x00033000, [])

/-- The pairings of `filter_ok` after reset beyond those of 46 R1240's last column, which every unit has (46 R1250): none.
DESIGN CHOICE (log 1). -/
def filterOk : List (Nat × Nat × Nat) := []

/-- ECCAP_REG_1 after reset: commands 240 to 245 supported (12 R465). DESIGN CHOICE (log 1). -/
def eccap1Reg : BitVec 128 := 0x3F0000000000000000000000000000

/-- VCCAP_REG after reset: FPS, PAS, NS (12 R483). DESIGN CHOICE (log 1). -/
def vccapReg : BitVec 64 := 7

/-- Host address width (20_memory.md R501, 92 D2). DESIGN CHOICE (log 1). -/
def haw : Nat := 46

/-- The Register Base Address of the unit (10 R111, 47 R1280). DESIGN CHOICE (log 1). -/
def regBase : Nat := 0xFED90000

/-- The PASIDs the virtual command interface may hand out after reset (41 R995, 93 U28). DESIGN CHOICE (log 29). -/
def vpasidFree : List (BitVec 20) := [0x00105, 0x00106, 0x00107, 0x00108]

end Sys2Proof.Config
end

