-- ==== Sys2Proof/Machine/Faults.lean ====
section
/-! DEFINITION. The address-translation fault conditions of source Table 26: reason code, "Qualified" column and the
seven response cells of each (60_exceptions.md R1340 to R1361). -/

namespace Sys2Proof.Machine

/-- A cell of Table 26 (60 R1340). -/
inductive Cell where
  | ur | ca | zero | effP | ir | drop | na
deriving DecidableEq, Repr

/-- The condition names of Table 26. -/
inductive Cond where
  | rta1_1 | rta1_2 | rta1_3 | rta2 | rta3 | rta4 | lrt1 | lrt2
  | lrt3 | lct1 | lct2 | lct3 | lct4_1 | lct4_2 | lct4_3 | lct5
  | lss1 | lss2 | lgn1_1 | lgn1_2 | lgn1_3 | lgn2 | lgn3 | lgn4
  | srt1 | srt2 | srt3 | sct1 | sct2 | sct3 | sct4_1 | sct4_2
  | sct5 | sct6 | sct7 | sct8 | sct9 | spd1 | spd2 | spd3
  | spt1 | spt2 | spt3 | spt4_1 | spt4_2 | spt4_3 | spt4_4 | spt5
  | spt6 | sfs1 | sfs2 | sfs3 | sfs4 | sfs5 | sfs6 | sfs7
  | sfs8 | sfs9 | sfs10 | sss1 | sss2 | sss3 | sss4 | sss5
  | sss6 | sgn1 | sgn2 | sgn4_1 | sgn4_2 | sgn5 | sgn6 | sgn7
  | sgn8_1 | sgn8_2 | sgn8_3 | sgn10
deriving DecidableEq, Repr

/-- The fault reason code (60 R1346 to R1361). -/
def Cond.reason : Cond → BitVec 8
  | .rta1_1 | .rta1_2 | .rta1_3 => 0x30
  | .rta2 => 0x31
  | .rta3 => 0x32
  | .rta4 => 0x33
  | .lrt1 => 0x08
  | .lrt2 => 0x01
  | .lrt3 => 0x0A
  | .lct1 => 0x09
  | .lct2 => 0x02
  | .lct3 => 0x0B
  | .lct4_1 | .lct4_2 | .lct4_3 => 0x03
  | .lct5 => 0x0D
  | .lss1 => 0x07
  | .lss2 => 0x0C
  | .lgn1_1 | .lgn1_2 | .lgn1_3 => 0x04
  | .lgn2 => 0x05
  | .lgn3 => 0x06
  | .lgn4 => 0x0E
  | .srt1 => 0x38
  | .srt2 => 0x39
  | .srt3 => 0x3A
  | .sct1 => 0x40
  | .sct2 => 0x41
  | .sct3 => 0x42
  | .sct4_1 | .sct4_2 => 0x43
  | .sct5 => 0x44
  | .sct6 => 0x45
  | .sct7 => 0x46
  | .sct8 => 0x47
  | .sct9 => 0x48
  | .spd1 => 0x50
  | .spd2 => 0x51
  | .spd3 => 0x52
  | .spt1 => 0x58
  | .spt2 => 0x59
  | .spt3 => 0x5A
  | .spt4_1 | .spt4_2 | .spt4_3 | .spt4_4 => 0x5B
  | .spt5 => 0x5C
  | .spt6 => 0x5D
  | .sfs1 => 0x70
  | .sfs2 => 0x71
  | .sfs3 => 0x72
  | .sfs4 => 0x73
  | .sfs5 => 0x74
  | .sfs6 => 0x75
  | .sfs7 => 0x76
  | .sfs8 => 0x77
  | .sfs9 => 0x90
  | .sfs10 => 0x91
  | .sss1 => 0x78
  | .sss2 => 0x79
  | .sss3 => 0x7A
  | .sss4 => 0x7B
  | .sss5 => 0x7C
  | .sss6 => 0x7D
  | .sgn1 => 0x80
  | .sgn2 => 0x81
  | .sgn4_1 | .sgn4_2 => 0x83
  | .sgn5 => 0x84
  | .sgn6 => 0x85
  | .sgn7 => 0x86
  | .sgn8_1 | .sgn8_2 | .sgn8_3 => 0x87
  | .sgn10 => 0x89

/-- The "Qualified" column: reporting is suppressed by an FPD bit (60 R1331). -/
def Cond.qualified : Cond → Bool
  | .rta1_1 | .rta1_2 | .rta1_3 | .rta2 | .rta3 | .rta4 | .lrt1 | .lrt2 | .lrt3 | .lct1 | .srt1 | .srt2 | .srt3 |
    .sct1 | .spd1 | .spt1 => false
  | .lct2 | .lct3 | .lct4_1 | .lct4_2 | .lct4_3 | .lct5 | .lss1 | .lss2 | .lgn1_1
  | .lgn1_2 | .lgn1_3 | .lgn2 | .lgn3 | .lgn4 | .sct2 | .sct3 | .sct4_1 | .sct4_2
  | .sct5 | .sct6 | .sct7 | .sct8 | .sct9 | .spd2 | .spd3 | .spt2 | .spt3
  | .spt4_1 | .spt4_2 | .spt4_3 | .spt4_4 | .spt5 | .spt6 | .sfs1 | .sfs2 | .sfs3
  | .sfs4 | .sfs5 | .sfs6 | .sfs7 | .sfs8 | .sfs9 | .sfs10 | .sss1 | .sss2
  | .sss3 | .sss4 | .sss5 | .sss6 | .sgn1 | .sgn2 | .sgn4_1 | .sgn4_2 | .sgn5
  | .sgn6 | .sgn7 | .sgn8_1 | .sgn8_2 | .sgn8_3 | .sgn10 => true

/-- The seven columns: untranslated without and with PASID, translation request without and with PASID, translated,
page request that requires a response, page request that does not (60 R1340). -/
def Cond.cells : Cond → List Cell
  | .rta1_1 | .rta1_2 | .rta1_3 | .srt1 | .srt3 | .sct1 | .sct3 | .sct4_1 =>
    [.ur, .ur, .ca, .ca, .ur, .ir, .drop]
  | .rta2 | .sgn10 =>
    [.na, .ur, .na, .ur, .na, .na, .na]
  | .rta3 | .sct8 =>
    [.na, .na, .na, .na, .na, .ir, .drop]
  | .rta4 | .srt2 | .sct2 =>
    [.ur, .ur, .ur, .ur, .ur, .ir, .drop]
  | .lrt1 | .lrt3 | .lct1 | .lct3 | .lct4_1 | .lct4_2 | .lct4_3 | .lgn4 =>
    [.ur, .na, .ca, .na, .ur, .na, .na]
  | .lrt2 | .lct2 =>
    [.ur, .na, .ur, .na, .ur, .na, .na]
  | .lct5 =>
    [.na, .na, .ur, .na, .ur, .na, .na]
  | .lss1 | .lss2 =>
    [.ur, .na, .ca, .na, .na, .na, .na]
  | .lgn1_1 =>
    [.ur, .na, .zero, .na, .na, .na, .na]
  | .lgn1_2 | .sgn4_1 | .sgn8_3 =>
    [.na, .na, .na, .na, .ur, .na, .na]
  | .lgn1_3 =>
    [.ur, .na, .na, .na, .na, .na, .na]
  | .lgn2 | .lgn3 =>
    [.ur, .na, .effP, .na, .na, .na, .na]
  | .sct4_2 =>
    [.ur, .na, .ca, .na, .ur, .ir, .drop]
  | .sct5 =>
    [.na, .na, .ur, .ur, .ur, .na, .na]
  | .sct6 | .sct7 | .sct9 =>
    [.na, .ur, .na, .ur, .na, .ir, .drop]
  | .spd1 | .spd3 | .spt1 | .spt3 | .spt4_1 | .spt4_2 | .spt4_3 | .spt4_4 =>
    [.ur, .ur, .ca, .ca, .na, .ir, .drop]
  | .spd2 | .spt2 =>
    [.ur, .ur, .zero, .zero, .na, .ir, .drop]
  | .spt5 =>
    [.na, .ur, .na, .zero, .na, .na, .na]
  | .spt6 | .sfs1 | .sfs2 | .sfs3 | .sfs4 | .sfs5 | .sfs6 | .sfs7
  | .sfs8 | .sfs9 | .sfs10 | .sss2 | .sgn1 | .sgn2 | .sgn4_2 | .sgn5 =>
    [.ur, .ur, .zero, .zero, .na, .na, .na]
  | .sss1 | .sss3 | .sss4 | .sss5 | .sss6 =>
    [.ur, .ur, .ca, .ca, .na, .na, .na]
  | .sgn6 | .sgn7 =>
    [.ur, .ur, .effP, .effP, .na, .na, .na]
  | .sgn8_1 =>
    [.ur, .ur, .na, .na, .na, .na, .na]
  | .sgn8_2 =>
    [.na, .na, .ca, .ca, .na, .na, .na]

/-- The answer to a translation request: its column of Table 26; where that cell is NA and the total lookup still
reaches it, the other translation-request column's (22 R712, log 19), and Unsupported Request if both are NA. -/
def Cond.trCell (c : Cond) (withPasid : Bool) : Cell :=
  let mine := c.cells.getD (if withPasid then 3 else 2) .ur
  let other := c.cells.getD (if withPasid then 2 else 3) .ur
  if mine != .na then mine else if other != .na then other else .ur

end Sys2Proof.Machine
end

