-- ==== Sys2Proof/Syntax.lean ====
section
/-! DEFINITION. The commands of the unit (30_encoding.md R850): one constructor of `Instr` per row of
spec/opcode_table.json, the abstract device messages (30 R880 to R882), and the raw words the decoder reads. -/

namespace Sys2Proof

/-- What a memory request asks for (22_translation.md R700); `zlr` is a read of one DWORD with no byte enabled. -/
inductive Access where
  | read | write | atomic | zlr
deriving DecidableEq, Repr

/-- The PCI Express AtomicOps. PRESUMED (log 11): the spec names AtomicOp only. -/
inductive AtomicKind where
  | fetchAdd | swap | compareSwap
deriving DecidableEq, Repr

/-- A PASID TLP prefix: PASID, Privileged mode Requested, Execute Requested (30 R880). -/
structure PasidTlp where
  pasid : Pasid
  pr : Bool
  er : Bool
deriving DecidableEq, Repr

/-- A memory request record (22_translation.md R700). `len` counts bytes, and DWORDs for a translation request;
`fullBe` says that first and last byte enables are 1111b; `coherent` that the device operates in the processor coherency
domain (22 R770); `cxlCache` that the request came on a CXL.cache link (22 R708, 11 R270). -/
structure MemReq where
  sid : SourceId
  pasid : Option PasidTlp
  addr : Addr
  access : Access
  len : Nat
  fullBe : Bool
  ns : Bool
  nw : Bool
  data : List Byte
  atomic : AtomicKind
  coherent : Bool
  cxlCache : Bool
deriving DecidableEq, Repr

/-- A page request message, and equally the fields of a page_req_dsc (30 R862, R881). -/
structure PageMsg where
  rid : SourceId
  pp : Bool
  pasid : Pasid
  exr : Bool
  pmr : Bool
  addr : BitVec 52
  prgi : BitVec 9
  lpig : Bool
  rdr : Bool
  wrr : Bool
deriving DecidableEq, Repr

/-- The commands: one constructor per row of spec/opcode_table.json (30 R850). -/
inductive Instr where
  | ccInvDsc (g : BitVec 2) (did : DomainId) (sid : SourceId) (fm : BitVec 2)
  | iotlbInvDsc (g : BitVec 2) (dw dr : Bool) (did : DomainId) (am : BitVec 6) (ih : Bool) (addr : BitVec 52)
  | devTlbInvDsc (sid : SourceId) (mip : BitVec 5) (pfsid : SourceId) (sz : Bool) (addr : BitVec 52)
  | iecInvDsc (g : Bool) (im : BitVec 5) (iidx : BitVec 16)
  | invWaitDsc (iflag sw fn pd : Bool) (data : BitVec 32) (saddr : BitVec 62)
  | pIotlbInvDsc (g : BitVec 2) (did : DomainId) (pasid : Pasid) (am : BitVec 6) (ih : Bool) (addr : BitVec 52)
  | pcInvDsc (g : BitVec 2) (did : DomainId) (pasid : Pasid)
  | pDevTlbInvDsc (mip : BitVec 5) (pfsid : SourceId) (sid : SourceId) (pasid : Pasid) (g sz : Bool) (addr : BitVec 52)
  | pageGrpRespDsc (pp : Bool) (rc : BitVec 4) (rid : SourceId) (pasid : Pasid) (prgi : BitVec 9)
  | pageReqDsc (m : PageMsg)
  | gcmdTeEnable | gcmdTeDisable | gcmdSrtp | gcmdWbf | gcmdQieEnable | gcmdQieDisable
  | gcmdIreEnable | gcmdIreDisable | gcmdSirtp | gcmdCfiSet | gcmdCfiClear
  | ccmdIcc (cirg : BitVec 2) (sid : SourceId) (did : DomainId) (fm : BitVec 2)
  | iotlbIvt (iirg : BitVec 2) (dr dw : Bool) (did : DomainId)
  | pmenEpmEnable | pmenEpmDisable
  | ecmdEnable (counter : BitVec 48) | ecmdDisable (counter : BitVec 48)
  | ecmdResetConfig (oa : BitVec 48) | ecmdResetValues (oa : BitVec 48)
  | ecmdFreeze (oa : BitVec 48) | ecmdUnfreeze (oa : BitVec 48)
  | ecmdReserved (cmd : BitVec 8) (oa : BitVec 48)
  | vcmdNull (oa : BitVec 48) | vcmdAllocate (oa : BitVec 48) | vcmdFree (oa : BitVec 48)
  | untranslatedRequest (r : MemReq)
  | translationRequest (r : MemReq)
  | translatedRequest (r : MemReq)
  | interruptRequest (sid : SourceId) (addr : BitVec 32) (data : BitVec 32)
  | pageRequest (m : PageMsg)
  | invalidationCompletion (sid : SourceId) (vec : BitVec 32) (cc : BitVec 3)
deriving DecidableEq, Repr

/-- What the decoder reads: words as the agents present them (30 R850). A descriptor is its little-endian integer
(R851); `wide` is IQA_REG.DW; a 128-bit descriptor stands in the low half. A GCMD_REG write is decoded against the
GSTS_REG value at the time of the write (R870). The register words are the values after the write has been merged.
`invalidation` is an upstream Invalidation Request message, which no device may send (22 R708). -/
inductive Raw where
  | iqDsc (wide : Bool) (w : BitVec 256)
  | prqDsc (w : BitVec 256)
  | gcmd (gsts v : BitVec 32)
  | ccmd (v : BitVec 64)
  | iotlb (v : BitVec 64)
  | pmen (v : BitVec 32)
  | ecmd (v : BitVec 64)
  | vcmd (v : BitVec 64)
  | mem (atf : BitVec 2) (r : MemReq)
  | page (m : PageMsg)
  | completion (sid : SourceId) (vec : BitVec 32) (cc : BitVec 3)
  | invalidation (sid : SourceId)
deriving DecidableEq, Repr

end Sys2Proof
end

