-- ==== Sys2Proof/Machine/State.lean ====
section
/-! DEFINITION. The state of one remapping hardware unit (10_state.md R102), its reset value (70_reset_and_hazards.md
R1450 to R1452), and the reasons a step can stop. Registers are held as their fields; a reserved bit has no place here
and so reads 0 (92 D4, log 24). -/

namespace Sys2Proof.Machine

/-- The memory types of 22_translation.md R771. -/
inductive MemType where
  | uc | wc | wt | wp | wb | ucMinus
deriving DecidableEq, Repr

/-! ## Constants of the unit -/

/-- The read-only registers (10_state.md R120 to R122; 12 R400, R430 to R434, R442, R449, R450, R465, R483), raw.
`percap` holds, per counter, PERFCNTRCAP_REG and its PERFCNTREVCAP_REGs. -/
structure Caps where
  ver : BitVec 32
  cap : BitVec 64
  ecap : BitVec 64
  mtrrcap : BitVec 64
  perfcap : BitVec 64
  perfcfgoff : BitVec 32
  perffrzoff : BitVec 32
  perfovfoff : BitVec 32
  perfcntroff : BitVec 32
  perfevntcap : List (BitVec 64)
  percap : List (BitVec 32 × List (BitVec 32))
  eccap1 : BitVec 128
  vccap : BitVec 64
deriving DecidableEq, Repr

/-- The parameters no register reports (00_scope.md R7, 93 section 2). `notMemory`: address ranges (first, length) below 2^HAW
that are not memory; `sct41`: the predicate of 22 R711 as (mask, value) pairs; `splitPages`: the treatment of a page-crossing
request (20 R542); `upperAddr`: FEUADDR and its fellows exist although EIM=0 (10 R116); `rcb`: Read Completion Boundary in
bytes; `filterOk`: (group, event bit, filter) pairings beyond those of 46 R1240 (R1250); `ptShift`: log2 of the pass-through
region (43 R1064); `regBase`: the Register Base Address (10 R111, 47 R1280), the unit's registers filling `regPages` 4-KByte
pages from there; `iqercd`: IQERCD_REG gives its detail (11 R288). -/
structure Platform where
  haw : Nat
  regBase : Nat
  notMemory : List (Nat × Nat)
  regPages : Nat
  numItag : Nat
  iotlbCrossHit : Bool
  sct41 : List (BitVec 256 × BitVec 256)
  pmrChecksRemapped : Bool
  ptShift : Nat
  faultCompression : Bool
  filterOk : List (Nat × Nat × Nat)
  plmrN : Nat
  phmrN : Nat
  splitPages : Bool
  upperAddr : Bool
  rcb : Nat
  iqercd : Bool
deriving DecidableEq, Repr

/-! ## Registers -/

/-- GSTS_REG (11 R210). -/
structure Gsts where
  tes : Bool
  rtps : Bool
  wbfs : Bool
  qies : Bool
  ires : Bool
  irtps : Bool
  cfis : Bool
deriving DecidableEq, Repr

/-- RTADDR_REG (11 R220), and the latched root pointer and mode (10 R102). -/
structure RootPtr where
  rta : BitVec 52
  ttm : BitVec 2
deriving DecidableEq, Repr

/-- CCMD_REG (11 R230). -/
structure Ccmd where
  icc : Bool
  cirg : BitVec 2
  caig : BitVec 2
  fm : BitVec 2
  sid : SourceId
  did : DomainId
deriving DecidableEq, Repr

/-- IOTLB_REG (11 R240). -/
structure IotlbReg where
  ivt : Bool
  iirg : BitVec 2
  iaig : BitVec 2
  dr : Bool
  dw : Bool
  did : DomainId
deriving DecidableEq, Repr

/-- IVA_REG (11 R241). -/
structure Iva where
  addr : BitVec 52
  ih : Bool
  am : BitVec 6
deriving DecidableEq, Repr

/-- FSTS_REG without PPF, which is computed (11 R250). -/
structure Fsts where
  fri : BitVec 8
  ite : Bool
  ice : Bool
  iqe : Bool
  pfo : Bool
deriving DecidableEq, Repr

/-- A fault recording register FRCD_REG[n] (11 R262). -/
structure Frcd where
  f : Bool
  t1 : Bool
  t2 : Bool
  atf : BitVec 2
  pv : Pasid
  fr : BitVec 8
  pp : Bool
  exe : Bool
  priv : Bool
  sid : SourceId
  fi : BitVec 52
deriving DecidableEq, Repr

/-- The control, data, address and upper address registers of one event interrupt (11 R255 to R258, R284 to R287,
R304 to R307; 12 R436 to R439). -/
structure EventRegs where
  im : Bool
  ip : Bool
  imd : BitVec 16
  ma : BitVec 30
  mua : BitVec 32
deriving DecidableEq, Repr

/-- PMEN_REG and the protected range registers (11 R270 to R274); the low N+1 bits of the ranges are held as 0. -/
structure Pmr where
  epm : Bool
  prs : Bool
  plmBase : BitVec 32
  plmLimit : BitVec 32
  phmBase : BitVec 64
  phmLimit : BitVec 64
deriving DecidableEq, Repr

/-- IQH_REG, IQT_REG, IQA_REG (11 R280 to R282). `qh` and `qt` count 16-byte units. -/
structure Iq where
  qh : BitVec 15
  qt : BitVec 15
  iqa : BitVec 52
  dw : Bool
  qs : BitVec 3
deriving DecidableEq, Repr

/-- IQERCD_REG (11 R288). -/
structure Iqercd where
  icesid : SourceId
  itesid : SourceId
  iqei : BitVec 4
deriving DecidableEq, Repr

/-- IRTA_REG (11 R290), and the latched interrupt-remapping-table pointer (10 R102). -/
structure IrtPtr where
  irta : BitVec 52
  eime : Bool
  size : BitVec 4
deriving DecidableEq, Repr

/-- PQH_REG, PQT_REG, PQA_REG, PRS_REG (11 R300 to R303). `pqh` and `pqt` count 32-byte entries. -/
structure Prq where
  pqh : BitVec 14
  pqt : BitVec 14
  pqa : BitVec 52
  pqs : BitVec 3
  pro : Bool
  ppr : Bool
deriving DecidableEq, Repr

/-- A variable-range MTRR pair (12 R404, R405): PHYSBASE and TYPE, PHYSMASK and V. -/
structure MtrrVar where
  base : BitVec 52
  type : BitVec 8
  mask : BitVec 52
  valid : Bool
deriving DecidableEq, Repr

/-- MTRRDEF_REG, the fixed-range and the variable-range MTRRs (12 R401 to R405). -/
structure Mtrr where
  e : Bool
  fe : Bool
  type : BitVec 8
  fixed : List (BitVec 64)
  var : List MtrrVar
deriving DecidableEq, Repr

/-- One performance counter: PERFCNTRCFG_REG, its five filter registers, its bit of PERFFRZSTS_REG and PERFOVFSTS_REG,
and PERFCNTR_REG (12 R440 to R451). -/
structure PerfCounter where
  es : BitVec 28
  egi : BitVec 4
  gfo : Bool
  io : Bool
  en : Bool
  ridEn : Bool
  rid : BitVec 16
  didEn : Bool
  did : BitVec 16
  pasidEn : Bool
  pfm : BitVec 2
  pasid : Pasid
  atEn : Bool
  atBits : BitVec 3
  ptlEn : Bool
  ptl : BitVec 5
  frozen : Bool
  overflow : Bool
  value : BitVec 64
deriving DecidableEq, Repr

/-- PERFINTRSTS_REG.PIS and the counters (12 R435, R440 to R451). -/
structure Perf where
  pis : Bool
  counters : List PerfCounter
deriving DecidableEq, Repr

/-- The enhanced command interface (12 R460 to R462): the operand latches of ECMD_REG and ECEO_REG, and ECRSP_REG. -/
structure Ecmd where
  oa : BitVec 48
  cmd : BitVec 8
  ob : BitVec 64
  rslt : BitVec 48
  sc : BitVec 7
  ip : Bool
deriving DecidableEq, Repr

/-- The virtual command interface (12 R480 to R482) and the emulator's PASID pool (41 R995, R996). -/
structure Vcmd where
  oa : BitVec 48
  cmd : BitVec 8
  ob : BitVec 64
  rslt : BitVec 48
  sc : BitVec 7
  ip : Bool
  free : List Pasid
  allocated : List Pasid
deriving DecidableEq, Repr

/-! ## Caches (23_caching.md) -/

/-- A context-cache entry (23 R810): the context entry read, 128 bits in legacy mode, 256 in scalable mode; with CM=1 also
a marker, whose `fault` is the condition the lookup for `sid` met (its `ce` is 0 when no entry was read). -/
structure CtxEntry where
  sid : SourceId
  did : DomainId
  ce : BitVec 256
  fault : Option Cond
deriving DecidableEq, Repr

/-- A PASID-cache entry (23 R815). `fpd` is the OR of the FPD bits met on the way to it; `fault`: with CM=1 the entry may
be a marker of the condition met. -/
structure PasidEntry where
  sid : SourceId
  pasid : Pasid
  did : DomainId
  pe : BitVec 512
  fpd : Bool
  fault : Option Cond
deriving DecidableEq, Repr

/-- The result of a page walk for one page, as a cache may hold it (22 R701, 23 R820). `r`, `w`: second-stage
logical ANDs (true without a second stage); `rw`, `us`: first-stage logical ANDs (true without a first stage);
`fsDirty`, `ssDirty`: the leaf dirty flags; `fsLeaf`, `ssLeaf`: the leaf entries, for memory type and
snoop, `fsShift` the size of the first-stage leaf; `shift`: log2 of the page size; `hpa`: output address of the page's base. -/
structure PageResult where
  hpa : Addr
  shift : Nat
  r : Bool
  w : Bool
  rw : Bool
  us : Bool
  fsDirty : Bool
  ssDirty : Bool
  fsShift : Nat
  fsLeaf : BitVec 64
  ssLeaf : BitVec 64
deriving DecidableEq, Repr

/-- An IOTLB entry (23 R804, R820): tags, the context entry and PASID-table entry it was filled under ("IOTLB entries
may contain other information as well"), and the page result. `base` is the input address of the page, tagged by its
low `width` bits (23 R805). `fault`: with CM=1 a faulted second-stage translation, whose page holds the rights found
(23 R821). -/
structure IotlbEntry where
  sid : SourceId
  pasid : Pasid
  withPasid : Bool
  did : DomainId
  legacy : Bool
  pgtt : BitVec 3
  width : Nat
  base : Addr
  ce : BitVec 256
  pe : BitVec 512
  fpd : Bool
  page : PageResult
  fault : Option Cond
deriving DecidableEq, Repr

/-- The three kinds of paging-structure cache entry (23 R830). -/
inductive PscKind where
  | first | second | nested
deriving DecidableEq, Repr

/-- A paging-structure cache entry (23 R830). `shift` is 48, 39, 30 or 21; `base` the input address with the bits below
`shift` clear, of which the low `width` bits are the tag (23 R806); `table`
the table the entry references (host physical for a nested entry); `a`, `b` the accumulated R/W and U/S, or R and W;
`tblW` says, for a nested entry, that the table's second-stage translation grants write; `fault`: with CM=1 the entry may
stand for a second-stage entry that faulted (23 R832). -/
structure PscEntry where
  kind : PscKind
  did : DomainId
  pasid : Pasid
  shift : Nat
  width : Nat
  base : Addr
  table : Addr
  a : Bool
  b : Bool
  tblW : Bool
  fault : Option Cond
deriving DecidableEq, Repr

/-- An interrupt entry cache entry (23 R840). -/
structure IecEntry where
  index : BitVec 16
  irte : BitVec 128
deriving DecidableEq, Repr

/-- The translation caches and the interrupt entry cache (23 R801). -/
structure Caches where
  ctx : List CtxEntry
  pasid : List PasidEntry
  iotlb : List IotlbEntry
  psc : List PscEntry
  iec : List IecEntry
deriving DecidableEq, Repr

/-! ## Work in progress -/

/-- A Device-TLB invalidation request message (30 R882, 43 R1080). -/
structure InvReq where
  sid : SourceId
  pasid : Option Pasid
  allPasids : Bool
  sz : Bool
  addr : BitVec 52
deriving DecidableEq, Repr

/-- A page group response message (30 R881, 45 R1195). -/
structure PageResp where
  rid : SourceId
  pp : Bool
  pasid : Pasid
  prgi : BitVec 9
  rc : BitVec 4
deriving DecidableEq, Repr

/-- A descriptor fetched and not completed (40 R900). -/
inductive Pending where
  /-- An inv_wait_dsc that waits for the descriptors ahead of it. -/
  | wait (iflag sw fn pd : Bool) (data : BitVec 32) (saddr : BitVec 62)
  /-- A Device-TLB invalidation sent under an ITag. -/
  | sent (itag : Nat)
  /-- A Device-TLB invalidation that waits for a free ITag. -/
  | unsent (m : InvReq)
  /-- A page group response that waits behind an unsent Device-TLB invalidation (40 R940 h). -/
  | resp (m : PageResp)
deriving DecidableEq, Repr

/-- An allocated ITag (40 R935): its number, the target and InvCmpCnt. -/
structure ITag where
  tag : Nat
  sid : SourceId
  cnt : Nat
deriving DecidableEq, Repr

/-- A request forwarded to its host physical address (42 R1032). -/
structure Forwarded where
  req : MemReq
  hpa : Addr
  snoop : Bool
  mt : Option MemType
deriving DecidableEq, Repr

/-- The four event interrupts (60 R1400). -/
inductive EventName where
  | fault | inv | page | perf
deriving DecidableEq, Repr

/-- An interrupt message on the system bus (44 R1130, R1135): destination, vector, Delivery Mode, Redirection Hint,
Destination Mode (logical), Trigger Mode (level) and Trigger Mode Level (asserted). -/
structure IntMsg where
  dst : BitVec 32
  vector : BitVec 8
  dlm : BitVec 3
  rh : Bool
  dm : Bool
  tm : Bool
  asserted : Bool
deriving DecidableEq, Repr

/-- An interrupt on its way to a processor. -/
inductive Delivery where
  /-- An event message of the unit: the event, its Address and Upper Address registers and its data (44 R1150, 60 R1400). -/
  | event (e : EventName) (addr upper data : BitVec 32)
  /-- A compatibility-format request passed through (44 R1105). -/
  | compat (sid : SourceId) (addr data : BitVec 32)
  /-- A remapped interrupt (44 R1125). -/
  | remapped (m : IntMsg)
  /-- A posted-interrupt notification (44 R1135). -/
  | notification (m : IntMsg)
deriving DecidableEq, Repr

/-- A member of `intr_in_flight` (70 R1489): an interrupt not yet accepted, and the source whose request it came from. -/
structure IntrFlight where
  sid : SourceId
  msg : Delivery
deriving DecidableEq, Repr

/-- How the unit itself accesses memory (20 R525). -/
inductive BusKind where
  | read | write | atomic
deriving DecidableEq, Repr

/-- An access of the unit itself to memory: address, bytes, whether it snoops processor caches (20 R525) and its memory
type (22 R776). -/
structure UnitAccess where
  kind : BusKind
  addr : Nat
  size : Nat
  snoop : Bool
  mt : MemType
deriving DecidableEq, Repr

/-- What a register write submits: a command of the opcode table, or a virtual command of a reserved code, 3 to 255, which has no
row there and completes all the same (41 R994). -/
inductive Submitted where
  | instr (i : Instr)
  | reservedVirtual
deriving DecidableEq, Repr

/-- A register command submitted and not completed (41 R965), with the pointers as they stood at Submit. -/
structure PendCmd where
  cmd : Submitted
  root : RootPtr
  irt : IrtPtr
deriving DecidableEq, Repr

/-- A piece of a software store that waits in the write buffer and reaches memory whole (20 R511, R535). -/
structure StorePiece where
  addr : Nat
  data : List Byte
deriving DecidableEq, Repr

/-- The data of a successful translation completion (43 R1060). -/
structure TrCompletion where
  addr : BitVec 52
  s : Bool
  n : Bool
  g : Bool
  priv : Bool
  exe : Bool
  u : Bool
  w : Bool
  r : Bool
deriving DecidableEq, Repr

/-- What a requester receives. -/
inductive Response where
  /-- A read or AtomicOp completion with data. -/
  | data (bytes : List Byte)
  /-- A translation completion with data (43 R1060). -/
  | translation (c : TrCompletion)
  /-- Completion status Unsupported Request. -/
  | ur
  /-- Completion status Completer Abort. -/
  | ca
  /-- A page group response the unit generates itself (45 R1175). -/
  | page (m : PageResp)
  /-- A packet the root complex treats as malformed (22 R708). -/
  | malformed
deriving DecidableEq, Repr

/-- What leaves the unit: the model's own trace, newest first. -/
inductive Out where
  /-- A request sent on to its host physical address. -/
  | forward (f : Forwarded)
  /-- A response to a requester. -/
  | respond (sid : SourceId) (r : Response)
  /-- A Device-TLB invalidation request (43 R1080). -/
  | invRequest (m : InvReq) (itag : Nat)
  /-- A page group response sent for a descriptor (45 R1195). -/
  | pageResp (m : PageResp)
  /-- An interrupt accepted by the processors. -/
  | interrupt (d : Delivery)
  /-- The value of a register read. -/
  | regRead (off width : Nat) (val : BitVec 64)
deriving DecidableEq, Repr

/-! ## The environment -/

/-- Which caches a step may use or fill, or which an eviction names. -/
inductive CacheName where
  | ctx | pasid | iotlb | psc | iec
deriving DecidableEq, Repr

/-- The freedoms of the unit in one step (log 6). `defer`: a register command, forwarded request, interrupt or software
store stays in flight; `use`, `fill`: caches consulted and filled; `coarser`: by how many grades an invalidation is
coarsened; `pick`: which free PASID or ITag is handed out, and which of several IOTLB entries is used (23 R823);
`smaller`: by how many page-size grades a filled IOTLB entry is smaller than the page (23 R823); `badReads`, `badWrites`:
addresses at which an access by the unit fails (20 R520, 92 D8); `hold`: a transient condition holds event messages
(60 R1402); `keep`: pending descriptors run after a time-out (93 U22); `stopRecord`: a fault of a Stop Marker is recorded
(93 U37). -/
structure Choice where
  defer : Bool
  use : List CacheName
  fill : List CacheName
  coarser : Nat
  pick : Nat
  smaller : Nat
  badReads : List Nat
  badWrites : List Nat
  hold : Bool
  keep : Bool
  stopRecord : Bool
deriving DecidableEq, Repr

/-- No freedom taken: everything at once, no cache, no failure. -/
def Choice.plain : Choice :=
  { defer := false, use := [], fill := [], coarser := 0, pick := 0, smaller := 0, badReads := [], badWrites := [],
    hold := false, keep := false, stopRecord := true }

/-- What the environment does next (10_state.md R100, R101). -/
inductive Event where
  /-- A software register write of `width` bytes. -/
  | softWrite (off width : Nat) (val : BitVec 64)
  /-- A software register read of `width` bytes. -/
  | softRead (off width : Nat)
  /-- A locked software access to a register (10 R114). -/
  | softLocked (off : Nat)
  /-- A software store to a host physical address: memory, or a register of the unit (10 R111). -/
  | memStore (addr : Nat) (bytes : List Byte)
  /-- A software load of `width` bytes at a host physical address. -/
  | memLoad (addr width : Nat)
  /-- The queue engine takes a turn (40 R902). -/
  | iqTurn
  /-- A message of a device reaches the unit. -/
  | device (r : Raw)
  /-- The unit writes a page-request descriptor (45 R1185). -/
  | prqWrite (w : BitVec 256)
  /-- The time-out of an outstanding Device-TLB invalidation (40 R935). -/
  | devTlbTimeout (itag : Nat)
  /-- The oldest pending register command completes (41 R965). -/
  | complete
  /-- The n-th in-flight request is globally observed (70 R1485). -/
  | commit (n : Nat)
  /-- The n-th in-flight interrupt is accepted (70 R1489). -/
  | accept (n : Nat)
  /-- A cache drops its n-th entry (23 R802). -/
  | evict (c : CacheName) (n : Nat)
  /-- The oldest piece of a buffered software store reaches memory (20 R535). -/
  | drainStore
  /-- The completion of a read that software made of a device passes upstream (44 R1137). -/
  | readCompletion (sid : SourceId)
  /-- A transient condition that held event messages ends (60 R1402). -/
  | release
  /-- A time or occupancy event of the perfmon counters (93 U39): group, event bit, amount. -/
  | perfPulse (group event amount : Nat)
  /-- A reset: Power Good Reset, or one that keeps sticky fields (70 R1451). -/
  | reset (powerGood : Bool)
deriving DecidableEq, Repr

/-- An event with the freedoms the unit takes in its step. -/
structure Input where
  ev : Event
  ch : Choice
deriving DecidableEq, Repr

/-! ## The state -/

/-- The whole state of one unit and of the host memory it reads and writes. The last five fields are the model's own
(INVENTORY.md); `out` and `bus` are traces, newest first: what leaves the unit, and its own accesses to memory. -/
structure State where
  caps : Caps
  plat : Platform
  gsts : Gsts
  rtaddr : RootPtr
  latchedRt : RootPtr
  ccmd : Ccmd
  iotlbReg : IotlbReg
  iva : Iva
  fsts : Fsts
  frcd : List Frcd
  faultIdx : Nat
  faultEv : EventRegs
  invEv : EventRegs
  pageEv : EventRegs
  perfEv : EventRegs
  pmr : Pmr
  iq : Iq
  iwc : Bool
  iqercd : Iqercd
  irta : IrtPtr
  latchedIr : IrtPtr
  prq : Prq
  mtrr : Mtrr
  perf : Perf
  ecmd : Ecmd
  vcmd : Vcmd
  caches : Caches
  iqPend : List Pending
  itags : List ITag
  wbuf : List StorePiece
  inFlight : List Forwarded
  intrFlight : List IntrFlight
  pendCmds : List PendCmd
  mem : List Host.Cell
  out : List Out
  bus : List UnitAccess
  inputs : List Input
  choice : Choice
  freeCtr : Nat
deriving DecidableEq, Repr

/-- Reasons a step stops with a fault. -/
inductive Fault where
  /-- A software store names an address outside the address space, or one that is neither memory nor a register of the
  unit (20 R501, R502). Raised by the event memStore; safe: the machine stops where the spec gives no access. -/
  | storeOutsideAddressSpace
deriving DecidableEq, Repr

/-- Reasons the model has no meaning for a step. -/
inductive Refusal where
  /-- An instruction whose meaning is not written. Raised by exec's refused arms; safe. -/
  | notModelled (mnemonic : String)
  /-- A register access narrower than a doubleword, unaligned, or wider than a quadword (93 U1). Raised by softRead and
  softWrite; safe. -/
  | badAccessWidth
  /-- A locked operation on a register (93 U2). Raised by softLocked; safe. -/
  | lockedAccess
  /-- An inv_wait_dsc with SW=1 whose status address is not routable to memory (93 U23). Raised by inv_wait_dsc;
  safe. -/
  | statusAddrNotMemory
  /-- GCMD_REG written while ECRSP_REG.IP=1 (93 U24). Raised by a GCMD_REG write; safe. -/
  | gcmdWhileEcmd
  /-- CCMD_REG, IOTLB_REG or IVA_REG written while its command is pending (93 U25). Raised by softWrite; safe. -/
  | commandRegisterBusy
  /-- SRTP changes the translation table mode while TES=1 on a unit with ESRTPS=0 whose caches are not empty (93 U41).
  Raised by GCMD.SRTP; safe. -/
  | ttmChangedWhileActive
deriving DecidableEq, Repr

/-- The outcome of a step of this machine. -/
abbrev Result := Host.Outcome State Fault Refusal

/-! ## Reset (70 R1450 to R1452) -/

/-- An event interrupt's registers after reset: IM=1, IP=0, the rest 0 (11 R255 to R258). -/
def EventRegs.reset : EventRegs := { im := true, ip := false, imd := 0, ma := 0, mua := 0 }

/-- A fault recording register after reset: F=0; the ROS fields have default X, DESIGN CHOICE 0 (log 4). -/
def Frcd.reset : Frcd :=
  { f := false, t1 := false, t2 := false, atf := 0, pv := 0, fr := 0, pp := false, exe := false, priv := false,
    sid := 0, fi := 0 }

/-- A performance counter after reset (12 R440 to R451). -/
def PerfCounter.reset : PerfCounter :=
  { es := 0, egi := 0, gfo := false, io := false, en := false, ridEn := false, rid := 0, didEn := false, did := 0,
    pasidEn := false, pfm := 0, pasid := 0, atEn := false, atBits := 0, ptlEn := false, ptl := 0, frozen := false,
    overflow := false, value := 0 }

/-- A variable-range MTRR pair after reset (12 R404, R405). -/
def MtrrVar.reset : MtrrVar := { base := 0, type := 0, mask := 0, valid := false }

/-- The constants of the unit after reset (log 1). -/
def Caps.reset : Caps :=
  { ver := Config.verReg, cap := Config.capReg, ecap := Config.ecapReg, mtrrcap := Config.mtrrcapReg,
    perfcap := Config.perfcapReg, perfcfgoff := Config.perfcfgoffReg, perffrzoff := Config.perffrzoffReg,
    perfovfoff := Config.perfovfoffReg, perfcntroff := Config.perfcntroffReg,
    perfevntcap := Config.perfevntcapRegs, percap := Config.percapRegs,
    eccap1 := Config.eccap1Reg, vccap := Config.vccapReg }

/-- The platform parameters after reset (log 1). -/
def Platform.reset : Platform :=
  { haw := Config.haw, regBase := Config.regBase, notMemory := [], regPages := 4, numItag := 32,
    iotlbCrossHit := false, sct41 := [], pmrChecksRemapped := true, ptShift := 30, faultCompression := false,
    filterOk := Config.filterOk,
    plmrN := 19, phmrN := 19, splitPages := true, upperAddr := true, rcb := 64, iqercd := true }

/-- The caches after reset: empty (92 D41). -/
def Caches.reset : Caches := { ctx := [], pasid := [], iotlb := [], psc := [], iec := [] }

/-- The machine right after Power Good Reset (70 R1450 to R1452). -/
def State.reset : State :=
  { caps := Caps.reset
    plat := Platform.reset
    gsts := { tes := false, rtps := false, wbfs := false, qies := false, ires := false, irtps := false, cfis := false }
    rtaddr := { rta := 0, ttm := 0 }
    latchedRt := { rta := 0, ttm := 0 }
    ccmd := { icc := false, cirg := 0, caig := 0, fm := 0, sid := 0, did := 0 }
    iotlbReg := { ivt := false, iirg := 0, iaig := 0, dr := false, dw := false, did := 0 }
    iva := { addr := 0, ih := false, am := 0 }
    fsts := { fri := 0, ite := false, ice := false, iqe := false, pfo := false }
    frcd := [Frcd.reset, Frcd.reset]
    faultIdx := 0
    faultEv := EventRegs.reset
    invEv := EventRegs.reset
    pageEv := EventRegs.reset
    perfEv := EventRegs.reset
    pmr := { epm := false, prs := false, plmBase := 0, plmLimit := 0, phmBase := 0, phmLimit := 0 }
    iq := { qh := 0, qt := 0, iqa := 0, dw := false, qs := 0 }
    iwc := false
    iqercd := { icesid := 0, itesid := 0, iqei := 0 }
    irta := { irta := 0, eime := false, size := 0 }
    latchedIr := { irta := 0, eime := false, size := 0 }
    prq := { pqh := 0, pqt := 0, pqa := 0, pqs := 0, pro := false, ppr := false }
    mtrr := { e := false, fe := false, type := 0, fixed := List.replicate 11 0, var := List.replicate 10 MtrrVar.reset }
    perf := { pis := false, counters := List.replicate 4 PerfCounter.reset }
    ecmd := { oa := 0, cmd := 0, ob := 0, rslt := 0, sc := 0, ip := false }
    vcmd := { oa := 0, cmd := 0, ob := 0, rslt := 0, sc := 0, ip := false, free := Config.vpasidFree, allocated := [] }
    caches := Caches.reset
    iqPend := []
    itags := []
    wbuf := []
    inFlight := []
    intrFlight := []
    pendCmds := []
    mem := []
    out := []
    bus := []
    inputs := []
    choice := Choice.plain
    freeCtr := 0 }

end Sys2Proof.Machine
end

