-- ==== Sys2Proof/Machine/Caps.lean ====
section
/-! DEFINITION. The fields of the capability registers, by name (10_state.md R120 to R122; 12 R400, R430), and the
legal parameter sets (10 R123). -/

namespace Sys2Proof.Machine

/-- VER_REG.MAX (10 R120). -/
def Caps.verMax (c : Caps) : Nat := (field c.ver 4 4).toNat

/-- CAP_REG.ESRTPS (10 R121). -/
def Caps.esrtps (c : Caps) : Bool := bitAt c.cap 63

/-- CAP_REG.ESIRTPS (10 R121). -/
def Caps.esirtps (c : Caps) : Bool := bitAt c.cap 62

/-- CAP_REG.ECMDS (10 R121). -/
def Caps.ecmds (c : Caps) : Bool := bitAt c.cap 61

/-- CAP_REG.FS5LP (10 R121). -/
def Caps.fs5lp (c : Caps) : Bool := bitAt c.cap 60

/-- CAP_REG.PI (10 R121). -/
def Caps.pi (c : Caps) : Bool := bitAt c.cap 59

/-- CAP_REG.FS1GP (10 R121). -/
def Caps.fs1gp (c : Caps) : Bool := bitAt c.cap 56

/-- CAP_REG.DRD (10 R121). -/
def Caps.drd (c : Caps) : Bool := bitAt c.cap 55

/-- CAP_REG.DWD (10 R121). -/
def Caps.dwd (c : Caps) : Bool := bitAt c.cap 54

/-- CAP_REG.PSI (10 R121). -/
def Caps.psi (c : Caps) : Bool := bitAt c.cap 39

/-- CAP_REG.ZLR (10 R121). -/
def Caps.zlr (c : Caps) : Bool := bitAt c.cap 22

/-- CAP_REG.CM (10 R121). -/
def Caps.cm (c : Caps) : Bool := bitAt c.cap 7

/-- CAP_REG.PHMR (10 R121). -/
def Caps.phmr (c : Caps) : Bool := bitAt c.cap 6

/-- CAP_REG.PLMR (10 R121). -/
def Caps.plmr (c : Caps) : Bool := bitAt c.cap 5

/-- CAP_REG.RWBF (10 R121). -/
def Caps.rwbf (c : Caps) : Bool := bitAt c.cap 4

/-- CAP_REG.MAMV (10 R121). -/
def Caps.mamv (c : Caps) : Nat := (field c.cap 48 6).toNat

/-- CAP_REG.NFR (10 R121). -/
def Caps.nfr (c : Caps) : Nat := (field c.cap 40 8).toNat

/-- CAP_REG.SSLPS (10 R121). -/
def Caps.sslps (c : Caps) : Nat := (field c.cap 34 4).toNat

/-- CAP_REG.FRO (10 R121). -/
def Caps.fro (c : Caps) : Nat := (field c.cap 24 10).toNat

/-- CAP_REG.MGAW (10 R121). -/
def Caps.mgaw (c : Caps) : Nat := (field c.cap 16 6).toNat

/-- CAP_REG.SAGAW (10 R121). -/
def Caps.sagaw (c : Caps) : Nat := (field c.cap 8 5).toNat

/-- CAP_REG.ND (10 R121). -/
def Caps.nd (c : Caps) : Nat := (field c.cap 0 3).toNat

/-- ECAP_REG.SMS (10 R122). -/
def Caps.sms (c : Caps) : Bool := bitAt c.ecap 58

/-- ECAP_REG.RPRIVS (10 R122). -/
def Caps.rprivs (c : Caps) : Bool := bitAt c.ecap 53

/-- ECAP_REG.ADMS (10 R122). -/
def Caps.adms (c : Caps) : Bool := bitAt c.ecap 52

/-- ECAP_REG.PMS (10 R122). -/
def Caps.pms (c : Caps) : Bool := bitAt c.ecap 51

/-- ECAP_REG.RPS (10 R122). -/
def Caps.rps (c : Caps) : Bool := bitAt c.ecap 49

/-- ECAP_REG.SMPWCS (10 R122). -/
def Caps.smpwcs (c : Caps) : Bool := bitAt c.ecap 48

/-- ECAP_REG.FSTS (10 R122). -/
def Caps.fsts (c : Caps) : Bool := bitAt c.ecap 47

/-- ECAP_REG.SSTS (10 R122). -/
def Caps.ssts (c : Caps) : Bool := bitAt c.ecap 46

/-- ECAP_REG.SSADS (10 R122). -/
def Caps.ssads (c : Caps) : Bool := bitAt c.ecap 45

/-- ECAP_REG.VCS (10 R122). -/
def Caps.vcs (c : Caps) : Bool := bitAt c.ecap 44

/-- ECAP_REG.SMTS (10 R122). -/
def Caps.smts (c : Caps) : Bool := bitAt c.ecap 43

/-- ECAP_REG.PDS (10 R122). -/
def Caps.pds (c : Caps) : Bool := bitAt c.ecap 42

/-- ECAP_REG.DIT (10 R122). -/
def Caps.dit (c : Caps) : Bool := bitAt c.ecap 41

/-- ECAP_REG.PASID (10 R122). -/
def Caps.pasids (c : Caps) : Bool := bitAt c.ecap 40

/-- ECAP_REG.EAFS (10 R122). -/
def Caps.eafs (c : Caps) : Bool := bitAt c.ecap 34

/-- ECAP_REG.NWFS (10 R122). -/
def Caps.nwfs (c : Caps) : Bool := bitAt c.ecap 33

/-- ECAP_REG.SRS (10 R122). -/
def Caps.srs (c : Caps) : Bool := bitAt c.ecap 31

/-- ECAP_REG.ERS (10 R122). -/
def Caps.ers (c : Caps) : Bool := bitAt c.ecap 30

/-- ECAP_REG.PRS (10 R122). -/
def Caps.prs (c : Caps) : Bool := bitAt c.ecap 29

/-- ECAP_REG.NEST (10 R122). -/
def Caps.nest (c : Caps) : Bool := bitAt c.ecap 26

/-- ECAP_REG.MTS (10 R122). -/
def Caps.mts (c : Caps) : Bool := bitAt c.ecap 25

/-- ECAP_REG.SC (10 R122). -/
def Caps.sc (c : Caps) : Bool := bitAt c.ecap 7

/-- ECAP_REG.PT (10 R122). -/
def Caps.pt (c : Caps) : Bool := bitAt c.ecap 6

/-- ECAP_REG.EIM (10 R122). -/
def Caps.eim (c : Caps) : Bool := bitAt c.ecap 4

/-- ECAP_REG.IR (10 R122). -/
def Caps.ir (c : Caps) : Bool := bitAt c.ecap 3

/-- ECAP_REG.DT (10 R122). -/
def Caps.dt (c : Caps) : Bool := bitAt c.ecap 2

/-- ECAP_REG.QI (10 R122). -/
def Caps.qi (c : Caps) : Bool := bitAt c.ecap 1

/-- ECAP_REG.C (10 R122). -/
def Caps.c (c : Caps) : Bool := bitAt c.ecap 0

/-- ECAP_REG.PSS (10 R122). -/
def Caps.pss (c : Caps) : Nat := (field c.ecap 35 5).toNat

/-- ECAP_REG.MHMV (10 R122). -/
def Caps.mhmv (c : Caps) : Nat := (field c.ecap 20 4).toNat

/-- ECAP_REG.IRO (10 R122). -/
def Caps.iro (c : Caps) : Nat := (field c.ecap 8 10).toNat

/-- MTRRCAP_REG.VCNT (12 R400). -/
def Caps.vcnt (c : Caps) : Nat := (field c.mtrrcap 0 8).toNat

/-- PERFCAP_REG as it stands: 0 on a unit without performance monitoring (46 R1230). -/
def Caps.perf (c : Caps) : BitVec 64 := if c.pms then c.perfcap else 0

/-- PERFCAP_REG.PCCS (12 R430). -/
def Caps.pccs (c : Caps) : Bool := bitAt c.perf 51

/-- PERFCAP_REG.IOS (12 R430). -/
def Caps.ios (c : Caps) : Bool := bitAt c.perf 50

/-- PERFCAP_REG.GFS (12 R430). -/
def Caps.gfs (c : Caps) : Bool := bitAt c.perf 49

/-- PERFCAP_REG.CWE (12 R430). -/
def Caps.cwe (c : Caps) : Bool := bitAt c.perf 48

/-- PERFCAP_REG.PTLFS (12 R430). -/
def Caps.ptlfs (c : Caps) : Bool := bitAt c.perf 36

/-- PERFCAP_REG.ATFS (12 R430). -/
def Caps.atfs (c : Caps) : Bool := bitAt c.perf 35

/-- PERFCAP_REG.PASIDFS (12 R430). -/
def Caps.pasidfs (c : Caps) : Bool := bitAt c.perf 34

/-- PERFCAP_REG.DIDFS (12 R430). -/
def Caps.didfs (c : Caps) : Bool := bitAt c.perf 33

/-- PERFCAP_REG.RIDFS (12 R430). -/
def Caps.ridfs (c : Caps) : Bool := bitAt c.perf 32

/-- PERFCAP_REG.CS (12 R430). -/
def Caps.cs (c : Caps) : Nat := (field c.perf 52 3).toNat

/-- PERFCAP_REG.EGCNT (12 R430). -/
def Caps.egcnt (c : Caps) : Nat := (field c.perf 24 5).toNat

/-- PERFCAP_REG.CW (12 R430). -/
def Caps.cw (c : Caps) : Nat := (field c.perf 16 7).toNat

/-- PERFCAP_REG.NCNTR (12 R430). -/
def Caps.ncntr (c : Caps) : Nat := (field c.perf 0 16).toNat

/-- PERFCFGOFF_REG.CFGO: 256 bytes per counter, so bits 7:0 are 0 (12 R431). -/
def Caps.cfgo (c : Caps) : BitVec 32 := clearLow c.perfcfgoff 8

/-- PERFFRZOFF_REG.FZO: bits 2:0 are 0 (12 R432). -/
def Caps.fzo (c : Caps) : BitVec 32 := clearLow c.perffrzoff 3

/-- PERFOVFOFF_REG.OFO: bits 2:0 are 0 (12 R433). -/
def Caps.ofo (c : Caps) : BitVec 32 := clearLow c.perfovfoff 3

/-- PERFCNTROFF_REG.CNTO, aligned to the counter stride: the low CS+10 bits are 0 (12 R434). -/
def Caps.cnto (c : Caps) : BitVec 32 := clearLow c.perfcntroff (c.cs + 10)

/-- The domain-id width 4 + 2*ND (10 R124). -/
def Caps.didw (c : Caps) : Nat := 4 + 2 * c.nd

/-- A domain-id operand as the unit compares it: its low `didw` bits (10 R124). -/
def Caps.maskDid (c : Caps) (d : DomainId) : DomainId := BitVec.ofNat 16 (d.toNat % 2 ^ c.didw)

/-- The largest PASID width: PSS + 1 bits (22 R713). -/
def Caps.pssBits (c : Caps) : Nat := c.pss + 1

/-- AW = n is supported iff SAGAW bit n is 1, n = 1, 2, 3 (21 R611). -/
def Caps.awOk (c : Caps) (aw : BitVec 3) : Bool :=
  1 ≤ aw.toNat && aw.toNat ≤ 3 && c.sagaw.testBit aw.toNat

/-- The bits of VER_REG that are not reserved (10 R120). -/
def verBits : BitVec 32 := 0xFF

/-- The bits of CAP_REG that are not reserved (10 R121; bit 38: 91 N12). -/
def capBits : BitVec 64 := 0xF9FFFFBFFFFF1FF7

/-- The bits of ECAP_REG that are not reserved (10 R122). -/
def ecapBits : BitVec 64 := 0x043BFFFEE6F3FFDF

/-- Reserved bits of the capability registers are 0 (00 R12, 10 R115). -/
def Caps.reservedClear (c : Caps) : Bool :=
  c.ver &&& ~~~verBits == 0 && c.cap &&& ~~~capBits == 0 && c.ecap &&& ~~~ecapBits == 0

/-- The offsets of the perfmon registers are aligned: the bits that 12 R431 to R434 say are 0 are 0. -/
def Caps.perfAligned (c : Caps) : Bool :=
  c.perfcfgoff == c.cfgo && c.perffrzoff == c.fzo && c.perfovfoff == c.ofo && c.perfcntroff == c.cnto

/-- The legal parameter sets (10 R123; HAW: 92 D2): the sentences of the field descriptions, and at most 15 event groups (46
R1232). -/
def Caps.legal (c : Caps) (haw : Nat) : Bool :=
  c.reservedClear && c.perfAligned && 12 < haw && !c.sagaw.testBit 0 && !c.sagaw.testBit 4 &&
  (c.pasids || (!bitAt c.vccap 1 && !bitAt c.vccap 2)) &&
  c.nd != 7 && (c.sslps == 0 || c.sslps == 1 || c.sslps == 3) && c.drd && c.dwd && !(bitAt c.cap 23) &&
  c.mgaw != 0 && haw ≤ c.mgaw + 1 &&
  (!c.smts || !c.rwbf) && (c.fsts || (!c.fs5lp && !c.fs1gp)) && (c.ir || (!c.pi && !c.eim && c.mhmv == 0)) &&
  (c.qi || (!c.smts && !c.ir && !c.dt)) && (c.fsts || c.ssts || c.pt || !c.smts) &&
  (c.smts || (!c.rps && !c.smpwcs && !c.fsts && !c.pasids && c.pss == 0 && !c.srs && !c.mts && !c.nest && !c.prs)) &&
  (c.dt || (!c.pds && !c.dit && !c.nwfs && !c.prs)) && (c.prs || !c.sms) && (c.srs || !c.rprivs) &&
  (c.ecmds || !c.pms) && (c.pms || c.perfcap == 0) && c.egcnt ≤ 15 && (c.smpwcs || (!c.ssads && !c.eafs)) && (c.fsts || !c.eafs) &&
  ((c.fsts && c.ssts) || !c.nest) && !c.ers && !(bitAt c.ecap 5) && !(bitAt c.ecap 24) && !(bitAt c.ecap 28) &&
  (c.verMax < 6 || c.ssts || c.sagaw == 0)

/-- log2 of the largest page size the unit supports (43 R1064): 1 GByte, 2 MBytes or 4 KBytes. -/
def Caps.largestPage (c : Caps) : Nat :=
  if c.fs1gp || c.sslps.testBit 1 then 30 else if c.fsts || c.sslps.testBit 0 then 21 else 12

/-- The legal platform numbers for a unit (00 R7): 1 to 32 ITags (40 R935), a register region of 2^N pages at an address aligned
to its size (10 R111, 47 R1280), a pass-through region of 4 KBytes, 2 MBytes or 1 GByte, not above the largest page size (43
R1064, 93 section 2). `filter_ok` needs no bound here: Table 44's pairs are supported whatever it adds (46 R1250). -/
def Platform.legal (p : Platform) (c : Caps) : Bool :=
  1 ≤ p.numItag && p.numItag ≤ 32 && (List.range 16).any (fun n => p.regPages == 2 ^ n) &&
  p.regBase % (p.regPages * 4096) == 0 && p.regBase + p.regPages * 4096 ≤ 2 ^ p.haw && [12, 21, 30].contains p.ptShift &&
  decide (p.ptShift ≤ c.largestPage)

end Sys2Proof.Machine
end

