-- ==== Sys2Proof/Machine/Flags.lean ====
section
/-! DEFINITION. The flag computations: status words software reads, the computed PPF bit, and the "any status set" tests
of the four events (11 R210, R250, R283, R303; 60_exceptions.md R1400 to R1418). -/

namespace Sys2Proof.Machine

/-- FSTS_REG.PPF: the OR of the F bits, never stored (11 R250, 60 R1370). -/
def State.ppf (s : State) : Bool := s.frcd.any (fun r => r.f)

/-- `FaultStatusAny()` (60 R1405). -/
def State.faultStatusAny (s : State) : Bool := s.ppf || s.fsts.pfo || s.fsts.iqe || s.fsts.ice || s.fsts.ite

/-- GSTS_REG as software reads it (11 R210). -/
def gstsWord (g : Gsts) : BitVec 32 :=
  flag 32 g.tes 31 ||| flag 32 g.rtps 30 ||| flag 32 g.wbfs 27 ||| flag 32 g.qies 26 ||| flag 32 g.ires 25 |||
  flag 32 g.irtps 24 ||| flag 32 g.cfis 23

/-- FSTS_REG as software reads it (11 R250): ITE and ICE are RsvdZ without DT, IQE without QI. -/
def fstsWord (s : State) : BitVec 32 :=
  put 32 s.fsts.fri 8 ||| flag 32 (s.fsts.ite && s.caps.dt) 6 ||| flag 32 (s.fsts.ice && s.caps.dt) 5 |||
  flag 32 (s.fsts.iqe && s.caps.qi) 4 ||| flag 32 s.ppf 1 ||| flag 32 s.fsts.pfo 0

/-- The registers of an event. -/
def State.evRegs (s : State) : EventName → EventRegs
  | .fault => s.faultEv
  | .inv => s.invEv
  | .page => s.pageEv
  | .perf => s.perfEv

/-- Put the registers of an event. -/
def State.setEvRegs (s : State) (e : EventName) (r : EventRegs) : State :=
  match e with
  | .fault => { s with faultEv := r }
  | .inv => { s with invEv := r }
  | .page => { s with pageEv := r }
  | .perf => { s with perfEv := r }

/-- `S(E)`: the OR of the status bits of an event (60 R1402). -/
def State.evStatus (s : State) : EventName → Bool
  | .fault => s.faultStatusAny
  | .inv => s.iwc
  | .page => s.prq.ppr || s.prq.pro
  | .perf => s.perf.pis

end Sys2Proof.Machine
end

