-- ==== Sys2Proof/Machine/Ops.lean ====
section
/-! DEFINITION. The shared operations over host memory (20_memory.md R502 to R535): reading and writing a canonical
list of cells, the unit's own accesses and their failure, software stores and the write buffer, free values; and taking an
"exception" of this unit: recording a fault and raising an event, with the return from it, software's servicing
(60_exceptions.md R1370, R1402). -/

namespace Sys2Proof.Machine

/-- The canonical form: addresses strictly rising, no entry equal to what an unlisted address reads as (log 2). -/
def Memory.wf : List Host.Cell → Bool
  | [] => true
  | [(_, v)] => v != Config.unlistedByte
  | (a, v) :: (b, w) :: t => v != Config.unlistedByte && a < b && Memory.wf ((b, w) :: t)

/-- The byte at an address. -/
def readByte : List Host.Cell → Nat → Byte
  | [], _ => Config.unlistedByte
  | (k, v) :: t, a => if k = a then v else readByte t a

/-- Write one byte, keeping the canonical form: writing the unlisted value removes the entry. -/
def writeByte : List Host.Cell → Nat → Byte → List Host.Cell
  | [], a, v => if v = Config.unlistedByte then [] else [(a, v)]
  | (k, w) :: t, a, v =>
    if a < k then (if v = Config.unlistedByte then (k, w) :: t else (a, v) :: (k, w) :: t)
    else if a = k then (if v = Config.unlistedByte then t else (a, v) :: t)
    else (k, w) :: writeByte t a v

/-- `n` bytes from address `a` up. -/
def readBytes (m : List Host.Cell) (a : Nat) : Nat → List Byte
  | 0 => []
  | n + 1 => readByte m a :: readBytes m (a + 1) n

/-- Write a list of bytes from address `a` up. -/
def writeBytes (m : List Host.Cell) (a : Nat) : List Byte → List Host.Cell
  | [] => m
  | b :: bs => writeBytes (writeByte m a b) (a + 1) bs

/-- An `n`-byte little-endian quantity (20 R510). -/
def readNat (m : List Host.Cell) (a n : Nat) : Nat := ofBytes (readBytes m a n)

/-- Store an `n`-byte little-endian quantity (20 R510). -/
def writeNat (m : List Host.Cell) (a n v : Nat) : List Host.Cell := writeBytes m a (toBytes n v)

/-- The ranges [a, a+n) and [b, b+m) meet. -/
def overlap (a n b m : Nat) : Bool := a < b + m && b < a + n

/-- The size of the register region in bytes (10 R111). -/
def Platform.regBytes (p : Platform) : Nat := p.regPages * 4096

/-- `is_memory` for every byte of [a, a+n): below 2^HAW, outside FEEx_xxxxh, the unit's register pages and the platform's
holes (20 R502, 93). -/
def rangeIsMemory (p : Platform) (a n : Nat) : Bool :=
  a + n ≤ 2 ^ p.haw && !overlap a n 0xFEE00000 0x100000 && !overlap a n p.regBase p.regBytes &&
    !p.notMemory.any (fun r => overlap a n r.1 r.2)

/-- A read by the unit succeeds (20 R520, 92 D8). -/
def State.readable (s : State) (a n : Nat) : Bool :=
  rangeIsMemory s.plat a n && !s.choice.badReads.any (fun b => a ≤ b && b < a + n)

/-- A write or atomic update by the unit succeeds (20 R520, 92 D8). -/
def State.writable (s : State) (a n : Nat) : Bool :=
  rangeIsMemory s.plat a n && !s.choice.badWrites.any (fun b => a ≤ b && b < a + n)

/-- `MemRead(a, n)` by the unit: none on an access error (20 R520). Software stores still in the write buffer are not
seen (20 R535). -/
def State.memRead (s : State) (a n : Nat) : Option Nat :=
  if s.readable a n then some (readNat s.mem a n) else none

/-- A piece of a buffered store written to memory. -/
def StorePiece.write (m : List Host.Cell) (p : StorePiece) : List Host.Cell := writeBytes m p.addr p.data

/-- `WriteBufferFlush()` (41 R962): every buffered software store reaches memory, oldest first. -/
def State.flush (s : State) : State := { s with mem := s.wbuf.foldl StorePiece.write s.mem, wbuf := [] }

/-- The implicit flush of an invalidation (41 R962): only units with RWBF=1 have a buffer to flush. -/
def State.implicitFlush (s : State) : State := if s.caps.rwbf then s.flush else s

/-- `MemWrite(a, n, v)` by the unit or a device: coherent, behind every earlier software store (20 R525, log 16). -/
def State.memWrite (s : State) (a n v : Nat) : State :=
  { s.flush with mem := writeNat s.flush.mem a n v }

/-- Store device data, byte by byte, behind every earlier software store (20 R525, log 16). -/
def State.memWriteBytes (s : State) (a : Nat) (bs : List Byte) : State :=
  { s.flush with mem := writeBytes s.flush.mem a bs }

/-- The pieces in which a buffered software store reaches memory: one for each aligned block of 128 bits that it touches, so
that an aligned store of 64 or 128 bits goes whole and the unit reads such an entry in one piece (20 R511, log 16). -/
def storePieces : Nat → Nat → List Byte → List StorePiece
  | _, _, [] => []
  | 0, _, _ :: _ => []
  | fuel + 1, a, b :: bs =>
    let n := 16 - a % 16
    { addr := a, data := (b :: bs).take n } :: storePieces fuel (a + n) ((b :: bs).drop n)

/-- A software store: buffered while the choice defers it on a unit with RWBF=1 (20 R535), else in memory at once. -/
def State.softStore (s : State) (a : Nat) (bs : List Byte) : State :=
  if s.caps.rwbf && s.choice.defer then { s with wbuf := s.wbuf ++ storePieces bs.length a bs }
  else s.memWriteBytes a bs

/-- The oldest piece of a buffered store reaches memory, whole (20 R511, R535). -/
def State.drainStore (s : State) : State :=
  match s.wbuf with
  | [] => s
  | p :: t => { s with mem := p.write s.mem, wbuf := t }

/-- The counter of free values moves on: the next free value is a fresh one (log 8). -/
def State.fresh (s : State) : State := { s with freeCtr := s.freeCtr + 1 }

/-- Add to the model's trace. -/
def State.emit (s : State) (o : Out) : State := { s with out := o :: s.out }

/-- An access of the unit itself reaches the memory bus, with its snoop attribute (20 R525) and type WB (22 R776). -/
def State.access (s : State) (k : BusKind) (a n : Nat) (snoop : Bool) : State :=
  { s with bus := { kind := k, addr := a, size := n, snoop := snoop, mt := .wb } :: s.bus }

/-- Send a response to a requester. -/
def State.respond (s : State) (sid : SourceId) (r : Response) : State := s.emit (.respond sid r)

/-- This step may consult the named cache (23 R802). -/
def Choice.uses (c : Choice) (n : CacheName) : Bool := c.use.contains n

/-- This step may fill the named cache (23 R802). -/
def Choice.fills (c : Choice) (n : CacheName) : Bool := c.fill.contains n

/-- The n-th element of a list taken out. -/
def takeAt {α : Type} : List α → Nat → Option (α × List α)
  | [], _ => none
  | x :: t, 0 => some (x, t)
  | x :: t, n + 1 => match takeAt t n with
    | none => none
    | some (y, t') => some (y, x :: t')

/-- 2^HAW, the end of the host physical address space (20 R501). -/
def State.hpaEnd (s : State) : Nat := 2 ^ s.plat.haw

/-- A page-number field of a register that holds a host physical address: bits at and above HAW are ignored
(20 R501). -/
def State.pageBase (s : State) (p : BitVec 52) : Nat := p.toNat * 4096 % s.hpaEnd

/-- FEE0_0000h to FEEF_FFFFh (20 R540). -/
def inInterruptRange (a : Addr) : Bool := field a 20 44 == 0xFEE#44

/-- A region of 2^shift bytes at `a` meets the interrupt range. -/
def regionMeetsInterruptRange (a : Addr) (shift : Nat) : Bool :=
  overlap (highBits a shift).toNat (2 ^ shift) 0xFEE00000 0x100000

/-! ## Taking an exception: event interrupts and fault recording (60 R1370 to R1418) -/

/-- The address of an event message: {UADDR, ADDR[31:2], 00b} (60 R1400). -/
def EventRegs.msgAddr (r : EventRegs) : BitVec 64 := r.mua ++ r.ma ++ 0#2

/-- The message goes to the interrupt logic: address bits 31:20 are FEEh, the Upper Address register standing beside them
with Destination ID bits 31:8 (44 R1150). -/
def EventRegs.isInterrupt (r : EventRegs) : Bool := field r.ma 18 12 == 0xFEE#12

/-- The data of an event message (60 R1400). -/
def EventRegs.msgData (r : EventRegs) : BitVec 32 := r.imd.setWidth 32

/-- The message of an event: its Address and Upper Address registers and its data (44 R1150). -/
def EventRegs.message (r : EventRegs) (e : EventName) : Delivery := .event e (r.ma ++ 0#2) r.mua r.msgData

/-- An event message whose address is no interrupt address is a plain memory write of the DWORD (60 R1400, log 26). A write that
fails is lost, and only the message in the trace is left: the spec names no consequence (20 R520; DESIGN CHOICE, log 26). -/
def State.storeMessage (s : State) (r : EventRegs) : State :=
  if !r.isInterrupt && s.writable r.msgAddr.toNat 4 then s.memWrite r.msgAddr.toNat 4 r.msgData.toNat else s

/-- `SendInterrupt(E)` (60 R1400): the message `(event, address, data)` is in the trace at once. -/
def State.sendInterrupt (s : State) (e : EventName) : State :=
  let r := s.evRegs e
  (s.storeMessage r).emit (.interrupt (r.message e))

/-- `Raise(E, was_pending)` (60 R1402). A transient hardware condition (`choice.hold`) holds the message with IP Set. -/
def State.raiseEvent (s : State) (e : EventName) (wasPending : Bool) : State :=
  if wasPending then s
  else if (s.evRegs e).im || s.choice.hold then s.setEvRegs e { s.evRegs e with ip := true }
  else (s.setEvRegs e { s.evRegs e with ip := false }).sendInterrupt e

/-- `OnStatusClear(E)`: the return from the event, software having serviced its status (60 R1402). -/
def State.statusCleared (s : State) (e : EventName) : State :=
  if s.evStatus e then s else s.setEvRegs e { s.evRegs e with ip := false }

/-- Software writes IM of an event's control register; 1 to 0 with IP Set releases the held message (60 R1402). -/
def State.writeIm (s : State) (e : EventName) (im : Bool) : State :=
  let r := s.evRegs e
  if r.im && !im && r.ip && !s.choice.hold then (s.setEvRegs e { r with im := false, ip := false }).sendInterrupt e
  else s.setEvRegs e { r with im := im }

/-- The transient conditions end: every held and unmasked message is sent (60 R1402). -/
def State.releaseEvent (s : State) (e : EventName) : State :=
  let r := s.evRegs e
  if r.ip && !r.im then (s.setEvRegs e { r with ip := false }).sendInterrupt e else s

/-- What `ReportFault` is given: the condition and the fields of the record (60 R1370, R1372). -/
structure FaultReport where
  reason : BitVec 8
  qualified : Bool
  fpd : Bool
  sid : SourceId
  fi : BitVec 52
  t1 : Bool
  t2 : Bool
  atf : BitVec 2
  pp : Bool
  pv : Pasid
  exe : Bool
  priv : Bool
deriving DecidableEq, Repr

/-- `FaultRecord` (60 R1372): AT is 0 on hardware without Device-TLBs, the PASID fields without PASID support. -/
def FaultReport.record (r : FaultReport) (c : Caps) : Frcd :=
  { f := true, t1 := r.t1, t2 := r.t2, atf := if c.dt then r.atf else 0, pv := if c.pasids then r.pv else 0,
    fr := r.reason, pp := r.pp && c.pasids, exe := r.exe && c.pasids, priv := r.priv && c.pasids, sid := r.sid,
    fi := r.fi }

/-- `ReportFault(f, req)` (60 R1370): suppression by FPD, overflow pending, compression, overflow, then the record at
the fault recording index, and the fault event when PPF was clear. -/
def State.reportFault (s : State) (r : FaultReport) : State :=
  if r.qualified && r.fpd then s
  else if s.fsts.pfo then s
  else if s.plat.faultCompression && s.frcd.any (fun x => x.f && x.sid == r.sid) then s
  else match s.frcd[s.faultIdx]? with
    | none => s
    | some old =>
      if old.f then { s with fsts := { s.fsts with pfo := true } }
      else
        let rec' := r.record s.caps
        let next := (s.faultIdx + 1) % s.frcd.length
        if s.ppf then { s with frcd := s.frcd.set s.faultIdx rec', faultIdx := next }
        else
          let was := s.faultStatusAny
          ({ s with
              fsts := { s.fsts with fri := BitVec.ofNat 8 s.faultIdx }
              frcd := s.frcd.set s.faultIdx rec'
              faultIdx := next }).raiseEvent .fault was

/-- The index of the next fault record is 0 again once both remappings are disabled (60 R1370). -/
def State.resetFaultIdx (s : State) : State :=
  if s.gsts.tes || s.gsts.ires then s else { s with faultIdx := 0 }

/-- The width of the largest AGAW the unit supports: record bits 63:N of the address are 0 (60 R1372, log 13). -/
def Caps.largestAgaw (c : Caps) : Nat :=
  if c.sagaw.testBit 3 then 57 else if c.sagaw.testBit 2 then 48 else if c.sagaw.testBit 1 then 39
  else if c.fs5lp then 57 else 48

/-- FI of an address-translation fault (60 R1372). -/
def faultInfo (c : Caps) (addr : Addr) : BitVec 52 :=
  BitVec.ofNat 52 (addr.toNat % 2 ^ c.largestAgaw / 4096)

end Sys2Proof.Machine
end

