-- ==== Sys2Proof/Machine/Caches.lean ====
section
/-! DEFINITION. The translation caches and the interrupt entry cache (23_caching.md): lookup by tags, fill, eviction,
and the entries each invalidation scope removes (R845 to R849). -/

namespace Sys2Proof.Machine

/-- The latched mode is scalable (22 R704). -/
def State.scalable (s : State) : Bool := s.latchedRt.ttm == 1

/-- The source-id bits a Function Mask leaves to compare (23 R845, Table 18). -/
def fmMask (fm : BitVec 2) : BitVec 16 :=
  match fm.toNat with
  | 0 => 0xFFFF
  | 1 => 0xFFFB
  | 2 => 0xFFF9
  | _ => 0xFFF8

/-- Two naturally aligned regions meet: a page of 2^sa bytes at `a`, and 2^am 4-KByte pages at `b`, compared on the
low `w` bits (23 R847). -/
def regionsMeet (w a sa b am : Nat) : Bool :=
  let k := max sa (12 + am)
  a % 2 ^ w / 2 ^ k == b % 2 ^ w / 2 ^ k

/-- `ContextCacheMatches` (23 R845), granularity 1 global, 2 domain, 3 device. -/
def ctxMatches (scal : Bool) (g : Nat) (did : DomainId) (sid : SourceId) (fm : BitVec 2) (e : CtxEntry) : Bool :=
  match g with
  | 3 => (scal || e.did == did) && (e.sid &&& fmMask fm) == (sid &&& fmMask fm)
  | 2 => scal || e.did == did
  | _ => true

/-- `PasidCacheMatches` (23 R846), grade 0 global, 1 domain, 2 PASID within domain. -/
def pasidMatches (grade : Nat) (did : DomainId) (pasid : Pasid) (e : PasidEntry) : Bool :=
  match grade with
  | 2 => e.did == did && e.pasid == pasid
  | 1 => e.did == did
  | _ => true

/-- The entry caches a second-stage or pass-through translation: first column of R847 and R848. -/
def IotlbEntry.ssOnly (e : IotlbEntry) : Bool := e.legacy || e.pgtt == 2 || e.pgtt == 4

/-- `IotlbMatches` over the IOTLB (23 R847), granularity 1 global, 2 domain, 3 page within domain. -/
def iotlbMatches (mgaw g : Nat) (did : DomainId) (addr am : Nat) (e : IotlbEntry) : Bool :=
  match g with
  | 3 => e.did == did && (!e.ssOnly || regionsMeet mgaw e.base.toNat e.page.shift addr am)
  | 2 => e.did == did
  | _ => true

/-- `IotlbMatches` over the paging-structure caches (23 R847). -/
def pscMatches (mgaw g : Nat) (did : DomainId) (addr am : Nat) (ih : Bool) (e : PscEntry) : Bool :=
  match g with
  | 3 => e.did == did &&
      (if e.kind = .second then !ih && regionsMeet mgaw e.base.toNat e.shift addr am else true)
  | 2 => e.did == did
  | _ => true

/-- `PIotlbMatches` over the IOTLB (23 R848), granularity 2 PASID, 3 page within PASID. -/
def pIotlbMatches (g : Nat) (did : DomainId) (pasid : Pasid) (addr am : Nat) (e : IotlbEntry) : Bool :=
  e.did == did && e.pasid == pasid &&
  (match g with
   | 3 => !e.ssOnly && regionsMeet e.width e.base.toNat e.page.shift addr am
   | _ => true)

/-- `PIotlbMatches` over the paging-structure caches (23 R848): never a second-stage entry. -/
def pPscMatches (g : Nat) (did : DomainId) (pasid : Pasid) (addr am : Nat) (ih : Bool) (e : PscEntry) : Bool :=
  e.kind != .second && e.did == did && e.pasid == pasid &&
  (match g with
   | 3 => !ih && regionsMeet e.width e.base.toNat e.shift addr am
   | _ => true)

/-- `IecMatches` (23 R849): every entry, or the 2^im entries at `iidx`. -/
def iecMatches (sel : Bool) (iidx : BitVec 16) (im : Nat) (e : IecEntry) : Bool :=
  !sel || e.index.toNat / 2 ^ im == iidx.toNat / 2 ^ im

/-- Remove context-cache entries of a scope (23 R845). -/
def State.invalidateCtx (s : State) (g : Nat) (did : DomainId) (sid : SourceId) (fm : BitVec 2) : State :=
  let did := s.caps.maskDid did
  { s with caches := { s.caches with ctx := s.caches.ctx.filter (fun e => !ctxMatches s.scalable g did sid fm e) } }

/-- Remove PASID-cache entries of a scope (23 R846). -/
def State.invalidatePasid (s : State) (grade : Nat) (did : DomainId) (pasid : Pasid) : State :=
  let did := s.caps.maskDid did
  { s with caches := { s.caches with pasid := s.caches.pasid.filter (fun e => !pasidMatches grade did pasid e) } }

/-- Remove IOTLB and paging-structure cache entries of a non-PASID scope (23 R847); ADDR is compared below MGAW. -/
def State.invalidateIotlb (s : State) (g : Nat) (did : DomainId) (addr : BitVec 52) (am : Nat) (ih : Bool) : State :=
  let did := s.caps.maskDid did
  let w := s.caps.mgaw + 1
  let a := (pageAddr addr).toNat
  { s with caches := { s.caches with
      iotlb := s.caches.iotlb.filter (fun e => !iotlbMatches w g did a am e)
      psc := s.caches.psc.filter (fun e => !pscMatches w g did a am ih e) } }

/-- Remove IOTLB and paging-structure cache entries of a PASID scope (23 R848). -/
def State.invalidatePIotlb (s : State) (g : Nat) (did : DomainId) (pasid : Pasid) (addr : BitVec 52) (am : Nat)
    (ih : Bool) : State :=
  let did := s.caps.maskDid did
  let a := (pageAddr addr).toNat
  { s with caches := { s.caches with
      iotlb := s.caches.iotlb.filter (fun e => !pIotlbMatches g did pasid a am e)
      psc := s.caches.psc.filter (fun e => !pPscMatches g did pasid a am ih e) } }

/-- Remove interrupt entry cache entries of a scope (23 R849). -/
def State.invalidateIec (s : State) (sel : Bool) (iidx : BitVec 16) (im : Nat) : State :=
  { s with caches := { s.caches with iec := s.caches.iec.filter (fun e => !iecMatches sel iidx im e) } }

/-- "invalidate all entries of the context-cache, PASID-cache, IOTLB, paging-structure caches" (41 R952, R955). -/
def State.invalidateAllDma (s : State) : State :=
  { s with caches := { s.caches with ctx := [], pasid := [], iotlb := [], psc := [] } }

/-- "invalidate all entries of the IEC" (41 R959, R960). -/
def State.invalidateAllIec (s : State) : State := { s with caches := { s.caches with iec := [] } }

/-- The granularity an invalidation is performed at: the one requested, or coarser by the choice, never coarser than
global = 1 (23 R802, 41 R970). -/
def State.granularity (s : State) (g : Nat) : Nat := max 1 (g - s.choice.coarser)

/-- A cache drops its n-th entry: "the unit may remove any entry at any time" (23 R802). -/
def State.evict (s : State) (c : CacheName) (n : Nat) : State :=
  match c with
  | .ctx => { s with caches := { s.caches with ctx := s.caches.ctx.eraseIdx n } }
  | .pasid => { s with caches := { s.caches with pasid := s.caches.pasid.eraseIdx n } }
  | .iotlb => { s with caches := { s.caches with iotlb := s.caches.iotlb.eraseIdx n } }
  | .psc => { s with caches := { s.caches with psc := s.caches.psc.eraseIdx n } }
  | .iec => { s with caches := { s.caches with iec := s.caches.iec.eraseIdx n } }

/-- The choice of the unit among several candidates (log 6). -/
def Choice.among {α : Type} (c : Choice) (l : List α) : Option α := l[c.pick % l.length]?

/-- Context-cache lookup by source-id (23 R804). -/
def State.ctxLookup (s : State) (sid : SourceId) : Option CtxEntry :=
  if s.choice.uses .ctx then s.caches.ctx.find? (fun e => e.sid == sid) else none

/-- PASID-cache lookup by source-id and PASID (23 R804). -/
def State.pasidLookup (s : State) (sid : SourceId) (pasid : Pasid) : Option PasidEntry :=
  if s.choice.uses .pasid then s.caches.pasid.find? (fun e => e.sid == sid && e.pasid == pasid) else none

/-- The IOTLB entry serves a request of `sid` with this PASID (or none) at this address (23 R804, R807, R822). -/
def IotlbEntry.serves (e : IotlbEntry) (crossHit scal : Bool) (sid : SourceId) (pasid : Option Pasid) (addr : Addr) :
    Bool :=
  e.sid == sid && e.legacy == !scal && e.base.toNat / 2 ^ e.page.shift == addr.toNat / 2 ^ e.page.shift &&
  (match pasid with
   | none => !e.withPasid
   | some p => e.pasid == p && (e.withPasid || crossHit))

/-- IOTLB lookup (23 R822): of several translations of the address the choice takes any (23 R823). -/
def State.iotlbLookup (s : State) (sid : SourceId) (pasid : Option Pasid) (addr : Addr) : Option IotlbEntry :=
  if s.choice.uses .iotlb then
    s.choice.among (s.caches.iotlb.filter (fun e => e.serves s.plat.iotlbCrossHit s.scalable sid pasid addr))
  else none

/-- Paging-structure cache lookup at one level (23 R833): first-stage and nested entries by PASID and domain,
second-stage entries by domain. -/
def State.pscAt (s : State) (k : PscKind) (did : DomainId) (pasid : Pasid) (width shift : Nat) (addr : Addr) :
    Option PscEntry :=
  s.caches.psc.find? (fun e => e.kind == k && e.did == did && (k == .second || e.pasid == pasid) && e.shift == shift &&
    e.width == width && regionsMeet width e.base.toNat shift addr.toNat 0)

/-- The deepest paging-structure cache entry for an address (23 R833): PDE, PDPE, PML4, PML5. -/
def State.pscLookup (s : State) (k : PscKind) (did : DomainId) (pasid : Pasid) (width : Nat) (addr : Addr) :
    Option PscEntry :=
  if s.choice.uses .psc then
    [21, 30, 39, 48].findSome? (fun sh => s.pscAt k did pasid width sh addr)
  else none

/-- IEC lookup by interrupt index (23 R841). -/
def State.iecLookup (s : State) (i : BitVec 16) : Option IecEntry :=
  if s.choice.uses .iec then s.caches.iec.find? (fun e => e.index == i) else none

/-- Fill the context-cache, replacing an entry of the same tags (23 R802). -/
def State.fillCtx (s : State) (e : CtxEntry) : State :=
  if s.choice.fills .ctx then
    { s with caches := { s.caches with ctx := e :: s.caches.ctx.filter (fun x => x.sid != e.sid) } }
  else s

/-- Fill the PASID-cache, replacing an entry of the same tags (23 R802). -/
def State.fillPasid (s : State) (e : PasidEntry) : State :=
  if s.choice.fills .pasid then
    { s with caches := { s.caches with
        pasid := e :: s.caches.pasid.filter (fun x => !(x.sid == e.sid && x.pasid == e.pasid)) } }
  else s

/-- Fill the IOTLB, replacing an entry of the same tags and page size (23 R802, R823). -/
def State.fillIotlb (s : State) (e : IotlbEntry) : State :=
  if s.choice.fills .iotlb then
    { s with caches := { s.caches with
        iotlb := e :: s.caches.iotlb.filter (fun x => !(x.sid == e.sid && x.pasid == e.pasid &&
          x.withPasid == e.withPasid && x.base == e.base && x.page.shift == e.page.shift)) } }
  else s

/-- Fill the paging-structure caches (23 R802). -/
def State.fillPsc (s : State) (es : List PscEntry) : State :=
  if s.choice.fills .psc then
    { s with caches := { s.caches with
        psc := es ++ s.caches.psc.filter (fun x => !es.any (fun e => x.kind == e.kind && x.did == e.did &&
          x.pasid == e.pasid && x.shift == e.shift && x.base == e.base)) } }
  else s

/-- Fill the interrupt entry cache, replacing the entry of the same index (23 R802). -/
def State.fillIec (s : State) (e : IecEntry) : State :=
  if s.choice.fills .iec then
    { s with caches := { s.caches with iec := e :: s.caches.iec.filter (fun x => x.index != e.index) } }
  else s

end Sys2Proof.Machine
end

