-- ==== Sys2Proof/Machine/Flight.lean ====
section
/-! DEFINITION. Forwarded requests and interrupts between the unit and their destination: global observation, and the
draining that bounds it (42_dma_requests.md R1032; 20_memory.md R567 to R569; 70_reset_and_hazards.md R1485 to R1490). -/

namespace Sys2Proof.Machine

/-- The result of an AtomicOp on the old value, with the operands in the request's data. PRESUMED (log 11): the PCI
Express FetchAdd, Swap and CompareSwap. -/
def atomicResult (k : AtomicKind) (n old : Nat) (data : List Byte) : Nat :=
  match k with
  | .fetchAdd => (old + ofBytes data) % 256 ^ n
  | .swap => ofBytes data
  | .compareSwap => if ofBytes (data.take n) = old then ofBytes (data.drop n) else old

/-- `n` free bytes from a source of free values, and the counter moved past them (log 8). -/
def State.freeBytes (s : State) (src : Nat → BitVec 8) (n : Nat) : List Byte × State :=
  ((List.range n).map (fun k => src (s.freeCtr + k)), { s with freeCtr := s.freeCtr + n })

/-- A forwarded request is globally observed: a write stores its data, a read or AtomicOp is answered, and a zero-length read is
answered with undefined data (42 R1002 to R1005). What is not memory is a device: only the request leaves, and the data of its
answer is free (20 R544, log 8). A request whose range is only partly memory is taken whole as one to a device: the spec leaves
what lies there to the platform (42 R1032; DESIGN CHOICE, log 42). -/
def State.commit (s : State) (f : Forwarded) : State :=
  let s := s.emit (.forward f)
  let a := f.hpa.toNat
  let isMem := rangeIsMemory s.plat a f.req.len
  match f.req.access with
  | .write => if isMem then s.memWriteBytes a f.req.data else s
  | .read =>
    if isMem then s.respond f.req.sid (.data (readBytes s.flush.mem a f.req.len))
    else
      let (bs, s) := s.freeBytes Config.freeDeviceByte f.req.len
      s.respond f.req.sid (.data bs)
  | .zlr =>
    let (bs, s) := s.freeBytes Config.freeZlrByte f.req.len
    s.respond f.req.sid (.data bs)
  | .atomic =>
    if isMem then
      let old := readNat s.flush.mem a f.req.len
      (s.memWrite a f.req.len (atomicResult f.req.atomic f.req.len old f.req.data)).respond f.req.sid
        (.data (toBytes f.req.len old))
    else
      let (bs, s) := s.freeBytes Config.freeDeviceByte f.req.len
      s.respond f.req.sid (.data bs)

/-- Commit the in-flight requests that `p` selects, oldest first; the others stay in flight. -/
def State.drainWhere (s : State) (p : Forwarded → Bool) : State :=
  let go := s.inFlight.filter p
  go.foldl (fun (t : State) f => t.commit f) { s with inFlight := s.inFlight.filter (fun f => !p f) }

/-- `DrainAll()` (70 R1485): every in-flight request is globally observed. -/
def State.drainAll (s : State) : State := s.drainWhere (fun _ => true)

/-- Every posted write in flight from a source-id is globally observed (20 R572). -/
def State.drainWritesOf (s : State) (sid : SourceId) : State :=
  s.drainWhere (fun f => f.req.sid == sid && f.req.access == .write)

/-- Every request in flight from a source-id that stores is globally observed: an AtomicOp counts as a write for draining
(20 R567; 70 R1485, R1491). -/
def State.drainStoresOf (s : State) (sid : SourceId) : State :=
  s.drainWhere (fun f => f.req.sid == sid && (f.req.access == .write || f.req.access == .atomic))

/-- `Forward(req, r)` (42 R1032): in flight while the choice defers it, else observed at once behind the source's earlier
posted writes (20 R572). -/
def State.forward (s : State) (f : Forwarded) : State :=
  if s.choice.defer then { s with inFlight := s.inFlight ++ [f] }
  else (s.drainWritesOf f.req.sid).commit f

/-- The n-th in-flight request is globally observed, behind its source's earlier posted writes (20 R572). -/
def State.commitNth (s : State) (n : Nat) : State :=
  match takeAt s.inFlight n with
  | none => s
  | some (f, _) =>
    let early := (s.inFlight.take n).filter (fun g => g.req.sid == f.req.sid && g.req.access == .write)
    let rest := (s.inFlight.take n).filter (fun g => !(g.req.sid == f.req.sid && g.req.access == .write))
      ++ s.inFlight.drop (n + 1)
    (early.foldl (fun (t : State) g => t.commit g) { s with inFlight := rest }).commit f

/-- Interrupts are accepted by the processors, oldest first (70 R1489). -/
def State.acceptAll (s : State) (l : List IntrFlight) : State := l.foldl (fun (t : State) d => t.emit (.interrupt d.msg)) s

/-- The in-flight interrupts that `p` selects are accepted; the others stay in flight. -/
def State.acceptWhere (s : State) (p : IntrFlight → Bool) : State :=
  ({ s with intrFlight := s.intrFlight.filter (fun d => !p d) } : State).acceptAll (s.intrFlight.filter p)

/-- An interrupt leaves for the processors: in flight while the choice defers it, else accepted at once, behind the earlier
interrupts of its source (44 R1137, 20 R572). -/
def State.deliver (s : State) (d : IntrFlight) : State :=
  if s.choice.defer then { s with intrFlight := s.intrFlight ++ [d] }
  else (s.acceptWhere (fun x => x.sid == d.sid)).emit (.interrupt d.msg)

/-- The n-th in-flight interrupt is accepted (70 R1489), behind the earlier ones of its source (44 R1137, 20 R572). -/
def State.acceptNth (s : State) (n : Nat) : State :=
  match takeAt s.intrFlight n with
  | none => s
  | some (d, _) =>
    let early := (s.intrFlight.take n).filter (fun x => x.sid == d.sid)
    let rest := (s.intrFlight.take n).filter (fun x => x.sid != d.sid) ++ s.intrFlight.drop (n + 1)
    (({ s with intrFlight := rest } : State).acceptAll early).emit (.interrupt d.msg)

/-- `DrainInterrupts()` (20 R569, 70 R1489): every in-flight interrupt is accepted. Compatibility-format interrupts that were
passed through are among them, which draining need not cover: the model drains them too (DESIGN CHOICE, log 15). A posted
interrupt takes them along by 44 R1137, which has every earlier posted request go first. -/
def State.drainInterrupts (s : State) : State := s.acceptWhere (fun _ => true)

/-- "upstream read completions must push preceding interrupt requests" (44 R1137): when a device's completion of a read passes
upstream, its earlier interrupts are accepted, the notification of a posted one included. -/
def State.readCompletion (s : State) (sid : SourceId) : State := s.acceptWhere (fun d => d.sid == sid)

end Sys2Proof.Machine
end

