-- ==== Sys2Proof/Machine/Operands.lean ====
section
/-! DEFINITION. The operand forms: every structure the unit reads from host memory, field by field, with its reserved
mask (21_translation_structures.md R600 to R675), and the forms of a request (22_translation.md R700, R706). -/

namespace Sys2Proof.Machine

/-- Some bit of `e` from `lo` up to `hi` is 1; false when `hi < lo`. -/
def anyIn {w : Nat} (e : BitVec w) (hi lo : Nat) : Bool := e.toNat / 2 ^ lo % 2 ^ (hi + 1 - lo) != 0

/-- An address field: bits (top-1):lo of the address stand at bits (off+top-1):(off+lo) of the entry. -/
def addrField {w : Nat} (e : BitVec w) (off lo top : Nat) : Addr :=
  BitVec.ofNat 64 (e.toNat / 2 ^ (off + lo) % 2 ^ (top - lo) * 2 ^ lo)

/-! ## Root entries (21 R602, R605) -/

/-- The reserved bits of a present legacy root entry (R602). -/
def rootRsvd (haw : Nat) (e : BitVec 128) : Bool := anyIn e 127 64 || anyIn e 63 haw || anyIn e 11 1

/-- Present bit and context-table pointer of the half of a scalable-mode root entry that serves `sid` (R605). -/
def smRootHalf (e : BitVec 128) (sid : SourceId) : BitVec 64 := if bitAt sid 7 then field e 64 64 else field e 0 64

/-- The reserved bits of a used half with its present bit set (R605). -/
def smRootRsvd (haw : Nat) (h : BitVec 64) : Bool := anyIn h 63 haw || anyIn h 11 1

/-! ## Context entries (21 R610 to R620). A legacy entry stands in the low 128 bits. -/

/-- Present (R610, R620). -/
def ceP (e : BitVec 256) : Bool := bitAt e 0
/-- Fault Processing Disable (R610, R620). -/
def ceFpd (e : BitVec 256) : Bool := bitAt e 1
/-- Legacy Translation Type (R612). -/
def ceTt (e : BitVec 256) : BitVec 2 := field e 2 2
/-- Legacy Address Width (R611). -/
def ceAw (e : BitVec 256) : BitVec 3 := field e 64 3
/-- Legacy Domain Identifier (R615). -/
def ceDid (e : BitVec 256) : DomainId := field e 72 16
/-- Legacy second-stage pointer (R610). -/
def ceSsptptr (haw : Nat) (e : BitVec 256) : Addr := addrField e 0 12 haw

/-- The reserved bits of a present legacy context entry (R610). -/
def ctxRsvd (c : Caps) (haw : Nat) (e : BitVec 256) : Bool :=
  anyIn e 127 88 || anyIn e 87 (72 + c.didw) || bitAt e 71 || anyIn e 11 4 ||
  ((ceTt e == 0 || ceTt e == 1) && anyIn e 63 haw)

/-- The Translation Type is supported (R612). -/
def ttOk (c : Caps) (tt : BitVec 2) : Bool :=
  match tt.toNat with
  | 0 => true
  | 1 => c.dt
  | 2 => c.pt
  | _ => false

/-- Scalable-mode Device-TLB Enable (R620). -/
def smDte (e : BitVec 256) : Bool := bitAt e 2
/-- Scalable-mode PASID Enable (R620). -/
def smPaside (e : BitVec 256) : Bool := bitAt e 3
/-- Scalable-mode Page Request Enable (R620). -/
def smPre (e : BitVec 256) : Bool := bitAt e 4
/-- PASID Directory Size (R620). -/
def smPdts (e : BitVec 256) : Nat := (field e 9 3).toNat
/-- PASID Directory Pointer (R620). -/
def smPasidDir (haw : Nat) (e : BitVec 256) : Addr := addrField e 0 12 haw
/-- The PASID of requests-without-PASID: 0 without RID-PASID support (R620). -/
def smRidPasid (c : Caps) (e : BitVec 256) : Pasid := if c.rps then field e 64 20 else 0
/-- The privilege of requests-without-PASID: 0 without RID-PRIV support (R620). -/
def smRidPriv (c : Caps) (e : BitVec 256) : Bool := c.rprivs && bitAt e 84

/-- The reserved bits of a present scalable-mode context entry (R620). -/
def smCtxRsvd (c : Caps) (haw : Nat) (e : BitVec 256) : Bool :=
  anyIn e 255 85 || (!c.rprivs && bitAt e 84) || (!c.rps && anyIn e 83 64) || anyIn e 63 haw || anyIn e 8 5 ||
  (!c.prs && bitAt e 4) || (!c.pasids && bitAt e 3) || (!c.dt && bitAt e 2)

/-! ## PASID-directory and PASID-table entries (21 R625 to R640) -/

/-- The reserved bits of a present PASID-directory entry (R625). -/
def pdeRsvd (haw : Nat) (e : BitVec 64) : Bool := anyIn e 63 haw || anyIn e 11 2

/-- Present (R630). -/
def peP (e : BitVec 512) : Bool := bitAt e 0
/-- Fault Processing Disable (R630). -/
def peFpd (e : BitVec 512) : Bool := bitAt e 1
/-- Address Width (R630). -/
def peAw (e : BitVec 512) : BitVec 3 := field e 2 3
/-- PASID Granular Translation Type (R633). -/
def pePgtt (e : BitVec 512) : BitVec 3 := field e 6 3
/-- Second Stage Access/Dirty Enable (R630). -/
def peSsade (e : BitVec 512) : Bool := bitAt e 9
/-- Second-stage pointer (R630). -/
def peSsptptr (haw : Nat) (e : BitVec 512) : Addr := addrField e 0 12 haw
/-- Domain Identifier (R640). -/
def peDid (e : BitVec 512) : DomainId := field e 64 16
/-- Page-walk Snoop (R630). -/
def pePwsnp (e : BitVec 512) : Bool := bitAt e 87
/-- Page Snoop (R630). -/
def pePgsnp (e : BitVec 512) : Bool := bitAt e 88
/-- Cache Disable (R630). -/
def peCd (e : BitVec 512) : Bool := bitAt e 89
/-- Extended Memory Type Enable (R630, R632). -/
def peEmte (e : BitVec 512) : Bool := bitAt e 90
/-- PAT sub-field `i` (R631). -/
def pePat (e : BitVec 512) (i : Nat) : BitVec 3 := field e (96 + 4 * i) 3
/-- Supervisor Request Enable (R630). -/
def peSre (e : BitVec 512) : Bool := bitAt e 128
/-- First Stage Paging Mode (R630). -/
def peFspm (e : BitVec 512) : BitVec 2 := field e 130 2
/-- Write Protect Enable (R630). -/
def peWpe (e : BitVec 512) : Bool := bitAt e 132
/-- Extended Accessed Flag Enable (R630). -/
def peEafe (e : BitVec 512) : Bool := bitAt e 135
/-- First-stage pointer (R630). -/
def peFsptptr (haw : Nat) (e : BitVec 512) : Addr := addrField e 128 12 haw

/-- The reserved bits of a present PASID-table entry (R634), with the bit beside each PAT sub-field, which R631 calls
reserved (log 24). -/
def peRsvd (c : Caps) (haw : Nat) (e : BitVec 512) : Bool :=
  anyIn e 511 192 || field e 96 32 &&& 0x88888888#32 != 0 || anyIn e 191 (haw + 128) || anyIn e 139 136 ||
  bitAt e 129 || anyIn e 95 91 || anyIn e 86 80 || anyIn e 79 (64 + c.didw) || anyIn e 63 haw || anyIn e 11 10 || bitAt e 5 ||
  (!c.fsts && (anyIn e (haw + 127) 140 || bitAt e 132 || anyIn e 131 130)) || (!c.eafs && bitAt e 135) ||
  (!c.srs && bitAt e 128) || (!c.mts && (anyIn e 127 96 || bitAt e 90 || bitAt e 89)) || (!c.sc && bitAt e 88) ||
  (!c.smpwcs && bitAt e 87) || (!c.ssts && (anyIn e (haw - 1) 12 || anyIn e 4 2)) ||
  (!(c.ssts && c.ssads) && bitAt e 9)

/-- The PGTT is supported (R633). -/
def pgttOk (c : Caps) (t : BitVec 3) : Bool :=
  match t.toNat with
  | 1 => c.fsts
  | 2 => c.ssts
  | 3 => c.nest
  | 4 => c.pt
  | _ => false

/-- The FSPM is supported (22 R715). -/
def fspmOk (c : Caps) (m : BitVec 2) : Bool := m == 0 || (m == 1 && c.fs5lp)

/-- First-stage translation takes part: PGTT 001b or 011b. -/
def usesFs (t : BitVec 3) : Bool := t == 1 || t == 3
/-- Second-stage translation takes part: PGTT 010b or 011b. -/
def usesSs (t : BitVec 3) : Bool := t == 2 || t == 3

/-- Paging structures are read with snooping (22 R735, 20 R525). -/
def snoopedWalk (c : Caps) (e : BitVec 512) : Bool := c.smpwcs && pePwsnp e

/-! ## Paging entries (21 R650 to R669). `sh` is log2 of the region the entry controls: 48, 39, 30, 21 or 12. -/

/-- The PS bit, where it has that meaning. -/
def pgPs (e : BitVec 64) (sh : Nat) : Bool := (sh == 30 || sh == 21) && bitAt e 7

/-- The entry maps a page (R650, R660). -/
def pgLeaf (e : BitVec 64) (sh : Nat) : Bool := sh == 12 || pgPs e sh

/-- The ADDR field as an address: a table, or a page of 2^sh bytes for a leaf. It ends at bit 51 where HAW is above 52: the rows
"63:52 IGN" and "(HAW-1):12 ADDR" of R650 overlap there, and the model lets the ignored bits be ignored (DESIGN CHOICE, log
44). -/
def pgAddr (haw : Nat) (e : BitVec 64) (sh : Nat) : Addr :=
  addrField e 0 (if pgPs e sh then sh else 12) (min haw 52)

/-- `fs_rsvd` (R658). -/
def fsRsvd (c : Caps) (haw : Nat) (e : BitVec 64) (sh : Nat) : Bool :=
  anyIn e 51 haw ||
  (match sh with
   | 48 | 39 => bitAt e 7
   | 30 => bitAt e 7 && (!c.fs1gp || anyIn e 29 13)
   | 21 => bitAt e 7 && anyIn e 20 13
   | _ => false)

/-- A reserved Extended Memory Type (R668, 92 D11). -/
def emtRsvd (e : BitVec 64) : Bool := let t := (field e 3 3).toNat; t == 2 || t == 3 || t == 7

/-- `ss_rsvd` (R669), and the reserved EMT of a leaf when the field is in use (R668, 92 D11). -/
def ssRsvd (c : Caps) (haw : Nat) (emte : Bool) (e : BitVec 64) (sh : Nat) : Bool :=
  bitAt e 62 || anyIn e 51 haw || (emte && pgLeaf e sh && emtRsvd e) ||
  (match sh with
   | 48 | 39 => bitAt e 11 || bitAt e 7
   | 30 => if bitAt e 7 then anyIn e 29 12 || (!c.sc && bitAt e 11) || !c.sslps.testBit 1 else bitAt e 11
   | 21 => if bitAt e 7 then anyIn e 20 12 || (!c.sc && bitAt e 11) || !c.sslps.testBit 0 else bitAt e 11
   | _ => !c.sc && bitAt e 11)

/-- The nine index bits of an address at a level (22 R721, R740). -/
def pgIndex (a : Addr) (sh : Nat) : Nat := a.toNat / 2 ^ sh % 512

/-- The levels of a walk from the top, by the number of levels. -/
def levels (n : Nat) : List Nat := [48, 39, 30, 21, 12].drop (5 - n)

/-- The adjusted guest address width of an AW value (21 R611). -/
def agaw (aw : BitVec 3) : Nat := 30 + 9 * aw.toNat

/-- The number of levels of an AW value (22 R741). -/
def agawLevels (aw : BitVec 3) : Nat := 2 + aw.toNat

/-- X, the bound of second-stage input addresses (22 R742). -/
def ssBound (c : Caps) (aw : BitVec 3) : Nat := min (c.mgaw + 1) (agaw aw)

/-! ## Interrupt remapping table entries (21 R670, R671) -/

/-- Present. -/
def irteP (e : BitVec 128) : Bool := bitAt e 0
/-- Fault Processing Disable. -/
def irteFpd (e : BitVec 128) : Bool := bitAt e 1
/-- IRTE Mode: posted. -/
def irteIm (e : BitVec 128) : Bool := bitAt e 15
/-- Urgent. -/
def irteUrg (e : BitVec 128) : Bool := bitAt e 14
/-- Vector, or Virtual Vector. -/
def irteVector (e : BitVec 128) : BitVec 8 := field e 16 8
/-- Source Identifier. -/
def irteSid (e : BitVec 128) : SourceId := field e 64 16
/-- Source-id Qualifier. -/
def irteSq (e : BitVec 128) : BitVec 2 := field e 80 2
/-- Source Validation Type. -/
def irteSvt (e : BitVec 128) : BitVec 2 := field e 82 2

/-- Destination of a remapped interrupt in xAPIC or x2APIC mode (44 R1125). -/
def irteDst (x2 : Bool) (e : BitVec 128) : BitVec 32 := if x2 then field e 32 32 else (field e 40 8).setWidth 32

/-- `irte_remap_rsvd` (R670), SVT apart. -/
def irteRemapRsvd (x2 : Bool) (e : BitVec 128) : Bool :=
  anyIn e 127 84 || anyIn e 31 24 || anyIn e 14 12 || (!x2 && (anyIn e 63 48 || anyIn e 39 32))

/-- `irte_posted_rsvd` (R671), SVT apart. Of the address bits 63:HAW those of PDAH are reserved, as its row says ("in this
field"). With HAW below 20 "entry bits 127:(HAW+64)" would reach SVT, SQ and SID: the model stops at PDAH, bit 96, and leaves the
address bits of PDAL unchecked where HAW is below 32 (DESIGN CHOICE, log 45). -/
def irtePostedRsvd (haw : Nat) (e : BitVec 128) : Bool :=
  anyIn e 95 84 || anyIn e 37 24 || anyIn e 13 12 || anyIn e 7 2 || anyIn e 127 (max 96 (haw + 64))

/-- The address of the posted-interrupt descriptor: {PDAH, PDAL, 000000b} (R671). -/
def irtePid (e : BitVec 128) : Addr := field e 96 32 ++ field e 38 26 ++ 0#6

/-- `pid_rsvd` (44 R1135, 21 R675). -/
def pidRsvd (x2 : Bool) (d : BitVec 512) : Bool :=
  anyIn d 511 320 || anyIn d 287 280 || anyIn d 271 258 || (!x2 && (anyIn d 319 304 || anyIn d 295 288))

/-- Outstanding Notification (R675). -/
def pidOn (d : BitVec 512) : Bool := bitAt d 256
/-- Suppress Notification (R675). -/
def pidSn (d : BitVec 512) : Bool := bitAt d 257
/-- Notification Vector (R675). -/
def pidNv (d : BitVec 512) : BitVec 8 := field d 272 8
/-- Notification Destination (44 R1135). -/
def pidNdst (x2 : Bool) (d : BitVec 512) : BitVec 32 := if x2 then field d 288 32 else (field d 296 8).setWidth 32

/-! ## Requests (22 R700, R706) -/

/-- The three kinds of memory request by Address Type (22 R700). -/
inductive ReqKind where
  | untranslated | translation | translated
deriving DecidableEq, Repr

/-- The Address Type of a kind (30 R880). -/
def ReqKind.atField : ReqKind → BitVec 2
  | .untranslated => 0
  | .translation => 1
  | .translated => 2

/-- The request asks for no write permission: NW=1 on hardware with No-Write-Flag Support (22 R706). -/
def reqReadOnly (c : Caps) (r : MemReq) : Bool := r.nw && c.nwfs

/-- `eff_access` (22 R706). -/
def effAccess (c : Caps) (k : ReqKind) (r : MemReq) : Access :=
  if k = .translation then (if reqReadOnly c r then .read else .atomic) else r.access

/-- The access needs write permission. -/
def accessWrites : Access → Bool
  | .write | .atomic => true
  | .read | .zlr => false

/-- {T1, T2} of a fault record (60 R1372). -/
def accessType : Access → Bool × Bool
  | .write => (false, false)
  | .read | .zlr => (true, false)
  | .atomic => (true, true)

end Sys2Proof.Machine
end

