-- ==== Sys2Proof/Machine/Perfmon.lean ====
section
/-! DEFINITION. Performance monitoring (46_perfmon.md): which events a counter supports, the seven enable checks,
filters, counting, overflow and freeze. -/

namespace Sys2Proof.Machine

/-- An occurrence of a perfmon event (46 R1244, R1255): event group and bit, the attributes the filters test, amount. Where the
source names no attribute for an event the model gives none: Requester ID 0000h, no Domain ID, and Address Type 3, which no
bit of the filter passes (DESIGN CHOICE, log 27). -/
structure Occurrence where
  group : Nat
  event : Nat
  rid : SourceId
  did : Option DomainId
  pasid : Option Pasid
  atf : Nat
  level : Option Nat
  amount : Nat
deriving DecidableEq, Repr

/-- The per-counter capability register, where it overrides PERFCAP_REG (46 R1234). -/
def Caps.perCounter (c : Caps) (k : Nat) : Option (BitVec 32 × List (BitVec 32)) :=
  match c.percap[k]? with
  | some (w, l) => if c.pccs && bitAt w 0 then some (w, l) else none
  | none => none

/-- `SupportedES(c, g)` (46 R1234). -/
def Caps.supportedEs (c : Caps) (k : Nat) (g : BitVec 4) : BitVec 28 :=
  match c.perCounter k with
  | some (w, l) =>
    match (l.take (field w 28 4).toNat).find? (fun e => field e 28 4 == g) with
    | some e => field e 0 28
    | none => 0
  | none => if g.toNat < c.egcnt then field (c.perfevntcap.getD g.toNat 0) 0 28 else 0

/-- `IOSupported(c)` (46 R1234). -/
def Caps.ioSupported (c : Caps) (k : Nat) : Bool :=
  match c.perCounter k with
  | some (w, _) => bitAt w 16
  | none => c.ios

/-- `GFSupported(c)` (46 R1234). -/
def Caps.gfSupported (c : Caps) (k : Nat) : Bool :=
  match c.perCounter k with
  | some (w, _) => bitAt w 17
  | none => c.gfs

/-- `Width(c)` (46 R1234). -/
def Caps.counterWidth (c : Caps) (k : Nat) : Nat :=
  match c.perCounter k with
  | some (w, _) => (field w 8 8).toNat
  | none => c.cw

/-- The enabled filters of a counter, numbered 0 RID, 1 DID, 2 PASID, 3 AT, 4 PTL. -/
def PerfCounter.filters (p : PerfCounter) : List Nat :=
  (if p.ridEn then [0] else []) ++ (if p.didEn then [1] else []) ++ (if p.pasidEn then [2] else []) ++
  (if p.atEn then [3] else []) ++ (if p.ptlEn then [4] else [])

/-- The support bit of a filter in PERFCAP_REG (12 R430). -/
def Caps.filterSupported (c : Caps) : Nat → Bool
  | 0 => c.ridfs
  | 1 => c.didfs
  | 2 => c.pasidfs
  | 3 => c.atfs
  | _ => c.ptlfs

/-- The set bits of an event-select field. -/
def selectedEvents (es : BitVec 28) : List Nat := (List.range 28).filter (fun i => bitAt es i)

/-- The pairs (event group, event, filter) of 46 R1240's last column; filters are numbered 0 RID, 1 DID, 2 PASID, 3 AT, 4 PTL. -/
def tableFilters : List (Nat × Nat × Nat) := [(0, 1, 3), (2, 5, 4), (2, 7, 4), (3, 1, 4)]

/-- `filter_ok` (46 R1250): Table 44's last column, and what the platform has beyond it. -/
def State.filterOk (s : State) (group event filter : Nat) : Bool :=
  (tableFilters ++ s.plat.filterOk).contains (group, event, filter)

/-- `PerfEnableChecks(c)`: the seven checks (46 R1250). -/
def perfEnableChecks (s : State) (k : Nat) : Bool :=
  match s.perf.counters[k]? with
  | none => false
  | some p =>
    let evs := selectedEvents p.es
    let flt := p.filters
    let sup := s.caps.supportedEs k p.egi
    k < s.caps.ncntr &&
    !(1 < evs.length && flt.length != 0) &&
    sup != 0 &&
    (p.es &&& ~~~sup) == 0 &&
    (!p.io || s.caps.ioSupported k) && (!p.gfo || s.caps.gfSupported k) &&
    flt.all (fun f => s.caps.filterSupported f) &&
    evs.all (fun ev => flt.all (fun f => s.filterOk p.egi.toNat ev f))

/-- `FilterPass(c, o)` (46 R1244); PFM=11b is reserved and counts nothing. An occurrence without a page-table level never passes
an enabled PTL filter, of which the spec says nothing (12 R448; DESIGN CHOICE, log 27). An occurrence that belongs to no request
has no PASID, and PFM=10b, requests-without-PASID, counts it (12 R446 speaks of requests only; DESIGN CHOICE, log 27). -/
def filterPass (p : PerfCounter) (o : Occurrence) : Bool :=
  (!p.ridEn || o.rid == p.rid) &&
  (!p.didEn || o.did == some p.did) &&
  (!p.pasidEn || (match p.pfm.toNat with
    | 0 => o.pasid == some p.pasid
    | 1 => o.pasid.isSome
    | 2 => o.pasid.isNone
    | _ => false)) &&
  (!p.atEn || bitAt p.atBits o.atf) &&
  (!p.ptlEn || (match o.level with
    | some l => bitAt p.ptl l
    | none => false))

/-- `PerfmonEvent()` (60 R1418). -/
def State.perfmonEvent (s : State) : State :=
  let old := s.perf.pis
  ({ s with perf := { s.perf with pis := true } }).raiseEvent .perf old

/-- Every valid counter's freeze bit set to a value (41 R990, R991; 46 R1255). -/
def State.freezeAll (s : State) (b : Bool) : State :=
  { s with perf := { s.perf with counters := s.perf.counters.map (fun p => { p with frozen := b }) } }

/-- The count passes the end of a counter of `n` bits (46 R1255). -/
def PerfCounter.overflows (p : PerfCounter) (o : Occurrence) (n : Nat) : Bool := decide (2 ^ n ≤ p.value.toNat + o.amount)

/-- A counter of `n` bits after an occurrence (46 R1255). -/
def PerfCounter.bump (p : PerfCounter) (o : Occurrence) (n : Nat) : PerfCounter :=
  { p with value := BitVec.ofNat 64 ((p.value.toNat + o.amount) % 2 ^ n), overflow := p.overflow || p.overflows o n }

/-- Put a counter. -/
def State.setCounter (s : State) (k : Nat) (p : PerfCounter) : State :=
  { s with perf := { s.perf with counters := s.perf.counters.set k p } }

/-- One occurrence at one counter: count, overflow, event, freeze (46 R1255). -/
def State.countAt (s : State) (o : Occurrence) (k : Nat) : State :=
  match s.perf.counters[k]? with
  | none => s
  | some p =>
    if p.en && !p.frozen && p.egi.toNat == o.group && bitAt p.es o.event && filterPass p o then
      let ovf := p.overflows o (s.caps.counterWidth k)
      let s := s.setCounter k (p.bump o (s.caps.counterWidth k))
      let s := if ovf && p.io then s.perfmonEvent else s
      if ovf && p.gfo then s.freezeAll true else s
    else s

/-- `OnOccurrence(o)` over all counters (46 R1255); nothing on a unit without perfmon. The counters take it from the lowest up,
each testing its own freeze bit, so that an overflow with GFO=1 keeps the higher ones from counting the same occurrence: the
spec's "for each c" names no order (DESIGN CHOICE, log 27). -/
def State.count (s : State) (o : Occurrence) : State :=
  if s.caps.pms then (List.range s.perf.counters.length).foldl (fun s k => s.countAt o k) s else s

/-- A list of occurrences, oldest first. -/
def State.countAll (s : State) (os : List Occurrence) : State := os.foldl (fun s o => s.count o) s

/-- The events that measure time or occupancy and may rise by any amount per step (46 R1242, 93 U39). -/
def isTimedEvent (group event : Nat) : Bool :=
  [(0, 0), (0, 2), (0, 3), (0, 5), (0, 6), (1, 5)].contains (group, event)

/-- The environment's pulse of a timed event (93 U39); any other event is not the environment's to count. It has no
requester: Requester ID 0000h, no Domain ID, Address Type 3 (log 27). -/
def State.perfPulse (s : State) (group event amount : Nat) : State :=
  if isTimedEvent group event then
    s.count ⟨group, event, 0, none, none, 3, none, amount⟩
  else s

end Sys2Proof.Machine
end

