-- ==== Sys2Proof/Machine/Interrupts.lean ====
section
/-! DEFINITION. Interrupt requests: remapping and posting (44_interrupt_remapping.md R1100 to R1137). -/

namespace Sys2Proof.Machine

/-- `IntFault` (44 R1100; 60 R1365, R1372): the request is dropped and the fault reported. -/
def State.intFault (s : State) (reason : BitVec 8) (qualified : Bool) (sid : SourceId) (fi : BitVec 52) (fpd : Bool) :
    State :=
  s.reportFault { reason := reason, qualified := qualified, fpd := fpd, sid := sid, fi := fi, t1 := false, t2 := false,
                  atf := 0, pp := false, pv := 0, exe := false, priv := false }

/-- FI of an interrupt fault: the low 16 bits of the index in bits 63:48, bits 47:12 clear (60 R1372). -/
def indexInfo (idx : Nat) : BitVec 52 := BitVec.ofNat 16 idx ++ 0#36

/-- The fault of a request whose reserved field is set: the index is undefined (44 R1100, log 32). -/
def State.reservedIntFault (s : State) (sid : SourceId) : State :=
  (s.intFault 0x20 false sid (field (Config.freeFaultInfo s.freeCtr) 0 16 ++ 0#36) false).fresh

/-- The fault of a blocked compatibility-format request: FI is undefined (44 R1105, 93 U35). -/
def State.compatIntFault (s : State) (sid : SourceId) : State :=
  (s.intFault 0x25 false sid (Config.freeFaultInfo s.freeCtr) false).fresh

/-- `DeliverCompat`: the request passes unchanged (44 R1105). -/
def State.deliverCompat (s : State) (sid : SourceId) (addr data : BitVec 32) : State :=
  s.deliver { sid := sid, msg := .compat sid addr data }

/-- `HandleCompat` (44 R1105). -/
def State.handleCompat (s : State) (sid : SourceId) (addr data : BitVec 32) : State :=
  if s.latchedIr.eime || !s.gsts.cfis then s.compatIntFault sid else s.deliverCompat sid addr data

/-- SHV, address bit 3 of a remappable request. -/
def intShv (addr : BitVec 32) : Bool := bitAt addr 3

/-- `InterruptIndex` (44 R1110): a natural sum, not truncated. -/
def interruptIndex (addr data : BitVec 32) : Nat :=
  (field addr 2 1 ++ field addr 5 15).toNat + (if intShv addr then (field data 0 16).toNat else 0)

/-- `SourceValid` (44 R1120). -/
def sourceValid (e : BitVec 128) (sid : SourceId) : Bool :=
  let d := sid ^^^ irteSid e
  match (irteSvt e).toNat with
  | 0 => true
  | 1 =>
    match (irteSq e).toNat with
    | 0 => d == 0
    | 1 => d &&& 0xFFFB == 0
    | 2 => d &&& 0xFFF9 == 0
    | _ => d &&& 0xFFF8 == 0
  | 2 => (field (irteSid e) 8 8).toNat ≤ (field sid 8 8).toNat && (field sid 8 8).toNat ≤ (field (irteSid e) 0 8).toNat
  | _ => false

/-- The message of a remapped interrupt (44 R1130): Trigger Mode Level is always asserted. -/
def remappedMsg (x2 : Bool) (e : BitVec 128) : IntMsg :=
  { dst := irteDst x2 e, vector := irteVector e, dlm := field e 5 3, rh := bitAt e 3, dm := bitAt e 2, tm := bitAt e 4,
    asserted := true }

/-- `DeliverRemapped` (44 R1130). -/
def State.deliverRemapped (s : State) (sid : SourceId) (e : BitVec 128) : State :=
  s.deliver { sid := sid, msg := .remapped (remappedMsg s.latchedIr.eime e) }

/-- The posted-interrupt descriptor after vector `vv` is posted: PIR bit, and ON if a notification is due (44 R1135). -/
def postedPid (d : BitVec 512) (vv : BitVec 8) (notify : Bool) : BitVec 512 :=
  d ||| flag 512 true vv.toNat ||| flag 512 notify 256

/-- `X` of 44 R1135: a notification is due. -/
def notifyDue (e : BitVec 128) (d : BitVec 512) : Bool := !pidOn d && (irteUrg e || !pidSn d)

/-- The notification of a posted interrupt (44 R1135): Fixed delivery, Redirection Hint 0, Edge, asserted, physical. -/
def notifyMsg (x2 : Bool) (d : BitVec 512) : IntMsg :=
  { dst := pidNdst x2 d, vector := pidNv d, dlm := 0, rh := false, dm := false, tm := false, asserted := true }

/-- The posted-interrupt descriptor of an IRTE, as the coherent read sees it. -/
def State.pidOf (s : State) (e : BitVec 128) : BitVec 512 := BitVec.ofNat 512 (readNat s.flush.mem (irtePid e).toNat 64)

/-- The fault of posting (44 R1135): the descriptor cannot be accessed, or has a reserved bit set; it is left unchanged. -/
def postFault (s : State) (e : BitVec 128) : Option (BitVec 8) :=
  let a := (irtePid e).toNat
  if !(s.readable a 64 && s.writable a 64) then some 0x27
  else if pidRsvd s.latchedIr.eime (s.pidOf e) then some 0x28
  else none

/-- `Post` (44 R1135) of a descriptor without fault: behind every earlier interrupt (44 R1137), one coherent atomic update of
its 64 bytes, then the notification. -/
def State.post (s : State) (sid : SourceId) (e : BitVec 128) : State :=
  let d := s.pidOf e
  let s := s.drainInterrupts.memWrite (irtePid e).toNat 64 (postedPid d (irteVector e) (notifyDue e d)).toNat
  if notifyDue e d then s.deliver { sid := sid, msg := .notification (notifyMsg s.latchedIr.eime d) } else s

/-- The programming checks of an IRTE (44 R1125), the requester verification before them (R1100, 92 D32): the fault reason,
or none. -/
def irteFault (s : State) (sid : SourceId) (e : BitVec 128) : Option (BitVec 8) :=
  if !irteP e then some 0x22
  else if irteSvt e == 3 then some 0x24
  else if !sourceValid e sid then some 0x26
  else if irteIm e then
    (if !s.caps.pi || irtePostedRsvd s.plat.haw e then some 0x24 else none)
  else if irteRemapRsvd s.latchedIr.eime e then some 0x24
  else none

/-- Posting goes through the IRTE's checks to the descriptor (44 R1135). -/
def reachesPid (s : State) (sid : SourceId) (e : BitVec 128) : Bool := (irteFault s sid e).isNone && irteIm e

/-- The fault of a request under an IRTE: its own checks, then those of posting. -/
def useFault (s : State) (sid : SourceId) (e : BitVec 128) : Option (BitVec 8) :=
  match irteFault s sid e with
  | some reason => some reason
  | none => if irteIm e then postFault s e else none

/-- What an IRTE does to a request (44 R1100). A fetched entry that meets no fault, that of posting included, may be cached;
with CM=1 one that does may be cached too (23 R840, log 35). The access to the descriptor is always snooped (20 R525); this atomic
update counts no IOMMU_MRDS (46 R1242; DESIGN CHOICE, log 27). -/
def State.useIrte (s : State) (sid : SourceId) (idx : Nat) (e : BitVec 128) (cached : Bool) : State :=
  let fault := useFault s sid e
  let posts := reachesPid s sid e
  let s := if cached || (fault.isSome && !s.caps.cm) then s else s.fillIec { index := BitVec.ofNat 16 idx, irte := e }
  let s := if posts then s.access .atomic (irtePid e).toNat 64 true else s
  match fault with
  | some reason => s.intFault reason true sid (indexInfo idx) (irteFpd e)
  | none => if posts then s.post sid e else s.deliverRemapped sid e

/-- One perfmon occurrence of the interrupt entry cache, or of a memory read for it (46 R1242). The lookup counts also where the
choice does not consult the cache, and the source names no Address Type for it: 3, which no bit of the filter passes (DESIGN
CHOICE, log 27). -/
def State.countInt (s : State) (group event : Nat) (sid : SourceId) : State :=
  s.count ⟨group, event, sid, none, none, 3, none, 1⟩

/-- A remappable request (44 R1100, R1110, R1115). -/
def State.remapInterrupt (s : State) (sid : SourceId) (addr data : BitVec 32) : State :=
  if intShv addr && field data 16 16 != 0 then s.reservedIntFault sid
  else
    let idx := interruptIndex addr data
    if 2 ^ (s.latchedIr.size.toNat + 1) ≤ idx then s.intFault 0x21 false sid (indexInfo idx) false
    else
      let s := s.countInt 4 0 sid
      match s.iecLookup (BitVec.ofNat 16 idx) with
      | some c => (s.countInt 4 (if irteIm c.irte then 2 else 1) sid).useIrte sid idx c.irte true
      | none =>
        let a := s.pageBase s.latchedIr.irta + 16 * idx
        if s.hpaEnd ≤ a then s.intFault 0x21 false sid (indexInfo idx) false
        else
          let s := (s.countInt 1 0 sid).access .read a 16 s.caps.c
          match s.memRead a 16 with
          | none => s.intFault 0x23 false sid (indexInfo idx) false
          | some v => s.useIrte sid idx (BitVec.ofNat 128 v) false

/-- Every posted write that is still on its way is observed before an interrupt is (44 R1137). -/
def State.drainPosted (s : State) : State := s.drainWhere (fun f => f.req.access == .write)

/-- `HandleInterruptRequest` (44 R1100). -/
def State.handleInterrupt (s : State) (sid : SourceId) (addr data : BitVec 32) : State :=
  let s := s.drainPosted
  if !s.gsts.ires then s.deliverCompat sid addr data
  else if !bitAt addr 4 then s.handleCompat sid addr data
  else s.remapInterrupt sid addr data

/-- One inbound request counted by IOMMU_REQUESTS (46 R1242). The source names no Domain ID for it: none, which no DID filter
passes (DESIGN CHOICE, log 27). -/
def State.countRequest (s : State) (sid : SourceId) (pasid : Option Pasid) (atf : Nat) : State :=
  s.count ⟨0, 1, sid, none, pasid, atf, none, 1⟩

/-- interrupt_request (44 R1100; 42 R1021): on the wire an untranslated DWORD write. -/
def execInterruptRequest (sid : SourceId) (addr data : BitVec 32) (s : State) : Result :=
  .next ((s.countRequest sid none 0).handleInterrupt sid addr data)

end Sys2Proof.Machine
end

