-- ==== Sys2Proof/WellFormed.lean ====
section
/-! DEFINITION. Which instructions are well formed: operand values the encodings of 30_encoding.md assign to the
command. A reserved granularity is decoded, is not well formed, and its meaning raises the queue error of 40 R907. -/

namespace Sys2Proof

/-- A DWORD write without PASID to FEEx_xxxxh is an interrupt request, not a memory request, whatever address bits 1:0 are
(30 R865, R867, 42 R1020). -/
def MemReq.isInterrupt (r : MemReq) : Bool :=
  r.pasid.isNone && r.access == .write && r.len == 4 && r.data.length == 4
    && r.addr.extractLsb' 20 44 == 0xFEE#44

/-- A request record carries the data its length says. -/
def MemReq.fits (r : MemReq) : Bool :=
  r.len != 0 &&
  match r.access with
  | .read => r.data.isEmpty
  | .zlr => r.data.isEmpty && r.len == 4
  | .write => r.data.length == r.len
  | .atomic => (r.len == 4 || r.len == 8 || r.len == 16) &&
      (if r.atomic = .compareSwap then r.data.length == 2 * r.len else r.data.length == r.len)

/-- The request crosses a 4-KByte boundary (20_memory.md R542). -/
def MemReq.crosses (r : MemReq) : Bool := 4096 < r.addr.toNat % 4096 + r.len

/-- A request record lies in one 4-KByte page (20_memory.md R542, 92 D10) and carries the data its length says. -/
def MemReq.shape (r : MemReq) : Bool := !r.crosses && r.fits

/-- A translation request is a read with an even DWORD length, at least 2, and full byte enables (22 R708). -/
def MemReq.atsShape (r : MemReq) : Bool :=
  r.access == .read && r.fullBe && r.len % 2 == 0 && 2 ≤ r.len && r.data.isEmpty

/-- Well-formedness, one line per constructor that has a condition. -/
def Instr.wf : Instr → Bool
  | .ccInvDsc g _ _ _ => g != 0
  | .iotlbInvDsc g _ _ _ _ _ _ => g != 0
  | .pIotlbInvDsc g _ _ _ _ _ => g == 2 || g == 3
  | .pcInvDsc g _ _ => g != 2
  | .ecmdReserved c _ => c < 240 || 245 < c
  | .untranslatedRequest r => r.shape && !r.isInterrupt
  | .translationRequest r => r.atsShape
  | .translatedRequest r => r.shape && r.pasid.isNone
  | .interruptRequest _ a _ => a.extractLsb' 20 12 == 0xFEE#12
  | .devTlbInvDsc .. | .iecInvDsc .. | .invWaitDsc .. | .pDevTlbInvDsc .. | .pageGrpRespDsc .. | .pageReqDsc ..
  | .gcmdTeEnable | .gcmdTeDisable | .gcmdSrtp | .gcmdWbf | .gcmdQieEnable | .gcmdQieDisable
  | .gcmdIreEnable | .gcmdIreDisable | .gcmdSirtp | .gcmdCfiSet | .gcmdCfiClear
  | .ccmdIcc .. | .iotlbIvt .. | .pmenEpmEnable | .pmenEpmDisable
  | .ecmdEnable .. | .ecmdDisable .. | .ecmdResetConfig .. | .ecmdResetValues .. | .ecmdFreeze .. | .ecmdUnfreeze ..
  | .vcmdNull .. | .vcmdAllocate .. | .vcmdFree ..
  | .pageRequest .. | .invalidationCompletion .. => true

end Sys2Proof
end

