-- ==== Sys2Proof/Decode.lean ====
section
/-! DEFINITION. The decoder of 30_encoding.md R850 to R882 (total, rejecting by name), then the encoder written from
the same layouts, then the host's `decodeTableWord`. Bit positions other than the Type field, DID starts and ADDR ends
are PRESUMED (log 10): the figures are lost in the source. -/

namespace Sys2Proof

/-- Why a word is no command. -/
inductive DecodeError where
  /-- A descriptor whose Type is not 01h to 09h (30 R852). -/
  | undefinedType
  /-- A descriptor of type `ty` with a reserved bit set (30 R863). -/
  | reservedField (ty : BitVec 7)
  /-- A page-request descriptor whose Type is not 01h, or with a reserved bit set (30 R862). -/
  | notPageReqDsc
  /-- A memory request with AT=11b (22 R708): Unsupported Request. -/
  | reservedAt
  /-- AT=01b on a request that is no read (22 R708): Unsupported Request. -/
  | writeWithAt01
  /-- A translated request with a PASID (22 R708): Unsupported Request. -/
  | translatedWithPasid
  /-- A translation request with a bad length or byte enables (22 R708): malformed packet. -/
  | malformedTranslation
  /-- A memory request that does not lie in one page or whose data does not fit its length (20 R542). -/
  | badShape
  /-- An upstream Invalidation Request message (22 R708): malformed packet. -/
  | upstreamInvalidation
  /-- A virtual command 3 to 255 (41 R994): completes with status 1. -/
  | undefinedVirtual (cmd : BitVec 8) (oa : BitVec 48)
deriving DecidableEq, Repr

/-- The Type field of a queue descriptor: bits 11:9 and 3:0 (30 R852). -/
def dscType (w : BitVec 256) : BitVec 7 := field w 9 3 ++ field w 0 4

/-- cc_inv_dsc (30 R853). -/
def decodeCcInv (w : BitVec 256) : Except DecodeError Instr :=
  if field w 6 3 == 0 && field w 12 4 == 0 && field w 50 206 == 0 then
    .ok (.ccInvDsc (field w 4 2) (field w 16 16) (field w 32 16) (field w 48 2))
  else .error (.reservedField 1)

/-- iotlb_inv_dsc (30 R854). -/
def decodeIotlbInv (w : BitVec 256) : Except DecodeError Instr :=
  if field w 8 1 == 0 && field w 12 4 == 0 && field w 32 32 == 0 && field w 71 5 == 0 && field w 128 128 == 0 then
    .ok (.iotlbInvDsc (field w 4 2) (bitAt w 6) (bitAt w 7) (field w 16 16) (field w 64 6) (bitAt w 70) (field w 76 52))
  else .error (.reservedField 2)

/-- dev_tlb_inv_dsc (30 R855). -/
def decodeDevTlbInv (w : BitVec 256) : Except DecodeError Instr :=
  if field w 4 5 == 0 && field w 21 11 == 0 && field w 48 4 == 0 && field w 65 11 == 0 && field w 128 128 == 0 then
    .ok (.devTlbInvDsc (field w 32 16) (field w 16 5) (field w 52 12 ++ field w 12 4) (bitAt w 64) (field w 76 52))
  else .error (.reservedField 3)

/-- iec_inv_dsc (30 R856). -/
def decodeIecInv (w : BitVec 256) : Except DecodeError Instr :=
  if field w 5 4 == 0 && field w 12 15 == 0 && field w 48 208 == 0 then
    .ok (.iecInvDsc (bitAt w 4) (field w 27 5) (field w 32 16))
  else .error (.reservedField 4)

/-- inv_wait_dsc (30 R857). -/
def decodeInvWait (w : BitVec 256) : Except DecodeError Instr :=
  if field w 8 1 == 0 && field w 12 20 == 0 && field w 64 2 == 0 && field w 128 128 == 0 then
    .ok (.invWaitDsc (bitAt w 4) (bitAt w 5) (bitAt w 6) (bitAt w 7) (field w 32 32) (field w 66 62))
  else .error (.reservedField 5)

/-- p_iotlb_inv_dsc (30 R858). -/
def decodePIotlbInv (w : BitVec 256) : Except DecodeError Instr :=
  if field w 6 3 == 0 && field w 12 4 == 0 && field w 52 12 == 0 && field w 71 5 == 0 && field w 128 128 == 0 then
    .ok (.pIotlbInvDsc (field w 4 2) (field w 16 16) (field w 32 20) (field w 64 6) (bitAt w 70) (field w 76 52))
  else .error (.reservedField 6)

/-- pc_inv_dsc (30 R859). -/
def decodePcInv (w : BitVec 256) : Except DecodeError Instr :=
  if field w 6 3 == 0 && field w 12 4 == 0 && field w 52 204 == 0 then
    .ok (.pcInvDsc (field w 4 2) (field w 16 16) (field w 32 20))
  else .error (.reservedField 7)

/-- p_dev_tlb_inv_dsc (30 R860). -/
def decodePDevTlbInv (w : BitVec 256) : Except DecodeError Instr :=
  if field w 65 10 == 0 && field w 128 128 == 0 then
    .ok (.pDevTlbInvDsc (field w 4 5) (field w 52 12 ++ field w 12 4) (field w 16 16) (field w 32 20) (bitAt w 64)
      (bitAt w 75) (field w 76 52))
  else .error (.reservedField 8)

/-- page_grp_resp_dsc (30 R861). -/
def decodePageGrpResp (w : BitVec 256) : Except DecodeError Instr :=
  if field w 5 4 == 0 && field w 52 15 == 0 && field w 76 180 == 0 then
    .ok (.pageGrpRespDsc (bitAt w 4) (field w 12 4) (field w 16 16) (field w 32 20) (field w 67 9))
  else .error (.reservedField 9)

/-- A queue descriptor (30 R852): the type selects the layout. -/
def decodeDsc (w : BitVec 256) : Except DecodeError Instr :=
  match (dscType w).toNat with
  | 1 => decodeCcInv w
  | 2 => decodeIotlbInv w
  | 3 => decodeDevTlbInv w
  | 4 => decodeIecInv w
  | 5 => decodeInvWait w
  | 6 => decodePIotlbInv w
  | 7 => decodePcInv w
  | 8 => decodePDevTlbInv w
  | 9 => decodePageGrpResp w
  | _ => .error .undefinedType

/-- A page-request descriptor (30 R862). -/
def decodePrq (w : BitVec 256) : Except DecodeError Instr :=
  if field w 0 8 == 1 && field w 9 7 == 0 && field w 54 10 == 0 && field w 128 128 == 0 then
    .ok (.pageReqDsc {
      pp := bitAt w 8, rid := field w 16 16, pasid := field w 32 20, exr := bitAt w 52, pmr := bitAt w 53,
      rdr := bitAt w 64, wrr := bitAt w 65, lpig := bitAt w 66, prgi := field w 67 9, addr := field w 76 52 })
  else .error .notPageReqDsc

/-- The commands of a GCMD_REG write `v` while GSTS_REG reads `s`, from bit 31 down to bit 23 (41 R950; several
commands of one write: 93 U3, log 20). Which of them the unit supports is decided by their meanings. -/
def decodeGcmd (s v : BitVec 32) : List Instr :=
  (if bitAt v 31 != bitAt s 31 then [if bitAt v 31 then .gcmdTeEnable else .gcmdTeDisable] else []) ++
  (if bitAt v 30 then [.gcmdSrtp] else []) ++
  (if bitAt v 27 then [.gcmdWbf] else []) ++
  (if bitAt v 26 != bitAt s 26 then [if bitAt v 26 then .gcmdQieEnable else .gcmdQieDisable] else []) ++
  (if bitAt v 25 != bitAt s 25 then [if bitAt v 25 then .gcmdIreEnable else .gcmdIreDisable] else []) ++
  (if bitAt v 24 then [.gcmdSirtp] else []) ++
  (if bitAt v 23 != bitAt s 23 then [if bitAt v 23 then .gcmdCfiSet else .gcmdCfiClear] else [])

/-- The command of a CCMD_REG write: none when ICC=0 (30 R871). -/
def decodeCcmd (v : BitVec 64) : List Instr :=
  if bitAt v 63 then [.ccmdIcc (field v 61 2) (field v 16 16) (field v 0 16) (field v 32 2)] else []

/-- The command of an IOTLB_REG write: none when IVT=0 (30 R872). -/
def decodeIotlb (v : BitVec 64) : List Instr :=
  if bitAt v 63 then [.iotlbIvt (field v 60 2) (bitAt v 49) (bitAt v 48) (field v 32 16)] else []

/-- The command of a PMEN_REG write (30 R873). -/
def decodePmen (v : BitVec 32) : List Instr :=
  [if bitAt v 31 then .pmenEpmEnable else .pmenEpmDisable]

/-- The command of an ECMD_REG write (30 R874). -/
def decodeEcmd (v : BitVec 64) : List Instr :=
  let oa := field v 16 48
  match (field v 0 8).toNat with
  | 240 => [.ecmdEnable oa]
  | 241 => [.ecmdDisable oa]
  | 242 => [.ecmdResetConfig oa]
  | 243 => [.ecmdResetValues oa]
  | 244 => [.ecmdFreeze oa]
  | 245 => [.ecmdUnfreeze oa]
  | _ => [.ecmdReserved (field v 0 8) oa]

/-- The command of a VCMD_REG write (30 R875). -/
def decodeVcmd (v : BitVec 64) : Except DecodeError (List Instr) :=
  let oa := field v 16 48
  match (field v 0 8).toNat with
  | 0 => .ok [.vcmdNull oa]
  | 1 => .ok [.vcmdAllocate oa]
  | 2 => .ok [.vcmdFree oa]
  | _ => .error (.undefinedVirtual (field v 0 8) oa)

/-- A memory request by its Address Type (30 R880, 22 R708). R708 names the memory write with AT=01b; an AtomicOp with AT=01b,
which no rule names, is turned away as one too (DESIGN CHOICE, log 39). -/
def decodeMem (atf : BitVec 2) (r : MemReq) : Except DecodeError Instr :=
  match atf.toNat with
  | 0 =>
    if r.isInterrupt then
      .ok (.interruptRequest r.sid (field r.addr 0 32) (BitVec.ofNat 32 (ofBytes r.data)))
    else if r.shape then .ok (.untranslatedRequest r) else .error .badShape
  | 1 =>
    if r.access = .write ∨ r.access = .atomic then .error .writeWithAt01
    else if r.atsShape then .ok (.translationRequest r) else .error .malformedTranslation
  | 2 =>
    if r.pasid.isSome then .error .translatedWithPasid
    else if r.shape then .ok (.translatedRequest r) else .error .badShape
  | _ => .error .reservedAt

/-- The decoder: the commands a word stands for, in the order they execute. -/
def decode : Raw → Except DecodeError (List Instr)
  | .iqDsc wide w => (decodeDsc (if wide then w else (w.setWidth 128).setWidth 256)).map (fun i => [i])
  | .prqDsc w => (decodePrq w).map (fun i => [i])
  | .gcmd s v => .ok (decodeGcmd s v)
  | .ccmd v => .ok (decodeCcmd v)
  | .iotlb v => .ok (decodeIotlb v)
  | .pmen v => .ok (decodePmen v)
  | .ecmd v => .ok (decodeEcmd v)
  | .vcmd v => decodeVcmd v
  | .mem atf r => (decodeMem atf r).map (fun i => [i])
  | .page m => .ok [.pageRequest m]
  | .completion sid vec cc => .ok [.invalidationCompletion sid vec cc]
  | .invalidation _ => .error .upstreamInvalidation

/-! ## The encoder: the words of an instruction, from the same layouts, highest field first. -/

/-- cc_inv_dsc (30 R853). -/
def encodeCcInv (g : BitVec 2) (did : DomainId) (sid : SourceId) (fm : BitVec 2) : BitVec 256 :=
  0#206 ++ fm ++ sid ++ did ++ 0#4 ++ 0#3 ++ 0#3 ++ g ++ 1#4

/-- iotlb_inv_dsc (30 R854). -/
def encodeIotlbInv (g : BitVec 2) (dw dr : Bool) (did : DomainId) (am : BitVec 6) (ih : Bool) (addr : BitVec 52) :
    BitVec 256 :=
  0#128 ++ addr ++ 0#5 ++ bit ih ++ am ++ 0#32 ++ did ++ 0#4 ++ 0#3 ++ 0#1 ++ bit dr ++ bit dw ++ g ++ 2#4

/-- dev_tlb_inv_dsc (30 R855). -/
def encodeDevTlbInv (sid : SourceId) (mip : BitVec 5) (pfsid : SourceId) (sz : Bool) (addr : BitVec 52) : BitVec 256 :=
  0#128 ++ addr ++ 0#11 ++ bit sz ++ field pfsid 4 12 ++ 0#4 ++ sid ++ 0#11 ++ mip ++ field pfsid 0 4 ++ 0#3 ++ 0#5 ++ 3#4

/-- iec_inv_dsc (30 R856). -/
def encodeIecInv (g : Bool) (im : BitVec 5) (iidx : BitVec 16) : BitVec 256 :=
  0#208 ++ iidx ++ im ++ 0#15 ++ 0#3 ++ 0#4 ++ bit g ++ 4#4

/-- inv_wait_dsc (30 R857). -/
def encodeInvWait (iflag sw fn pd : Bool) (data : BitVec 32) (saddr : BitVec 62) : BitVec 256 :=
  0#128 ++ saddr ++ 0#2 ++ data ++ 0#20 ++ 0#3 ++ 0#1 ++ bit pd ++ bit fn ++ bit sw ++ bit iflag ++ 5#4

/-- p_iotlb_inv_dsc (30 R858). -/
def encodePIotlbInv (g : BitVec 2) (did : DomainId) (pasid : Pasid) (am : BitVec 6) (ih : Bool) (addr : BitVec 52) :
    BitVec 256 :=
  0#128 ++ addr ++ 0#5 ++ bit ih ++ am ++ 0#12 ++ pasid ++ did ++ 0#4 ++ 0#3 ++ 0#3 ++ g ++ 6#4

/-- pc_inv_dsc (30 R859). -/
def encodePcInv (g : BitVec 2) (did : DomainId) (pasid : Pasid) : BitVec 256 :=
  0#204 ++ pasid ++ did ++ 0#4 ++ 0#3 ++ 0#3 ++ g ++ 7#4

/-- p_dev_tlb_inv_dsc (30 R860). -/
def encodePDevTlbInv (mip : BitVec 5) (pfsid sid : SourceId) (pasid : Pasid) (g sz : Bool) (addr : BitVec 52) :
    BitVec 256 :=
  0#128 ++ addr ++ bit sz ++ 0#10 ++ bit g ++ field pfsid 4 12 ++ pasid ++ sid ++ field pfsid 0 4 ++ 0#3 ++ mip ++ 8#4

/-- page_grp_resp_dsc (30 R861). -/
def encodePageGrpResp (pp : Bool) (rc : BitVec 4) (rid : SourceId) (pasid : Pasid) (prgi : BitVec 9) : BitVec 256 :=
  0#180 ++ prgi ++ 0#15 ++ pasid ++ rid ++ rc ++ 0#3 ++ 0#4 ++ bit pp ++ 9#4

/-- page_req_dsc (30 R862), reserved bits 0 (92 D21). -/
def encodePrq (m : PageMsg) : BitVec 256 :=
  0#128 ++ m.addr ++ m.prgi ++ bit m.lpig ++ bit m.wrr ++ bit m.rdr ++ 0#10 ++ bit m.pmr ++ bit m.exr ++ m.pasid ++
    m.rid ++ 0#7 ++ bit m.pp ++ 1#8

/-- CCMD_REG word (30 R871). -/
def encodeCcmd (cirg : BitVec 2) (sid : SourceId) (did : DomainId) (fm : BitVec 2) : BitVec 64 :=
  1#1 ++ cirg ++ 0#2 ++ 0#25 ++ fm ++ sid ++ did

/-- IOTLB_REG word (30 R872). -/
def encodeIotlb (iirg : BitVec 2) (dr dw : Bool) (did : DomainId) : BitVec 64 :=
  1#1 ++ 0#1 ++ iirg ++ 0#1 ++ 0#2 ++ 0#7 ++ bit dr ++ bit dw ++ did ++ 0#32

/-- ECMD_REG and VCMD_REG word (30 R874, R875). -/
def encodeCmd (cmd : BitVec 8) (oa : BitVec 48) : BitVec 64 := oa ++ 0#8 ++ cmd

/-- The memory request record of an interrupt request (30 R865). -/
def interruptRecord (sid : SourceId) (addr data : BitVec 32) : MemReq :=
  { sid := sid, pasid := none, addr := 0#32 ++ addr, access := .write, len := 4, fullBe := true, ns := false,
    nw := false, data := toBytes 4 data.toNat, atomic := .fetchAdd, coherent := false, cxlCache := false }

/-- The encoder: the word an agent presents to have the instruction executed. -/
def encode : Instr → Raw
  | .ccInvDsc g did sid fm => .iqDsc true (encodeCcInv g did sid fm)
  | .iotlbInvDsc g dw dr did am ih addr => .iqDsc true (encodeIotlbInv g dw dr did am ih addr)
  | .devTlbInvDsc sid mip pfsid sz addr => .iqDsc true (encodeDevTlbInv sid mip pfsid sz addr)
  | .iecInvDsc g im iidx => .iqDsc true (encodeIecInv g im iidx)
  | .invWaitDsc iflag sw fn pd data saddr => .iqDsc true (encodeInvWait iflag sw fn pd data saddr)
  | .pIotlbInvDsc g did pasid am ih addr => .iqDsc true (encodePIotlbInv g did pasid am ih addr)
  | .pcInvDsc g did pasid => .iqDsc true (encodePcInv g did pasid)
  | .pDevTlbInvDsc mip pfsid sid pasid g sz addr => .iqDsc true (encodePDevTlbInv mip pfsid sid pasid g sz addr)
  | .pageGrpRespDsc pp rc rid pasid prgi => .iqDsc true (encodePageGrpResp pp rc rid pasid prgi)
  | .pageReqDsc m => .prqDsc (encodePrq m)
  | .gcmdTeEnable => .gcmd 0 0x80000000
  | .gcmdTeDisable => .gcmd 0x80000000 0
  | .gcmdSrtp => .gcmd 0 0x40000000
  | .gcmdWbf => .gcmd 0 0x08000000
  | .gcmdQieEnable => .gcmd 0 0x04000000
  | .gcmdQieDisable => .gcmd 0x04000000 0
  | .gcmdIreEnable => .gcmd 0 0x02000000
  | .gcmdIreDisable => .gcmd 0x02000000 0
  | .gcmdSirtp => .gcmd 0 0x01000000
  | .gcmdCfiSet => .gcmd 0 0x00800000
  | .gcmdCfiClear => .gcmd 0x00800000 0
  | .ccmdIcc cirg sid did fm => .ccmd (encodeCcmd cirg sid did fm)
  | .iotlbIvt iirg dr dw did => .iotlb (encodeIotlb iirg dr dw did)
  | .pmenEpmEnable => .pmen 0x80000000
  | .pmenEpmDisable => .pmen 0
  | .ecmdEnable oa => .ecmd (encodeCmd 240 oa)
  | .ecmdDisable oa => .ecmd (encodeCmd 241 oa)
  | .ecmdResetConfig oa => .ecmd (encodeCmd 242 oa)
  | .ecmdResetValues oa => .ecmd (encodeCmd 243 oa)
  | .ecmdFreeze oa => .ecmd (encodeCmd 244 oa)
  | .ecmdUnfreeze oa => .ecmd (encodeCmd 245 oa)
  | .ecmdReserved cmd oa => .ecmd (encodeCmd cmd oa)
  | .vcmdNull oa => .vcmd (encodeCmd 0 oa)
  | .vcmdAllocate oa => .vcmd (encodeCmd 1 oa)
  | .vcmdFree oa => .vcmd (encodeCmd 2 oa)
  | .untranslatedRequest r => .mem 0 r
  | .translationRequest r => .mem 1 r
  | .translatedRequest r => .mem 2 r
  | .interruptRequest sid addr data => .mem 0 (interruptRecord sid addr data)
  | .pageRequest m => .page m
  | .invalidationCompletion sid vec cc => .completion sid vec cc

/-! ## The host's question: the instruction of a table word. -/

/-- The raw word that the bits `w` of an opcode-table row stand for. The table's rows carry no address of the register
they are written to, so the length tells the classes apart (log 7): up to 8 bits an ECMD code F0h to F5h, a page-request
type 01h or a VCMD code; up to 16 bits and above 64 a queue descriptor (256 bits, zeros above); up to 32 bits a GCMD_REG
word (a word of zeros asks for the disable of the highest command bit the length has); up to 64 bits a CCMD_REG, ECMD_REG
or VCMD_REG word. -/
def rawOfTableWord (nbits w : Nat) : Raw :=
  if nbits ≤ 8 then
    if 240 ≤ w then .ecmd (BitVec.ofNat 64 w)
    else if w = 1 then .prqDsc (BitVec.ofNat 256 w)
    else .vcmd (BitVec.ofNat 64 w)
  else if nbits ≤ 16 then .iqDsc true (BitVec.ofNat 256 w)
  else if nbits ≤ 24 then .gcmd (if w = 0 then 0x00800000 else 0) (BitVec.ofNat 32 w)
  else if nbits ≤ 32 then .gcmd (if w = 0 then 0x80000000 else 0) (BitVec.ofNat 32 w)
  else if nbits ≤ 64 then
    if w / 2 ^ 63 % 2 = 1 then .ccmd (BitVec.ofNat 64 w)
    else if 240 ≤ w % 256 then .ecmd (BitVec.ofNat 64 w)
    else .vcmd (BitVec.ofNat 64 w)
  else .iqDsc true (BitVec.ofNat 256 w)

/-- The first instruction the decoder reads from a table word. -/
def decodeTableWord (nbits w : Nat) : Option Instr :=
  match decode (rawOfTableWord nbits w) with
  | .ok (i :: _) => some i
  | _ => none

end Sys2Proof
end

