-- ==== Sys2Proof/Machine/Walk.lean ====
section
/-! DEFINITION. The page walks (22_translation.md R720 to R751). A walk only reads the state: what it met (perfmon
occurrences, its accesses to memory, FPD bits, the entries a cache may keep) and the flag updates it owes are collected in a
trail, and are applied by the caller; flags only if the walk succeeds (22 R735, 92 D17, log 14). -/

namespace Sys2Proof.Machine

/-- A flag update owed to the 64-bit entry at `hpa`: the bits to set (22 R735, R745). -/
structure FlagUpdate where
  hpa : Addr
  want : BitVec 64
deriving DecidableEq, Repr

/-- What a walk leaves behind: perfmon occurrences (group, event, page-table level), memory accesses (newest first), flag
updates, paging-structure cache entries (`early`: those that may be created though the walk faults, 23 R831), context-cache
and PASID-cache entries, the leaf of the page's own second-stage translation, its fault with the rights found (`bad`), the IOTLB
entry it makes with CM=1 (23 R821), the OR of the FPD bits met, the N bit as far as the entries read so far give it (43 R1062),
and the domain. -/
structure Trail where
  occ : List (Nat × Nat × Option Nat)
  bus : List UnitAccess
  upd : List FlagUpdate
  psc : List PscEntry
  early : List PscEntry
  ctx : Option CtxEntry
  pas : Option PasidEntry
  leaf : BitVec 64
  bad : Option (Cond × PageResult)
  iotlb : Option IotlbEntry
  fpd : Bool
  n : Bool
  did : Option DomainId
deriving DecidableEq, Repr

/-- The empty trail. -/
def Trail.empty : Trail :=
  { occ := [], bus := [], upd := [], psc := [], early := [], ctx := none, pas := none, leaf := 0, bad := none, iotlb := none,
    fpd := false, n := false, did := none }

/-- A walk: a result or the first fault condition met (22 R702), and the trail in either case. -/
abbrev Walk := ExceptT Cond (StateM Trail)

/-- Note a perfmon occurrence. The walk notes the lookup of a cache also where the choice does not consult it: 46 R1242 lets a
unit without caches report lookups with no hits, or neither (DESIGN CHOICE, log 27). -/
def note (group event : Nat) (level : Option Nat) : Walk Unit :=
  modify fun t => { t with occ := t.occ ++ [(group, event, level)] }

/-- Raise a condition if it holds. -/
def check (bad : Bool) (c : Cond) : Walk Unit := if bad then throw c else pure ()

/-- The result of a walk as a value. -/
def attempt {α : Type} (x : Walk α) : Walk (Except Cond α) :=
  ExceptT.mk (do let r ← x.run; pure (.ok r))

/-- Go on with a result that was kept as a value. -/
def resume {α : Type} : Except Cond α → Walk α
  | .ok a => pure a
  | .error c => throw c

/-- Note a paging-structure cache entry; `ready`: the flags its creation asks for are set already (23 R831). -/
def notePsc (x : PscEntry) (ready : Bool) : Walk Unit :=
  modify fun t => { t with psc := t.psc ++ [x], early := if ready then t.early ++ [x] else t.early }

/-- Read a structure entry of `n` bytes, snooping or not (20 R525); an access error raises `c` (20 R520). Counted as one
IOMMU_MRDS (46 R1242), also for an entry of 256 or 512 bits, which 20 R511 lets a unit read in parts of 128 bits (DESIGN CHOICE,
log 27); of type WB (22 R776). -/
def fetch (s : State) (a : Addr) (n : Nat) (snoop : Bool) (c : Cond) : Walk Nat := do
  note 1 0 none
  modify fun t => { t with bus := { kind := .read, addr := a.toNat, size := n, snoop := snoop, mt := .wb } :: t.bus }
  match s.memRead a.toNat n with
  | some v => pure v
  | none => throw c

/-- The address of entry `i` of `size` bytes in a table. -/
def entryAddr (table : Addr) (size i : Nat) : Addr := table + BitVec.ofNat 64 (size * i)

/-- The page-table level number of the perfmon filter: 0 PTE to 4 PML5E (46 R1244). -/
def levelOf (sh : Nat) : Nat := (sh - 12) / 9

/-! ## Second stage (R740 to R745) -/

/-- What a second-stage walk is given. `final`: it translates the address of the page itself, not that of a first-stage
entry. -/
structure SsParams where
  legacy : Bool
  ptr : Addr
  aw : BitVec 3
  did : DomainId
  ssade : Bool
  emte : Bool
  snooped : Bool
  final : Bool
deriving DecidableEq, Repr

/-- What a second-stage walk finds. `dirty`: the leaf's dirty flag, as it is once the walk's updates are made. -/
structure SsFound where
  hpa : Addr
  shift : Nat
  r : Bool
  w : Bool
  dirty : Bool
  leaf : BitVec 64
deriving DecidableEq, Repr

/-- A paging entry on the path of a walk; `w`: the second-stage translation of its address grants write. -/
structure PathEntry where
  hpa : Addr
  e : BitVec 64
  leaf : Bool
  w : Bool
deriving DecidableEq, Repr

/-- `NotPresentSS` (R743). -/
def notPresentSs (legacy : Bool) (a : Access) : Cond :=
  if legacy then (if accessWrites a then .lgn2 else .lgn3) else .sss2

/-- Second-stage access rights (R744): the fault of an access the rights refuse, write checked first. -/
def ssRights (c : Caps) (legacy : Bool) (a : Access) (r w : Bool) : Option Cond :=
  if accessWrites a && !w then some (if legacy then .lgn2 else .sgn6)
  else if a != .write && !r && !(a == .zlr && c.zlr && w) then some (if legacy then .lgn3 else .sgn7)
  else none

/-- The second-stage permission fault that ends a walk (R744, R706). A translation request (`lenient`) that may write meets none,
since the two permissions are never both missing here; one taken as a read gets no W, so its R and W are both 0 without R. -/
def ssDenies (c : Caps) (legacy lenient : Bool) (a : Access) (r w : Bool) : Option Cond :=
  if lenient && accessWrites a then none else ssRights c legacy a r w

/-- The fault a cached second-stage fault raises for another access: a not-present one by the access (R743). -/
def Cond.again (c : Cond) (legacy : Bool) (a : Access) : Cond :=
  if c = .lgn2 ∨ c = .lgn3 ∨ c = .sss2 then notPresentSs legacy a else c

/-- The entry's own fault: not present, or a reserved bit (R740). -/
def ssEntryFault (s : State) (p : SsParams) (a : Access) (e : BitVec 64) (sh : Nat) : Option Cond :=
  if !bitAt e 0 && !bitAt e 1 then some (notPresentSs p.legacy a)
  else if ssRsvd s.caps s.plat.haw p.emte e sh then some (if p.legacy then .lss2 else .sss3)
  else none

/-- A paging-structure cache entry of a second-stage walk (23 R830). -/
def ssPsc (s : State) (p : SsParams) (addr : Addr) (sh : Nat) (table : Addr) (r w : Bool) (fault : Option Cond) : PscEntry :=
  { kind := .second, did := p.did, pasid := 0, shift := sh, width := s.caps.mgaw + 1, base := highBits addr sh,
    table := table, a := r, b := w, tblW := true, fault := fault }

/-- Every entry of a path has the bits of `want` set. -/
def pathHas (want : BitVec 64) (path : List PathEntry) : Bool := path.all (fun x => x.e &&& want == want)

/-- The levels of a second-stage walk, down to the leaf (R740). With CM=1 an entry above the page tables that faults may be
cached as such (23 R832). -/
def ssLevels (s : State) (p : SsParams) (a : Access) (addr : Addr) :
    List Nat → Addr → Bool → Bool → Bool → List PathEntry → Walk (BitVec 64 × Nat × Bool × Bool × List PathEntry)
  | [], _, _, _, _, _ => throw (notPresentSs p.legacy a)
  | sh :: rest, table, first, r, w, path => do
    let ea := entryAddr table 8 (pgIndex addr sh)
    let v ← fetch s ea 8 p.snooped
      (if p.legacy then (if first then .lct4_3 else .lss1) else (if first then .sss4 else .sss1))
    let e := BitVec.ofNat 64 v
    match ssEntryFault s p a e sh with
    | some c => do
      if s.caps.cm && sh != 12 && (notPresentSs p.legacy a == c || !pgLeaf e sh) then
        notePsc (ssPsc s p addr sh 0 false false (some c))
          (!p.ssade || notPresentSs p.legacy a == c || pathHas (flag 64 true 8) path)
      throw c
    | none => do
      let r := r && bitAt e 0
      let w := w && bitAt e 1
      let path := path ++ [⟨ea, e, pgLeaf e sh, true⟩]
      if pgLeaf e sh then pure (e, sh, r, w, path)
      else do
        let table := pgAddr s.plat.haw e sh
        notePsc (ssPsc s p addr sh table r w none) (!p.ssade || pathHas (flag 64 true 8) path)
        ssLevels s p a addr rest table false r w path

/-- The accessed and dirty flags of a second-stage path (R745), top level first. -/
def ssFlags (s : State) (snooped setD : Bool) : List PathEntry → Walk Unit
  | [] => pure ()
  | x :: rest => do
    let want := flag 64 true 8 ||| flag 64 (x.leaf && setD) 9
    if x.e &&& want != want then do
      check (!snooped) .sss5
      check (!s.writable x.hpa.toNat 8) .sss6
      modify fun t => { t with upd := t.upd ++ [⟨x.hpa, want⟩] }
    ssFlags s snooped setD rest

/-- The leaf of the page's own second-stage translation is known: N takes its SNP bit (43 R1062). -/
def noteLeaf (s : State) (leaf : BitVec 64) : Walk Unit :=
  modify fun t => { t with leaf := leaf, n := t.n || (s.caps.sc && bitAt leaf 11) }

/-- `SSWalk` (R740) up to the leaf: the address, the size, the rights, and the path. -/
def ssFind (s : State) (p : SsParams) (a : Access) (addr : Addr) : Walk (SsFound × List PathEntry) := do
  check (2 ^ ssBound s.caps p.aw ≤ addr.toNat) (if p.legacy then .lgn1_1 else .sgn5)
  note 2 4 none
  let hit := s.pscLookup .second p.did 0 (s.caps.mgaw + 1) addr
  let (e, sh, r, w, path) ← match hit with
    | some h => do
      note 2 5 (some (levelOf h.shift))
      match h.fault with
      | some c => throw (c.again p.legacy a)
      | none => pure ()
      ssLevels s p a addr ((levels (agawLevels p.aw)).filter (· < h.shift)) h.table false h.a h.b []
    | none => ssLevels s p a addr (levels (agawLevels p.aw)) p.ptr true true true []
  if p.final then noteLeaf s e
  check (!r && !w) (notPresentSs p.legacy a)
  pure ({ hpa := pgAddr s.plat.haw e sh + lowBits addr sh, shift := sh, r := r, w := w, dirty := bitAt e 9, leaf := e }, path)

/-- `SSWalk` (R740) from the leaf on: access rights (R744) and flags (R745). `lenient`: a translation request, which meets a
permission fault only when no permission is left (R706). -/
def ssFinish (s : State) (p : SsParams) (lenient : Bool) (a : Access) (x : SsFound × List PathEntry) : Walk SsFound := do
  match ssDenies s.caps p.legacy lenient a x.1.r x.1.w with
  | some c => throw c
  | none => pure ()
  let setD := accessWrites a && x.1.w
  if p.ssade then ssFlags s p.snooped setD x.2
  pure { x.1 with dirty := x.1.dirty || (p.ssade && setD) }

/-- `SSWalk` (R740). -/
def ssWalk (s : State) (p : SsParams) (lenient : Bool) (a : Access) (addr : Addr) : Walk SsFound := do
  let x ← ssFind s p a addr
  ssFinish s p lenient a x

/-- A page result without permissions, for the results that have no page. Its size stands for 4 KBytes (log 35). -/
def PageResult.none : PageResult :=
  { hpa := 0, shift := 12, r := false, w := false, rw := false, us := false, fsDirty := false, ssDirty := false,
    fsShift := 12, fsLeaf := 0, ssLeaf := 0 }

/-- The faults of a second-stage translation that a cache may keep with CM=1 (23 R821): those of the tables; not that of an
address out of range, which names no translation, nor LCT.4.3, which the context-cache keeps, nor those of a flag update, which
another access to the page may not need (log 35). -/
def Cond.cacheable (c : Cond) : Bool := !([Cond.lgn1_1, .sgn5, .lct4_3, .sss5, .sss6].contains c)

/-- Note the fault of the page's own second-stage translation, its leaf and the rights found. The translation counts as one of a
4-KByte page (`PageResult.none`), also where the entry that faults controls more: R821 has it tagged "as if there was no faults"
and an entry that is not present fixes no size (DESIGN CHOICE, log 35). `ready`: the Accessed flags that
caching asks for in its own entries are set; no flag may be owed to an entry before them either (23 R821). -/
def noteBad (c : Cond) (ready rw us r w : Bool) : Walk Unit :=
  modify fun t =>
    let page := { PageResult.none with rw := rw, us := us, r := r, w := w, ssLeaf := t.leaf }
    { t with bad := if c.cacheable && ready && t.upd.isEmpty then some (c, page) else none }

/-- A second-stage fault asks for no Accessed flag before it is cached (23 R821): SSADE is off, or the walk came to an entry that
is not present. -/
def flagFree (p : SsParams) (a : Access) (c : Cond) (t : Trail) : Bool :=
  !p.ssade || (notPresentSs p.legacy a == c && t.leaf == 0)

/-- The second-stage translation of the page itself, under the first-stage rights `rw` and `us`. -/
def ssLast (s : State) (p : SsParams) (lenient : Bool) (a : Access) (rw us : Bool) (addr : Addr) : Walk SsFound := do
  match ← attempt (ssFind s p a addr) with
  | .error c => do
    noteBad c (flagFree p a c (← get)) rw us false false
    throw c
  | .ok x =>
    match ← attempt (ssFinish s p lenient a x) with
    | .error c => do
      noteBad c (!p.ssade || pathHas (flag 64 true 8) x.2) rw us x.1.r x.1.w
      throw c
    | .ok f => pure f

/-! ## First stage and nesting (R720 to R735, R750, R751) -/

/-- What a first-stage walk is given: the PASID-table entry, its PASID and domain, the effective privilege, and the
second stage under nesting. -/
structure FsParams where
  pe : BitVec 512
  pasid : Pasid
  did : DomainId
  pr : Bool
  nested : Bool
  ss : SsParams
deriving DecidableEq, Repr

/-- The condition that a fault of the second stage becomes when it hits the address of a first-stage entry (R750). -/
def nestedCond (first : Bool) : Cond → Cond
  | .sgn5 => if first then .spt4_4 else .sfs5
  | .sgn7 => if first then .sfs6 else .sfs7
  | .sgn6 => .sfs8
  | c => c

/-- `NestedTranslate` (R750): the host address of a first-stage entry, and whether it may be written. -/
def nestedTranslate (s : State) (p : SsParams) (gpa : Addr) (first : Bool) : Walk (Addr × Bool) := do
  match ← attempt (ssWalk s { p with final := false } false (if p.ssade then .atomic else .read) gpa) with
  | .ok f => pure (f.hpa, f.w)
  | .error c => throw (nestedCond first c)

/-- First-stage write permission once the user check has passed (R730). -/
def fsWrite (pr wpe rw : Bool) : Bool := if pr && !wpe then true else rw

/-- First-stage access rights (R730): a translation request (`lenient`) meets only the privilege violation. -/
def fsRights (lenient pr wpe us rw : Bool) (a : Access) : Option Cond :=
  if !pr && !us then some .sgn2
  else if !lenient && accessWrites a && !fsWrite pr wpe rw then some .sgn6
  else none

/-- The kind of paging-structure cache entry a first-stage walk makes (23 R830). -/
def FsParams.kind (p : FsParams) : PscKind := if p.nested then .nested else .first

/-- N of R720: the width of first-stage input addresses. -/
def fsWidth (pe : BitVec 512) : Nat := if peFspm pe == 0 then 48 else 57

/-- Bits 63:N all equal to bit N-1 (R720). -/
def canonical (n : Nat) (a : Addr) : Bool :=
  a.toNat / 2 ^ (n - 1) == 0 || a.toNat / 2 ^ (n - 1) == 2 ^ (65 - n) - 1

/-- The flags a first-stage entry must have for a cache entry (23 R831): A, and EA when EAFE=1. -/
def fsWant (pe : BitVec 512) : BitVec 64 := flag 64 true 5 ||| flag 64 (peEafe pe) 10

/-- The levels of a first-stage walk, down to the leaf (R725). `host`: the table address is already a host address, with
`tblW` its write permission (a nested paging-structure cache entry); `pend`: the cache entry of the level above, whose
table address is known once the first address in that table is translated. -/
def fsLevels (s : State) (p : FsParams) (addr : Addr) :
    List Nat → Addr → Bool → Bool → Bool → Bool → Bool → Option PscEntry → List PathEntry →
      Walk (BitVec 64 × Nat × Bool × Bool × List PathEntry)
  | [], _, _, _, _, _, _, _, _ => throw .sfs2
  | sh :: rest, table, first, host, tblW, rw, us, pend, path => do
    let ea := entryAddr table 8 (pgIndex addr sh)
    let (hpa, w) ← if p.nested && !host then nestedTranslate s p.ss ea first else pure (ea, tblW)
    match pend with
    | some x => do
      let owed := !(← get).upd.isEmpty
      notePsc { x with table := highBits hpa 12, tblW := w } (!owed && pathHas (fsWant p.pe) path)
    | none => pure ()
    let v ← fetch s hpa 8 (snoopedWalk s.caps p.pe) (if first then .sfs4 else .sfs1)
    let e := BitVec.ofNat 64 v
    check (!bitAt e 0) .sfs2
    check (fsRsvd s.caps s.plat.haw e sh) .sfs3
    let rw := rw && bitAt e 1
    let us := us && bitAt e 2
    let next := pgAddr s.plat.haw e sh
    check (p.nested && 2 ^ ssBound s.caps p.ss.aw ≤ next.toNat) .sfs5
    let path := path ++ [⟨hpa, e, pgLeaf e sh, w⟩]
    if pgLeaf e sh then pure (e, sh, rw, us, path)
    else
      fsLevels s p addr rest next false false true rw us
        (some { kind := p.kind, did := p.did, pasid := p.pasid, shift := sh, width := fsWidth p.pe,
                base := highBits addr sh, table := 0, a := rw, b := us, tblW := true, fault := none }) path

/-- The accessed, extended-accessed and dirty flags of a first-stage path (R735), top level first. -/
def fsFlags (s : State) (snooped eafe setD : Bool) : List PathEntry → Walk Unit
  | [] => pure ()
  | x :: rest => do
    let want := flag 64 true 5 ||| flag 64 eafe 10 ||| flag 64 (x.leaf && setD) 6
    if x.e &&& want != want then do
      check (!snooped) .sfs9
      check (!x.w) .sfs8
      check (!s.writable x.hpa.toNat 8) .sfs10
      modify fun t => { t with upd := t.upd ++ [⟨x.hpa, want⟩] }
    fsFlags s snooped eafe setD rest

/-- `NestedTranslateFinal` (R750), or the first-stage output itself. -/
def fsFinal (s : State) (p : FsParams) (lenient : Bool) (a : Access) (rw us : Bool) (out : Addr) (sh : Nat) : Walk SsFound :=
  if p.nested then do
    match ← attempt (ssLast s p.ss lenient a rw us out) with
    | .ok f => pure f
    | .error .sgn5 => throw .sfs5
    | .error c => throw c
  else pure { hpa := out, shift := sh, r := true, w := true, dirty := true, leaf := 0 }

/-- The access a first stage makes of the second: one it grants no write makes none there, so no Dirty flag is set for a
translation that returns W=0, and one that returns R=0 too ends (22 R706, R750, 43 R1070). -/
def nestedAccess (a : Access) (wr : Bool) : Access := if accessWrites a && !wr then .read else a

/-- A fault of the second stage is kept only where every first-stage entry on the way has its flags set (23 R821, R836). -/
def keepBadIf (ready : Bool) : Walk Unit := modify fun t => { t with bad := if ready then t.bad else none }

/-- `FSWalk` (R725), with nesting (R750). The flags are checked before a fault of the final translation is raised. -/
def fsWalk (s : State) (p : FsParams) (lenient : Bool) (a : Access) (addr : Addr) : Walk PageResult := do
  let n := fsWidth p.pe
  check (!canonical n addr) .sgn1
  note 2 6 none
  let all := levels (if peFspm p.pe == 0 then 4 else 5)
  let (e, sh, rw, us, path) ← match s.pscLookup p.kind p.did p.pasid n addr with
    | some h => do
      note 2 7 (some (levelOf h.shift))
      fsLevels s p addr (all.filter (· < h.shift)) h.table false true h.tblW h.a h.b none []
    | none => fsLevels s p addr all (peFsptptr s.plat.haw p.pe) true false true true true none []
  match fsRights lenient p.pr (peWpe p.pe) us rw a with
  | some c => throw c
  | none => pure ()
  let out := pgAddr s.plat.haw e sh + lowBits addr sh
  let wr := fsWrite p.pr (peWpe p.pe) rw
  let fin ← attempt (fsFinal s p lenient (nestedAccess a wr) rw us out sh)
  keepBadIf (pathHas (fsWant p.pe) path)
  let setD := accessWrites a && wr && (match fin with
    | .ok f => f.w
    | .error _ => true)
  fsFlags s (snoopedWalk s.caps p.pe) (peEafe p.pe) setD path
  let f ← resume fin
  let shift := min sh f.shift
  pure { hpa := highBits f.hpa shift, shift := shift, r := f.r, w := f.w, rw := rw, us := us,
         fsDirty := bitAt e 6 || setD, ssDirty := f.dirty, fsShift := sh, fsLeaf := e, ssLeaf := f.leaf }

end Sys2Proof.Machine
end

