-- ==== Sys2Proof/Machine/Translate.lean ====
section
/-! DEFINITION. The translation of a request: register check, root, context, PASID-directory and PASID-table lookups,
the walk or the pass-through, the interrupt-range check (22_translation.md R700 to R715, R760 to R762; 43 R1064, R1066;
45 R1175), memory type and snoop of the final access (22 R770 to R775; 20 R526), and the trail applied to the state. -/

namespace Sys2Proof.Machine

/-! ## Register check (R704) -/

/-- The conditions of the latched translation table mode (R704, 92 D15). -/
def modeFault (s : State) : Option Cond :=
  match s.latchedRt.ttm.toNat with
  | 0 => none
  | 1 => if s.caps.smts then none else some .rta1_2
  | 2 => some .rta1_1
  | _ => if s.caps.adms then some .rta4 else some .rta1_3

/-- Raise the condition of the latched mode, if it has one. -/
def checkMode (s : State) : Walk Unit :=
  match modeFault s with
  | some c => throw c
  | none => pure ()

/-! ## Legacy lookup (R705) -/

/-- The conditions of the root and context steps that hold for every request of a source-id (23 R810). -/
def Cond.marksCtx (c : Cond) : Bool :=
  [Cond.lrt1, .lrt2, .lrt3, .lct1, .lct2, .lct3, .lct4_1, .lct4_2, .lct4_3, .srt1, .srt2, .srt3, .sct1, .sct2, .sct3,
    .sct4_1].contains c

/-- The context entry may be cached (23 R810); the domain tag is 0 in scalable mode. -/
def keepCtx (sid : SourceId) (did : DomainId) (ce : BitVec 256) : Walk Unit :=
  modify fun t => { t with ctx := some { sid := sid, did := did, ce := ce, fault := none } }

/-- A lookup that meets a fault of the source-id's own tables: with CM=1 a marker of it may be cached, tagged with domain 0,
with CM=0 nothing is (23 R810). `ce`: the context entry, 0 before it is read. -/
def ctxMarked {α : Type} (s : State) (sid : SourceId) (ce : BitVec 256) (x : Walk α) : Walk α := do
  match ← attempt x with
  | .ok v => pure v
  | .error c => do
    let marker := if s.caps.cm then some { sid := sid, did := 0, ce := ce, fault := some c } else none
    if c.marksCtx then modify fun t => { t with ctx := marker }
    throw c

/-- What a context-cache entry answers: the context entry, or the fault it marks (23 R810). -/
def CtxEntry.answer (e : CtxEntry) : Walk (BitVec 256) :=
  match e.fault with
  | none => pure e.ce
  | some c => do
    modify fun t => { t with fpd := t.fpd || ceFpd e.ce }
    throw c

/-- The latched root-table base (R704). -/
def rootBase (s : State) : Addr := BitVec.ofNat 64 (s.pageBase s.latchedRt.rta)

/-- The context entry of a legacy request: from the context-cache, or by the root and context tables. -/
def legacyFetch (s : State) (sid : SourceId) : Walk (BitVec 256) := do
  note 2 0 none
  match s.ctxLookup sid with
  | some e => do
    note 2 1 none
    e.answer
  | none => ctxMarked s sid 0 do
    let v ← fetch s (entryAddr (rootBase s) 16 (field sid 8 8).toNat) 16 s.caps.c .lrt1
    let re := BitVec.ofNat 128 v
    check (!bitAt re 0) .lrt2
    check (rootRsvd s.plat.haw re) .lrt3
    let c ← fetch s (entryAddr (addrField re 0 12 s.plat.haw) 16 (field sid 0 8).toNat) 16 s.caps.c .lct1
    pure (BitVec.ofNat 256 c)

/-- The checks on a legacy context entry that do not depend on the request (R705). -/
def legacyEntryChecks (s : State) (ce : BitVec 256) : Walk Unit := do
  check (!ceP ce) .lct2
  check (ctxRsvd s.caps s.plat.haw ce) .lct3
  check (!s.caps.awOk (ceAw ce)) .lct4_1
  check (!ttOk s.caps (ceTt ce)) .lct4_2

/-- The checks on a legacy context entry (R705), for a request of the given kind. LCT.5 blocks a translation request under
TT=00b, as R705, 21 R612 and example 4 of 43 R1095 say; examples 1 and 2 of R790 answer one with Success (log 19). `new`: the
entry may be cached; one that meets LCT.5 only with CM=1 (23 R810). -/
def legacyChecks (s : State) (k : ReqKind) (sid : SourceId) (new : Bool) (ce : BitVec 256) : Walk Unit := do
  modify fun t => { t with fpd := t.fpd || ceFpd ce }
  ctxMarked s sid ce (legacyEntryChecks s ce)
  if new && s.caps.cm then keepCtx sid (ceDid ce) ce
  check (k != .untranslated && ceTt ce != 1) .lct5
  if new then keepCtx sid (ceDid ce) ce
  modify fun t => { t with did := some (ceDid ce) }

/-! ## Scalable lookup (R710) -/

/-- The scalable-mode context entry of a source: from the context-cache, or by the tables. -/
def smFetch (s : State) (sid : SourceId) : Walk (BitVec 256) := do
  note 2 0 none
  match s.ctxLookup sid with
  | some e => do
    note 2 1 none
    e.answer
  | none => ctxMarked s sid 0 do
    let v ← fetch s (entryAddr (rootBase s) 16 (field sid 8 8).toNat) 16 s.caps.c .srt1
    let half := smRootHalf (BitVec.ofNat 128 v) sid
    check (!bitAt half 0) .srt2
    check (smRootRsvd s.plat.haw half) .srt3
    let c ← fetch s (entryAddr (addrField half 0 12 s.plat.haw) 32 (field sid 0 7).toNat) 32 s.caps.c .sct1
    pure (BitVec.ofNat 256 c)

/-- `sct_4_1(ce)`: the platform's predicate (R711). -/
def sct41 (s : State) (ce : BitVec 256) : Bool := s.plat.sct41.any (fun m => ce &&& m.1 == m.2)

/-- The checks on a scalable-mode context entry that do not depend on the request (R710, R711). -/
def smEntryChecks (s : State) (ce : BitVec 256) : Walk Unit := do
  check (!ceP ce) .sct2
  check (smCtxRsvd s.caps s.plat.haw ce) .sct3
  check (sct41 s ce) .sct4_1

/-- The checks common to every request that uses a scalable-mode context entry (R710, R711). `new`: the entry may be cached,
with CM=1 also when a later check of the request fails (23 R810). -/
def smChecks (s : State) (sid : SourceId) (new noPasid : Bool) (ce : BitVec 256) : Walk Unit := do
  modify fun t => { t with fpd := t.fpd || ceFpd ce }
  ctxMarked s sid ce (smEntryChecks s ce)
  if new && s.caps.cm then keepCtx sid 0 ce
  check (noPasid && 2 ^ s.caps.pssBits ≤ (smRidPasid s.caps ce).toNat) .sct4_2

/-- The conditions of the PASID-directory and PASID-table steps that hold for every request of a source-id and PASID
(23 R815). -/
def Cond.marksPasid (c : Cond) : Bool :=
  [Cond.spd1, .spd2, .spd3, .spt1, .spt2, .spt3, .spt4_1, .spt4_2, .spt4_3, .spt4_4].contains c

/-- A lookup that meets a fault of the PASID's own tables: with CM=1 a marker of it may be cached, tagged with domain 0, with
CM=0 nothing is (23 R815). `pe`: the PASID-table entry, 0 before it is read. -/
def pasidMarked {α : Type} (s : State) (sid : SourceId) (pasid : Pasid) (pe : BitVec 512) (x : Walk α) : Walk α := do
  match ← attempt x with
  | .ok v => pure v
  | .error c => do
    if c.marksPasid then
      modify fun t =>
        let marker := { sid := sid, pasid := pasid, did := 0, pe := pe, fpd := t.fpd, fault := some c }
        { t with pas := if s.caps.cm then some marker else none }
    throw c

/-- What a PASID-cache entry answers: the PASID-table entry, or the fault it marks (23 R815). -/
def PasidEntry.answer (e : PasidEntry) : Walk (BitVec 512) := do
  modify fun t => { t with fpd := t.fpd || e.fpd }
  match e.fault with
  | none => pure e.pe
  | some c => throw c

/-- The PASID directory of a context entry reaches the PASID (R710): the last condition of the context entry, after which it may
be cached whatever the PASID's own tables hold (23 R810). -/
def directoryReaches (sid : SourceId) (pasid : Pasid) (ce : BitVec 256) : Walk Unit := do
  check (2 ^ (smPdts ce + 7) ≤ pasid.toNat / 64) .sct7
  keepCtx sid 0 ce

/-- The PASID-table entry of a PASID: from the PASID-cache, or by directory and table (R710). -/
def pasidFetch (s : State) (sid : SourceId) (pasid : Pasid) (ce : BitVec 256) : Walk (BitVec 512) := do
  directoryReaches sid pasid ce
  note 2 2 none
  match s.pasidLookup sid pasid with
  | some e => do
    note 2 3 none
    e.answer
  | none => pasidMarked s sid pasid 0 do
    let v ← fetch s (entryAddr (smPasidDir s.plat.haw ce) 8 (pasid.toNat / 64)) 8 s.caps.c .spd1
    let pde := BitVec.ofNat 64 v
    modify fun t => { t with fpd := t.fpd || bitAt pde 1 }
    check (!bitAt pde 0) .spd2
    check (pdeRsvd s.plat.haw pde) .spd3
    let p ← fetch s (entryAddr (addrField pde 0 12 s.plat.haw) 64 (pasid.toNat % 64)) 64 s.caps.c .spt1
    pure (BitVec.ofNat 512 p)

/-- The programming checks of a PASID-table entry: SPT.2 to SPT.4.4 (R710, R715). -/
def pasidEntryChecks (s : State) (pe : BitVec 512) : Walk Unit := do
  check (!peP pe) .spt2
  check (peRsvd s.caps s.plat.haw pe) .spt3
  check (usesSs (pePgtt pe) && !s.caps.awOk (peAw pe)) .spt4_1
  check (!pgttOk s.caps (pePgtt pe)) .spt4_2
  check (usesFs (pePgtt pe) && !fspmOk s.caps (peFspm pe)) .spt4_3
  check (pePgtt pe == 3 && 2 ^ ssBound s.caps (peAw pe) ≤ (peFsptptr s.plat.haw pe).toNat) .spt4_4

/-- The checks on a PASID-table entry that every request and page request makes (R710, R715). -/
def pasidChecks (s : State) (sid : SourceId) (pasid : Pasid) (pe : BitVec 512) : Walk Unit := do
  modify fun t => { t with fpd := t.fpd || peFpd pe }
  pasidMarked s sid pasid pe (pasidEntryChecks s pe)

/-- The PASID-table entry passed its checks and may be cached (23 R815). -/
def keepPasid (sid : SourceId) (pasid : Pasid) (pe : BitVec 512) : Walk Unit :=
  modify fun t =>
    { t with pas := some { sid := sid, pasid := pasid, did := peDid pe, pe := pe, fpd := t.fpd, fault := none } }

/-! ## The result -/

/-- The result of a translation (R701): the full output address, the page, what it was found under, the effective
permissions, and whether it is the special condition S.1 or S.2 (43 R1066). -/
structure Found where
  hpa : Addr
  page : PageResult
  legacy : Bool
  pgtt : BitVec 3
  pasid : Pasid
  did : DomainId
  ce : BitVec 256
  pe : BitVec 512
  r : Bool
  w : Bool
  special : Bool
  fromIotlb : Bool
deriving DecidableEq, Repr

/-- The page of a second-stage walk, which has no first stage. -/
def ssPage (f : SsFound) : PageResult :=
  { hpa := highBits f.hpa f.shift, shift := f.shift, r := f.r, w := f.w, rw := true, us := true, fsDirty := true,
    ssDirty := f.dirty, fsShift := 12, fsLeaf := 0, ssLeaf := f.leaf }

/-- log2 of the pass-through region at an address (43 R1064): the largest of 1 GByte, 2 MBytes and 4 KBytes, not above the
platform's nor above the unit's largest page size (93 section 2), that ends by 2^HAW and, for a request-without-PASID, keeps
clear of the interrupt range (log 12). -/
def ptRegion (s : State) (withPasid : Bool) (a : Addr) : Nat :=
  (([30, 21].filter (fun k => k ≤ min s.plat.ptShift s.caps.largestPage && (highBits a k).toNat + 2 ^ k ≤ s.hpaEnd &&
    (withPasid || !regionMeetsInterruptRange a k))).head?).getD 12

/-- The unity page of a pass-through translation (R760). -/
def ptPage (s : State) (withPasid : Bool) (a : Addr) : PageResult :=
  let k := ptRegion s withPasid a
  { hpa := highBits a k, shift := k, r := true, w := true, rw := true, us := true, fsDirty := true, ssDirty := true,
    fsShift := 12, fsLeaf := 0, ssLeaf := 0 }

/-- The second-stage fault of an access under the rights of a cached entry: a permission fault (R744), and for a cached fault
(23 R821) the fault it stands for, judged anew for this access. -/
def IotlbEntry.refuses (e : IotlbEntry) (c : Caps) (lenient : Bool) (a : Access) : Option Cond :=
  let rights := ssDenies c e.legacy lenient a e.page.r e.page.w
  match e.fault with
  | none => if e.legacy || usesSs e.pgtt then rights else none
  | some f =>
    if !e.page.r && !e.page.w then some (f.again e.legacy a)
    else if f = .lgn2 ∨ f = .lgn3 ∨ f = .sgn6 ∨ f = .sgn7 then rights
    else some f

/-- The entry can serve an access: one whose dirty flag is still owed for a writing access cannot (R820), nor a cached fault
that this access does not meet. -/
def IotlbEntry.usable (e : IotlbEntry) (c : Caps) (lenient : Bool) (a : Access) : Bool :=
  match e.fault with
  | some _ => (e.refuses c lenient a).isSome
  | none =>
    !(accessWrites a && ((usesFs e.pgtt && !e.page.fsDirty) || (peSsade e.pe && usesSs e.pgtt && !e.page.ssDirty)))

/-- The IOTLB entry that serves a request (23 R822). -/
def iotlbTry (s : State) (lenient : Bool) (r : MemReq) (a : Access) : Walk (Option IotlbEntry) := do
  note 3 0 none
  match s.iotlbLookup r.sid (r.pasid.map (·.pasid)) r.addr with
  | none => pure none
  | some e => do
    note 3 1 (some (levelOf e.page.shift))
    pure (if e.usable s.caps lenient a then some e else none)

/-- The access-right checks made against cached rights (23 R822), first stage first. -/
def cachedRights (s : State) (e : IotlbEntry) (lenient pr : Bool) (pe : BitVec 512) (a : Access) : Walk Unit :=
  match (if usesFs e.pgtt then fsRights lenient pr (peWpe pe) e.page.us e.page.rw a else none) with
  | some c => throw c
  | none =>
    match e.refuses s.caps lenient (if usesFs e.pgtt then nestedAccess a (fsWrite pr (peWpe pe) e.page.rw) else a) with
    | some c => throw c
    | none => pure ()

/-- The output address of a page for an input address. -/
def PageResult.output (p : PageResult) (a : Addr) : Addr := p.hpa + lowBits a p.shift

/-- The interrupt-range check on the output (R762): the address of an untranslated request, the whole page of a
translation request. -/
def outputInRange (k : ReqKind) (p : PageResult) (a : Addr) : Bool :=
  match k with
  | .translation => regionMeetsInterruptRange p.hpa p.shift
  | _ => inInterruptRange (p.output a)

/-- The special conditions S.1 and S.2 apply (43 R1066). -/
def isSpecial (k : ReqKind) (r : MemReq) : Bool := k == .translation && r.pasid.isNone && inInterruptRange r.addr

/-- log2 of the size an IOTLB entry is filled at: the page's, or a smaller one by the choice (23 R823). -/
def fillShift (shift smaller : Nat) : Nat := max 12 (shift - 9 * smaller)

/-- The part of a page of 2^sh bytes around an address: the upper bits from the page, the lower from the address (23 R823). -/
def PageResult.cut (p : PageResult) (a : Addr) (sh : Nat) : PageResult :=
  { p with hpa := highBits (p.output a) sh, shift := sh }

/-- The IOTLB entry of a found translation, for the page or for a smaller part of it (23 R820, R823). -/
def Found.iotlbEntry (f : Found) (c : Caps) (haw smaller : Nat) (r : MemReq) (fpd : Bool) : IotlbEntry :=
  let sh := fillShift f.page.shift smaller
  { sid := r.sid, pasid := f.pasid, withPasid := r.pasid.isSome, did := f.did, legacy := f.legacy, pgtt := f.pgtt,
    width := if usesFs f.pgtt then fsWidth f.pe else if f.pgtt == 4 then haw else c.mgaw + 1,
    base := highBits r.addr sh, ce := f.ce, pe := f.pe, fpd := fpd, page := f.page.cut r.addr sh, fault := none }

/-- With CM=1 a translation that the second stage of the page faulted may be cached, tagged as if there were no fault, unless
the fault raised is another one, of the first stage (23 R821). What is raised outside a walk of the page is never kept, though
R821 lets a unit keep it: an output in the interrupt range (LGN.4, SGN.8.1, SGN.8.2), a pass-through address at or above 2^HAW
(LGN.1.3, SGN.4.2) (DESIGN CHOICE, log 35). `out`: the translation as it stands without its page. -/
def keepBad {α : Type} (s : State) (r : MemReq) (out : PageResult → Found) (x : Walk α) : Walk α := do
  match ← attempt x with
  | .ok v => pure v
  | .error c => do
    if s.caps.cm then
      modify fun t => { t with iotlb := (t.bad.filter (fun b => b.1 = c)).map (fun b =>
        { (out b.2).iotlbEntry s.caps s.plat.haw 0 r t.fpd with fault := some b.1 }) }
    throw c

/-! ## The translations (R705, R710) -/

/-- `TranslateLegacy` for untranslated and translation requests (R705). -/
def translateLegacy (s : State) (k : ReqKind) (r : MemReq) : Walk Found := do
  check r.pasid.isSome .rta2
  let a := effAccess s.caps k r
  let hit ← iotlbTry s (k == .translation) r a
  let ce ← match hit with
    | some e => pure e.ce
    | none => legacyFetch s r.sid
  legacyChecks s k r.sid hit.isNone ce
  let did := ceDid ce
  let out (p : PageResult) : Found :=
    { hpa := p.output r.addr, page := p, legacy := true, pgtt := if ceTt ce == 2 then 4 else 2, pasid := 0, did := did,
      ce := ce, pe := 0, r := p.r, w := p.w && !(k == .translation && reqReadOnly s.caps r), special := false,
      fromIotlb := hit.isSome }
  if isSpecial k r then pure { out PageResult.none with special := true }
  else if ceTt ce == 2 then do
    check (s.hpaEnd ≤ r.addr.toNat) .lgn1_3
    check (inInterruptRange r.addr) .lgn4
    pure (out (ptPage s false r.addr))
  else do
    let p : PageResult ← match hit with
      | some e => do
        noteLeaf s e.page.ssLeaf
        cachedRights s e (k == .translation) false 0 a
        pure e.page
      | none => keepBad s r out do
        let f ← ctxMarked s r.sid ce (ssLast s { legacy := true, ptr := ceSsptptr s.plat.haw ce, aw := ceAw ce, did := did,
                                                 ssade := false, emte := false, snooped := s.caps.c, final := true }
          (k == .translation) a true true r.addr)
        pure (ssPage f)
    check (outputInRange k p r.addr) .lgn4
    pure (out p)

/-- The effective PASID, privilege and execute request of a request (R710). -/
def effPasid (s : State) (r : MemReq) (ce : BitVec 256) : Pasid × Bool × Bool :=
  match r.pasid with
  | some p => (p.pasid, p.pr, p.er)
  | none => (smRidPasid s.caps ce, smRidPriv s.caps ce, false)

/-- `TranslateScalable` for untranslated and translation requests (R710). -/
def translateScalable (s : State) (k : ReqKind) (r : MemReq) : Walk Found := do
  let a := effAccess s.caps k r
  let hit ← iotlbTry s (k == .translation) r a
  let ce ← match hit with
    | some e => pure e.ce
    | none => smFetch s r.sid
  smChecks s r.sid hit.isNone r.pasid.isNone ce
  check (k == .translation && !smDte ce) .sct5
  let (pasid, pr, er) := effPasid s r ce
  if r.pasid.isSome then do
    check (!smPaside ce) .sct6
    check (s.caps.rps && pasid == smRidPasid s.caps ce) .sct9
    let tooWide := 2 ^ s.caps.pssBits ≤ pasid.toNat
    if hit.isNone && tooWide then keepCtx r.sid 0 ce
    check tooWide .sgn10
  let pe ← match hit with
    | some e => do
      modify fun t => { t with fpd := t.fpd || e.fpd }
      pure e.pe
    | none => pasidFetch s r.sid pasid ce
  pasidChecks s r.sid pasid pe
  if hit.isNone && s.caps.cm then keepPasid r.sid pasid pe
  let did := peDid pe
  let t := pePgtt pe
  modify fun u => { u with n := pePgsnp pe }
  check (er && !s.caps.ers) .spt5
  check (pr && !peSre pe) .spt6
  if hit.isNone then keepPasid r.sid pasid pe
  modify fun u => { u with did := some did }
  let perm (p : PageResult) : Bool :=
    (if usesFs t then fsWrite pr (peWpe pe) p.rw else true) && p.w && !(k == .translation && reqReadOnly s.caps r)
  let out (p : PageResult) : Found :=
    { hpa := p.output r.addr, page := p, legacy := false, pgtt := t, pasid := pasid, did := did, ce := ce, pe := pe,
      r := p.r, w := perm p, special := false, fromIotlb := hit.isSome }
  let ss : SsParams := { legacy := false, ptr := peSsptptr s.plat.haw pe, aw := peAw pe, did := did,
                         ssade := peSsade pe, emte := peEmte pe, snooped := snoopedWalk s.caps pe, final := true }
  let lenient := k == .translation
  if isSpecial k r then pure { out PageResult.none with special := true }
  else do
    let p : PageResult ← match hit with
      | some e => do
        if usesSs t then noteLeaf s e.page.ssLeaf
        cachedRights s e lenient pr pe a
        pure e.page
      | none => keepBad s r out <|
        match t.toNat with
        | 1 => fsWalk s { pe := pe, pasid := pasid, did := did, pr := pr, nested := false, ss := ss } lenient a r.addr
        | 3 => fsWalk s { pe := pe, pasid := pasid, did := did, pr := pr, nested := true, ss := ss } lenient a r.addr
        | 2 => do
          let f ← ssLast s ss lenient a true true r.addr
          pure (ssPage f)
        | _ => do
          check (s.hpaEnd ≤ r.addr.toNat) .sgn4_2
          pure (ptPage s r.pasid.isSome r.addr)
    check (outputInRange k p r.addr) (if k == .translation then .sgn8_2 else .sgn8_1)
    pure (out p)

/-- `Translate(req)` for untranslated and translation requests (R704). -/
def translate (s : State) (k : ReqKind) (r : MemReq) : Walk Found := do
  checkMode s
  if s.scalable then translateScalable s k r else translateLegacy s k r

/-- The checks on a translated request (R705, R710, R761): root and context lookup, address, interrupt range. -/
def translatedChecks (s : State) (r : MemReq) : Walk Unit := do
  checkMode s
  if s.scalable then do
    let ce ← smFetch s r.sid
    smChecks s r.sid true true ce
    check (!smDte ce) .sct5
    keepCtx r.sid 0 ce
    check (s.hpaEnd ≤ r.addr.toNat) .sgn4_1
    check (inInterruptRange r.addr) .sgn8_3
  else do
    let ce ← legacyFetch s r.sid
    legacyChecks s .translated r.sid true ce
    check (s.hpaEnd ≤ r.addr.toNat) .lgn1_2
    check (inInterruptRange r.addr) .lgn4

/-- `PRLookup(pr)` (45 R1175): PGTT, DID and PASID for a page request. -/
def prLookup (s : State) (m : PageMsg) : Walk (BitVec 3 × DomainId × Pasid) := do
  checkMode s
  check (!s.scalable) .rta3
  let ce ← smFetch s m.rid
  smChecks s m.rid true (!m.pp) ce
  check (!smPre ce) .sct8
  let rid := smRidPasid s.caps ce
  if m.pp then do
    check (!smPaside ce) .sct6
    check (s.caps.rps && m.pasid == rid) .sct9
  let pasid := if m.pp then m.pasid else rid
  let pe ← pasidFetch s m.rid pasid ce
  pasidChecks s m.rid pasid pe
  keepPasid m.rid pasid pe
  modify fun t => { t with did := some (peDid pe) }
  pure (pePgtt pe, peDid pe, pasid)

/-! ## Memory type and snoop of the final access -/

/-- The memory type of a 3-bit encoding (R771); 2 and 3 are reserved and give UC (92 D11). -/
def memTypeOf (t : BitVec 3) : MemType :=
  match t.toNat with
  | 1 => .wc
  | 4 => .wt
  | 5 => .wp
  | 6 => .wb
  | 7 => .ucMinus
  | _ => .uc

/-- A legal MTRR type value: 0, 1, 4, 5, 6 (12 R401). -/
def mtrrTypeOk (t : BitVec 8) : Bool := t == 0 || t == 1 || t == 4 || t == 5 || t == 6

/-- The fixed-range field of an address below 1 MByte: register and byte (12 R402, R403). -/
def fixedSlot (pa : Nat) : Nat × Nat :=
  if pa < 0x80000 then (0, pa / 0x10000)
  else if pa < 0xC0000 then (1 + (pa - 0x80000) / 0x20000, (pa - 0x80000) / 0x4000 % 8)
  else (3 + (pa - 0xC0000) / 0x8000, (pa - 0xC0000) / 0x1000 % 8)

/-- A type field as a memory type; an illegal value gives the free type (log 25). -/
def mtrrField (s : State) (t : BitVec 8) : MemType :=
  if mtrrTypeOk t then memTypeOf (t.setWidth 3) else memTypeOf (Config.freeMemType s.freeCtr)

/-- The variable-range MTRR pairs that are implemented: the first MTRRCAP_REG.VCNT (12 R404). -/
def mtrrPairs (s : State) : List MtrrVar := s.mtrr.var.take s.caps.vcnt

/-- `MTRRType(pa)` (R772). An undefined overlap gives the free type (93 U10, log 25). -/
def mtrrType (s : State) (pa : Addr) : MemType :=
  if !s.mtrr.e then .uc
  else if pa.toNat < 0x100000 && s.mtrr.fe && bitAt s.caps.mtrrcap 8 then
    let (r, k) := fixedSlot pa.toNat
    mtrrField s (field (s.mtrr.fixed.getD r 0) (8 * k) 8)
  else
    let m := (mtrrPairs s).filter (fun v => v.valid && pageAddr v.mask &&& pa == pageAddr v.mask &&& pageAddr v.base)
    let ts := m.map (fun v => mtrrField s v.type)
    match ts with
    | [] => mtrrField s s.mtrr.type
    | t :: rest =>
      if rest.all (· == t) then t
      else if ts.contains .uc then .uc
      else if ts.all (fun x => x == .wt || x == .wb) then .wt
      else memTypeOf (Config.freeMemType s.freeCtr)

/-- `Eff`: Table 7, by MTRR or EMT type and PAT type (R774). -/
def effType (m p : MemType) : MemType :=
  match m, p with
  | _, .uc => .uc
  | .wc, .ucMinus => .wc
  | .wp, .ucMinus => .wc
  | _, .ucMinus => .uc
  | _, .wc => .wc
  | .uc, _ => .uc
  | .ucMinus, _ => .uc
  | .wc, .wb => .wc
  | .wc, _ => .uc
  | .wt, .wp => .wp
  | .wt, _ => .wt
  | .wb, .wt => .wt
  | .wb, .wb => .wb
  | .wb, .wp => .wp
  | .wp, .wt => .wt
  | .wp, _ => .wp

/-- The PAT index of a first-stage leaf (R773). -/
def patIndex (leaf : BitVec 64) (sh : Nat) : Nat :=
  4 * (bitAt leaf (if sh == 12 then 7 else 12)).toNat + 2 * (bitAt leaf 4).toNat + (bitAt leaf 3).toNat

/-- The PAT memory type of the first-stage leaf (R773). -/
def patType (f : Found) : MemType := memTypeOf (pePat f.pe (patIndex f.page.fsLeaf f.page.fsShift))

/-- The memory type of the page access (R770, R775): none outside the coherency domain or without MTS. -/
def pageMemType (s : State) (coherent : Bool) (f : Found) : Option MemType :=
  if !(coherent && s.caps.mts) then none
  else if f.legacy then some .wb
  else if peCd f.pe then some .uc
  else
    let emt := memTypeOf (field f.page.ssLeaf 3 3)
    match f.pgtt.toNat with
    | 1 => some (effType (mtrrType s f.hpa) (patType f))
    | 2 => some (if peEmte f.pe then emt else .wb)
    | 3 =>
      some (if !peEmte f.pe then effType (mtrrType s f.hpa) (patType f)
            else if bitAt f.page.ssLeaf 6 then emt else effType emt (patType f))
    | _ => some .wb

/-- The snoop attribute of the page access of an untranslated request (20 R526). -/
def pageSnoop (s : State) (r : MemReq) (f : Found) : Bool :=
  !r.ns || (!f.legacy && pePgsnp f.pe) ||
    ((if f.legacy then ceTt f.ce != 2 else usesSs f.pgtt) && s.caps.sc && bitAt f.page.ssLeaf 11)

/-! ## Applying a trail -/

/-- Perform a flag update: one atomic read-modify-write of the entry (20 R531), always snooped (20 R525). It counts no IOMMU_MRDS,
though 20 R531 has the unit read the entry again: 46 R1242 counts structure fetches (DESIGN CHOICE, log 27). -/
def State.updateFlags (s : State) (u : FlagUpdate) : State :=
  (s.access .atomic u.hpa.toNat 8 true).memWrite u.hpa.toNat 8 (readNat s.flush.mem u.hpa.toNat 8 ||| u.want.toNat)

/-- The perfmon occurrences of a trail, with the attributes of the request (46 R1244). All of them carry the Domain ID that the
walk has found by its end, those made before it was known too, and none if it faults earlier: the spec names none for them (12
R445; DESIGN CHOICE, log 27). -/
def State.countTrail (s : State) (t : Trail) (sid : SourceId) (pasid : Option Pasid) (atf : Nat) : State :=
  s.countAll (t.occ.map (fun o => ⟨o.1, o.2.1, sid, t.did, pasid, atf, o.2.2, 1⟩))

/-- An update made only when there is something to make it with. -/
def State.withSome {α : Type} (s : State) (f : State → α → State) : Option α → State
  | some e => f s e
  | none => s

/-- What the unit may cache from a trail whether or not the request faults (23 R810, R815, R821). -/
def State.keepTrail (s : State) (t : Trail) : State :=
  ((s.withSome State.fillCtx t.ctx).withSome State.fillPasid t.pas).withSome State.fillIotlb t.iotlb

/-- The memory accesses of a trail reach the bus. -/
def State.accessAll (s : State) (t : Trail) : State := { s with bus := t.bus ++ s.bus }

/-- Run a walk on a state: the result, the trail, and the state after its accesses, counting, caching and, on success, the flag
updates (22 R735, R745) and the paging-structure cache fills; on a fault, those fills that need no flag update (23 R831). -/
def State.runWalk {α : Type} (s : State) (w : Walk α) (sid : SourceId) (pasid : Option Pasid) (atf : Nat) :
    Except Cond α × Trail × State :=
  let (res, t) := w.run.run Trail.empty
  let s := ((s.accessAll t).countTrail t sid pasid atf).keepTrail t
  match res with
  | .ok a => (.ok a, t, (t.upd.foldl (fun (s : State) u => s.updateFlags u) s).fillPsc t.psc)
  | .error c => (.error c, t, s.fillPsc t.early)

/-- Fill the IOTLB from a successful translation (23 R821). -/
def State.keepFound (s : State) (f : Found) (r : MemReq) (fpd : Bool) : State :=
  if f.special || f.fromIotlb then s else s.fillIotlb (f.iotlbEntry s.caps s.plat.haw s.choice.smaller r fpd)

end Sys2Proof.Machine
end

