-- ==== Sys2Proof/Machine/PageReq.lean ====
section
/-! DEFINITION. Page requests and the page request queue (45_page_requests.md R1170 to R1195). -/

namespace Sys2Proof.Machine

/-- The Response Codes the unit itself sends (45 R1170, R1195): Success and Invalid Request. -/
def codeSuccess : BitVec 4 := 0
/-- Response Code 1h, Invalid Request. -/
def codeInvalid : BitVec 4 := 1

/-- `IsStopMarker` (45 R1178). -/
def isStopMarker (m : PageMsg) : Bool := m.pp && m.lpig && !m.rdr && !m.wrr

/-- The response of `DropPR`: an auto page group response for the last request of a group, none for a Stop Marker
(45 R1170, R1190). -/
def State.autoResponse (s : State) (m : PageMsg) (code : BitVec 4) : State :=
  if m.lpig && !isStopMarker m then
    s.respond m.rid (.page { rid := m.rid, pp := m.pp, pasid := if m.pp then m.pasid else 0, prgi := m.prgi, rc := code })
  else s

/-- The fault record of a page request (45 R1175): {T1,T2} = 01b, AT = 00b, EXE = 0, PRIV = PMR. -/
def pageReport (s : State) (m : PageMsg) (c : Cond) (fpd : Bool) : FaultReport :=
  { reason := c.reason, qualified := c.qualified, fpd := fpd, sid := m.rid, fi := faultInfo s.caps (pageAddr m.addr),
    t1 := false, t2 := true, atf := 0, pp := m.pp, pv := if m.pp then m.pasid else 0, exe := false, priv := m.pmr }

/-- N of 45 R1185: the entries of the page request queue. -/
def State.prqSize (s : State) : Nat := 2 ^ (s.prq.pqs.toNat + 7)

/-- `PrqFull()` (45 R1185). -/
def State.prqFull (s : State) : Bool := (s.prq.pqt.toNat + 1) % s.prqSize == s.prq.pqh.toNat % s.prqSize

/-- The address of the entry the tail names (45 R1185). -/
def State.prqAddr (s : State) : Nat := s.pageBase s.prq.pqa + 32 * (s.prq.pqt.toNat % s.prqSize)

/-- `SetPRO()` (60 R1415). -/
def State.setPro (s : State) : State :=
  let old := s.prq.ppr || s.prq.pro
  ({ s with prq := { s.prq with pro := true } }).raiseEvent .page old

/-- The page request is delivered: tail, PPR and the page request event (45 R1185). -/
def State.prqDelivered (s : State) : State :=
  let old := s.prq.ppr || s.prq.pro
  ({ s with prq := { s.prq with pqt := BitVec.ofNat 14 ((s.prq.pqt.toNat + 1) % s.prqSize), ppr := true } }).raiseEvent
    .page old

/-- `WritePrqDescriptor` (45 R1185), always snooped (20 R525); a failed write loses the descriptor (93 U38). The occurrence has
the request's PASID; the source names no Domain ID and no Address Type for it: none, and 3 (DESIGN CHOICE, log 27). -/
def State.writePrq (s : State) (m : PageMsg) : State :=
  let t := s.access .write s.prqAddr 32 true
  if s.writable s.prqAddr 32 then
    ((t.memWrite s.prqAddr 32 (encodePrq m).toNat).prqDelivered).count
      ⟨1, 6, m.rid, none, if m.pp then some m.pasid else none, 3, none, 1⟩
  else t

/-- The fields of the descriptor of a page request: copied (30 R881), but for those the source calls undefined
(30 R862, 93 U20), which are free. -/
def prqFields (n : Nat) (m : PageMsg) : PageMsg :=
  { m with
    pasid := if m.pp then m.pasid else Config.freePrqPasid n
    prgi := if m.rdr || m.wrr then m.prgi else Config.freePrqPrgi n }

/-- `ImplicitInvalidate` (45 R1180, Table 24). The rule gives the effect on the caches; that nothing in flight is drained, as the
descriptors would have it drained, is the model's choice (DESIGN CHOICE, log 41). -/
def State.implicitInvalidate (s : State) (pgtt : BitVec 3) (did : DomainId) (pasid : Pasid) (addr : BitVec 52) : State :=
  match pgtt.toNat with
  | 1 => s.invalidatePIotlb 3 did pasid addr 0 false
  | 3 => s.invalidateIotlb 2 did addr 0 false
  | _ => s.invalidateIotlb 3 did addr 0 false

/-- A fault met by a page request is reported; whether a Stop Marker's is, is open (93 U37). -/
def State.reportPage (s : State) (m : PageMsg) (c : Cond) (fpd : Bool) : State :=
  if isStopMarker m && !s.choice.stopRecord then s else s.reportFault (pageReport s m c fpd)

/-- `HandlePageRequest` once the tables are traversed (45 R1170). -/
def State.acceptPage (s : State) (m : PageMsg) (pgtt : BitVec 3) (did : DomainId) (pasid : Pasid) : State :=
  if s.prq.pro then s.autoResponse m codeSuccess
  else if s.prqFull then s.setPro.autoResponse m codeSuccess
  else
    let s := s.implicitInvalidate pgtt did pasid m.addr
    (s.writePrq (prqFields s.freeCtr m)).fresh

/-- `HandlePageRequest` (45 R1170, R1172). The cache lookups and memory reads made for a page request carry Address Type 3,
which no bit of the AT filter passes: the spec names none for them (46 R1244; DESIGN CHOICE, log 27). -/
def State.handlePage (s : State) (m : PageMsg) : State :=
  if !s.gsts.tes then s.autoResponse m codeInvalid
  else
    match s.runWalk (prLookup s m) m.rid (if m.pp then some m.pasid else none) 3 with
    | (.error c, t, s) => (s.reportPage m c t.fpd).autoResponse m codeInvalid
    | (.ok (pgtt, did, pasid), _, s) => s.acceptPage m pgtt did pasid

/-- page_request (45 R1170). -/
def execPageRequest (m : PageMsg) (s : State) : Result := .next (s.handlePage m)

/-- page_req_dsc (45 R1185): the unit writes the descriptor to the page request queue. As a command of its own it runs in any
state, also one in which HandlePageRequest would not come to it (PRO=1, a full queue): DESIGN CHOICE, log 7. -/
def execPageReqDsc (m : PageMsg) (s : State) : Result := .next (s.writePrq m)

end Sys2Proof.Machine
end

