-- ==== Sys2Proof/Machine/Queue.lean ====
section
/-! DEFINITION. The queued invalidation interface: fetch, queue errors, the descriptors and their completion
(40_queued_invalidation.md R900 to R943; 45_page_requests.md R1195). -/

namespace Sys2Proof.Machine

/-! ## Queue errors (R915) -/

/-- IQERCD_REG takes the detail of an error only where the register is supported; else it stays 0 (R915, 11 R288, log 1). -/
def State.detail (s : State) (r : Iqercd) : Iqercd := if s.plat.iqercd then r else s.iqercd

/-- `raise IQE(i)`: the head stays (R915). -/
def State.raiseIqe (s : State) (i : BitVec 4) : State :=
  let was := s.faultStatusAny
  ({ s with
      iqercd := s.detail { s.iqercd with iqei := if s.fsts.iqe then s.iqercd.iqei else i }
      fsts := { s.fsts with iqe := true } }).raiseEvent .fault was

/-- `set ICE(rid)` (R915). On a unit without DT the field is reserved and reads 0 (11 R250): nothing is set, so there is no detail
to hold and no event (DEDUCED, log 38). -/
def State.setIce (s : State) (rid : SourceId) : State :=
  if s.caps.dt then
    let was := s.faultStatusAny
    ({ s with
        iqercd := s.detail { s.iqercd with icesid := if s.fsts.ice then s.iqercd.icesid else rid }
        fsts := { s.fsts with ice := true } }).raiseEvent .fault was
  else s

/-- An inv_wait_dsc. -/
def Pending.isWait : Pending → Bool
  | .wait .. => true
  | _ => false

/-- A Device-TLB invalidation not yet sent. -/
def Pending.isUnsent : Pending → Bool
  | .unsent _ => true
  | _ => false

/-- A Device-TLB invalidation sent. -/
def Pending.isSent : Pending → Bool
  | .sent _ => true
  | _ => false

/-- An inv_wait_dsc with the fence flag. -/
def Pending.isFence : Pending → Bool
  | .wait _ _ fn _ _ _ => fn
  | _ => false

/-- `set ITE(sid)` (R915): the pending waits are aborted; the other descriptors not yet carried out are dropped unless the
choice keeps them (93 U22). Only an allocated ITag times out, and a unit without DT, where ITE is reserved (11 R250), allocates
none. -/
def State.setIte (s : State) (sid : SourceId) : State :=
  let was := s.faultStatusAny
  ({ s with
      iqercd := s.detail { s.iqercd with itesid := if s.fsts.ite then s.iqercd.itesid else sid }
      fsts := { s.fsts with ite := true }
      iqPend := s.iqPend.filter (fun p => !p.isWait && (p.isSent || s.choice.keep)) }).raiseEvent .fault was

/-! ## Completion of pending descriptors (R930, R935, R940) -/

/-- The free ITags (R935); a completion vector names 32 at most. -/
def State.freeTags (s : State) : List Nat :=
  (List.range (min s.plat.numItag 32)).filter (fun k => !s.itags.any (fun x => x.tag == k))

/-- "a free ITag" (R926, R935, 43 R1080): which one is the unit's choice (log 6). -/
def State.freeTag (s : State) : Option Nat := s.choice.among s.freeTags

/-- The status address of an inv_wait_dsc (30 R857). -/
def statusAddr (saddr : BitVec 62) : Nat := (saddr ++ 0#2).toNat

/-- The status write of an inv_wait_dsc: a coherent DWORD write (R930, 20 R525). One that the memory refuses is lost
(log 34). -/
def State.writeStatus (s : State) (data : BitVec 32) (saddr : BitVec 62) : State :=
  let t := s.access .write (statusAddr saddr) 4 true
  if s.writable (statusAddr saddr) 4 then t.memWrite (statusAddr saddr) 4 data.toNat else t

/-- `complete inv_wait_dsc` (R930): the status write, then IWC and the invalidation completion event. -/
def State.completeWait (s : State) (iflag sw : Bool) (data : BitVec 32) (saddr : BitVec 62) : State :=
  let s := if sw then s.writeStatus data saddr else s
  if iflag then ({ s with iwc := true }).raiseEvent .inv s.iwc else s

/-- One pass over the pending descriptors, oldest first; `kept` are those ahead that remain. An unsent Device-TLB
invalidation goes when an ITag is free and none ahead waits; a page group response goes unless it would pass an unsent
invalidation (R940 h); a wait completes when nothing is ahead and no time-out is pending (R940 e, g). -/
def advancePend (s : State) (kept : List Pending) : List Pending → State × List Pending
  | [] => (s, kept)
  | .wait iflag sw fn pd data saddr :: rest =>
    if kept.isEmpty && !s.fsts.ite then advancePend (s.completeWait iflag sw data saddr) kept rest
    else advancePend s (kept ++ [.wait iflag sw fn pd data saddr]) rest
  | .sent k :: rest => advancePend s (kept ++ [.sent k]) rest
  | .unsent m :: rest =>
    match (if kept.any Pending.isUnsent then none else s.freeTag) with
    | none => advancePend s (kept ++ [.unsent m]) rest
    | some k =>
      advancePend (({ s with itags := s.itags ++ [ITag.mk k m.sid 0] } : State).emit (.invRequest m k))
        (kept ++ [.sent k]) rest
  | .resp m :: rest =>
    if kept.any Pending.isUnsent then advancePend s (kept ++ [.resp m]) rest
    else advancePend (s.emit (.pageResp m)) kept rest

/-- Carry the pending descriptors as far as they go. -/
def State.advance (s : State) : State :=
  let r := advancePend s [] s.iqPend
  { r.1 with iqPend := r.2 }

/-- Append a descriptor to the pending list and carry on. -/
def State.pend (s : State) (p : Pending) : State := ({ s with iqPend := s.iqPend ++ [p] }).advance

/-- `DevTlbTimeout(t)` (R935, 92 D14): enabled for an allocated ITag. -/
def State.devTlbTimeout (s : State) (k : Nat) : State :=
  match s.itags.find? (fun x => x.tag == k) with
  | none => s
  | some x =>
    (({ s with
        itags := s.itags.filter (fun y => y.tag != k)
        iqPend := s.iqPend.filter (fun p => p != Pending.sent k) }).setIte x.sid).advance

/-! ## Fetch (R902, R905) -/

/-- `CheckQueueRegisters()` (R905, 92 D23): the IQEI code of the first condition met. -/
def queueRegError (s : State) : Option (BitVec 4) :=
  let m := s.latchedRt.ttm
  if s.iq.dw && bitAt s.iq.qt 0 then some 6
  else if 2 ^ (s.iq.qs.toNat + 8) ≤ s.iq.qt.toNat then some 1
  else if m == 2 || (m == 1 && !s.caps.smts) || (m == 3 && !s.caps.adms) then some 7
  else if (!s.iq.dw && (m == 1 || m == 3)) || (s.iq.dw && !s.caps.smts && !s.caps.adms) then some 5
  else none

/-- The head as the unit uses it and IQH_REG shows it (11 R280): with 256-bit descriptors bit 4 of the register is reserved and
reads 0, also when DW was set over an odd head, whose bit the field keeps until the head moves (DESIGN CHOICE, log 38). -/
def Iq.head (q : Iq) : BitVec 15 := if q.dw then clearLow q.qh 1 else q.qh

/-- The conditions of a fetch (R902): enabled, not empty, no IQE or ITE, no fence pending. -/
def State.canFetch (s : State) : Bool :=
  s.gsts.qies && s.iq.head != s.iq.qt && !s.fsts.iqe && !s.fsts.ite && !s.iqPend.any Pending.isFence

/-- The bytes of a descriptor (R902). -/
def State.dscBytes (s : State) : Nat := if s.iq.dw then 32 else 16

/-- The address of the descriptor at the head (R902). -/
def State.headAddr (s : State) : Nat := s.pageBase s.iq.iqa + 16 * s.iq.head.toNat

/-- `Type` is valid in the latched mode and with the unit's Device-TLB support (R906). -/
def dscTypeValid (s : State) (ty : Nat) : Bool :=
  !(s.latchedRt.ttm == 0 && decide (6 ≤ ty)) && (s.caps.dt || !(ty == 3 || ty == 8))

/-- The queue error of a descriptor that does not decode (R906, R907): 3 for its type, 4 for a reserved bit. -/
def decodeIqe (s : State) : DecodeError → BitVec 4
  | .reservedField ty => if dscTypeValid s ty.toNat then 4 else 3
  | _ => 3

/-- What a turn of the queue engine meets at the head. -/
inductive Fetched where
  | idle
  | error (code : BitVec 4)
  | command (i : Instr)
deriving DecidableEq, Repr

/-- The coherent read and the decoding of the descriptor at the head (R903). -/
def State.fetchDsc (s : State) : Fetched :=
  if s.readable s.headAddr s.dscBytes then
    match decode (.iqDsc s.iq.dw (BitVec.ofNat 256 (readNat s.flush.mem s.headAddr s.dscBytes))) with
    | .ok (i :: _) => .command i
    | .ok [] => .error 3
    | .error e => .error (decodeIqe s e)
  else .error 2

/-- `IQFetch` up to the descriptor's own checks (R902). -/
def State.iqFetch (s : State) : Fetched :=
  if s.canFetch then
    match queueRegError s with
    | some c => .error c
    | none => s.fetchDsc
  else .idle

/-! ## Execution (R906 to R943) -/

/-- "incremented by hardware after fetching a valid descriptor" (R902); with 256-bit descriptors bit 4 is written 0 (11 R280). -/
def State.advanceHead (s : State) : State :=
  { s with iq := { s.iq with
      qh := BitVec.ofNat 15 ((s.iq.head.toNat + (if s.iq.dw then 2 else 1)) % 2 ^ (s.iq.qs.toNat + 8)) } }

/-- The checks on a descriptor (R906, R907), then its effect with the head advanced. -/
def State.runDsc (s : State) (ty : Nat) (reserved : Bool) (act : State → State) : State :=
  if !dscTypeValid s ty then s.raiseIqe 3
  else if reserved then s.raiseIqe 4
  else act s.advanceHead

/-- Drain in-flight requests by kind: an AtomicOp is both a read and a write (70 R1485); more than the granularity asks
(70 R1487, log 15). -/
def State.drainKinds (s : State) (reads writes : Bool) : State :=
  s.drainWhere (fun f =>
    match f.req.access with
    | .read | .zlr => reads
    | .write => writes
    | .atomic => reads || writes)

/-- cc_inv_dsc (R920). -/
def execCcInvDsc (g : BitVec 2) (did : DomainId) (sid : SourceId) (fm : BitVec 2) (s : State) : Result :=
  .next (s.runDsc 1 (g == 0) (fun s =>
    s.implicitFlush.invalidateCtx (s.granularity g.toNat) did sid fm))

/-- The reserved values of iotlb_inv_dsc (R907). -/
def iotlbReserved (s : State) (g : BitVec 2) : Bool := g == 0 || (g == 3 && !s.caps.psi)

/-- The granularity an address mask allows: domain-selective above MAMV (R907, 92 D25). -/
def maskGrade (s : State) (g : BitVec 2) (am : BitVec 6) : Nat :=
  if g == 3 && s.caps.mamv < am.toNat then 2 else g.toNat

/-- iotlb_inv_dsc (R922). -/
def execIotlbInvDsc (g : BitVec 2) (dw dr : Bool) (did : DomainId) (am : BitVec 6) (ih : Bool) (addr : BitVec 52)
    (s : State) : Result :=
  .next (s.runDsc 2 (iotlbReserved s g) (fun s =>
    (s.implicitFlush.invalidateIotlb (s.granularity (maskGrade s g am)) did addr am.toNat ih).drainKinds
      (2 ≤ s.caps.verMax || dr) (2 ≤ s.caps.verMax || dw)))

/-- A Device-TLB invalidation is sent, or waits for an ITag (R926, R927, R935). -/
def State.invalidateDevTlb (s : State) (m : InvReq) : State := s.pend (.unsent m)

/-- PFSID is reserved without Device-TLB Invalidation Throttle (R907). -/
def pfsidReserved (s : State) (pfsid : SourceId) : Bool := !s.caps.dit && pfsid != 0

/-- dev_tlb_inv_dsc (R926). MIP only delays the message. -/
def execDevTlbInvDsc (sid : SourceId) (_mip : BitVec 5) (pfsid : SourceId) (sz : Bool) (addr : BitVec 52) (s : State) :
    Result :=
  .next (s.runDsc 3 (pfsidReserved s pfsid) (fun s =>
    s.invalidateDevTlb { sid := sid, pasid := none, allPasids := false, sz := sz, addr := addr }))

/-- iec_inv_dsc (R928): index-selective up to MHMV, else global (92 D25). -/
def execIecInvDsc (g : Bool) (im : BitVec 5) (iidx : BitVec 16) (s : State) : Result :=
  .next (s.runDsc 4 false (fun s =>
    (s.implicitFlush.invalidateIec (g && im.toNat ≤ s.caps.mhmv && s.choice.coarser == 0) iidx im.toNat).drainInterrupts))

/-- PD is reserved without page-request drain support (R907). -/
def pdReserved (s : State) (pd : Bool) : Bool := pd && !s.caps.pds

/-- inv_wait_dsc (R930). A status address not routable to memory is undefined behaviour (93 U23, log 21). -/
def execInvWaitDsc (iflag sw fn pd : Bool) (data : BitVec 32) (saddr : BitVec 62) (s : State) : Result :=
  if dscTypeValid s 5 && !pdReserved s pd && sw && !rangeIsMemory s.plat (statusAddr saddr) 4 then
    .refused .statusAddrNotMemory
  else .next (s.runDsc 5 (pdReserved s pd) (fun s => s.pend (.wait iflag sw fn pd data saddr)))

/-- The scope of p_iotlb_inv_dsc at a grade: 3 page, 2 PASID, coarsened to the domain or to everything (R924, 23 R802). -/
def State.invalidatePGrade (s : State) (k : Nat) (did : DomainId) (pasid : Pasid) (addr : BitVec 52) (am : Nat)
    (ih : Bool) : State :=
  if 2 ≤ k then s.invalidatePIotlb k did pasid addr am ih
  else if k = 1 then s.invalidateIotlb 2 did addr am ih
  else s.invalidateIotlb 1 did addr am ih

/-- p_iotlb_inv_dsc (R924): "must always drain read and write requests". -/
def execPIotlbInvDsc (g : BitVec 2) (did : DomainId) (pasid : Pasid) (am : BitVec 6) (ih : Bool) (addr : BitVec 52)
    (s : State) : Result :=
  .next (s.runDsc 6 (g.toNat < 2) (fun s =>
    (s.implicitFlush.invalidatePGrade (maskGrade s g am - s.choice.coarser) did pasid addr am.toNat ih).drainKinds
      true true))

/-- The grade of a pc_inv_dsc granularity, finest highest (R921). -/
def pcGrade (g : BitVec 2) : Nat :=
  match g.toNat with
  | 0 => 1
  | 1 => 2
  | _ => 0

/-- pc_inv_dsc (R921). -/
def execPcInvDsc (g : BitVec 2) (did : DomainId) (pasid : Pasid) (s : State) : Result :=
  .next (s.runDsc 7 (g == 2) (fun s =>
    s.implicitFlush.invalidatePasid (pcGrade g - s.choice.coarser) did pasid))

/-- p_dev_tlb_inv_dsc (R927). -/
def execPDevTlbInvDsc (_mip : BitVec 5) (pfsid sid : SourceId) (pasid : Pasid) (g sz : Bool) (addr : BitVec 52)
    (s : State) : Result :=
  .next (s.runDsc 8 (pfsidReserved s pfsid) (fun s =>
    s.invalidateDevTlb { sid := sid, pasid := if g then none else some pasid, allPasids := g, sz := sz, addr := addr }))

/-- page_grp_resp_dsc (45 R1195): PASID is ignored when PP=0. -/
def execPageGrpRespDsc (pp : Bool) (rc : BitVec 4) (rid : SourceId) (pasid : Pasid) (prgi : BitVec 9) (s : State) :
    Result :=
  .next (s.runDsc 9 false (fun s =>
    s.pend (.resp { rid := rid, pp := pp, pasid := if pp then pasid else 0, prgi := prgi, rc := rc })))

/-! ## Invalidation completions (43 R1085) -/

/-- The ITag numbers a completion names. -/
def vectorTags (vec : BitVec 32) : List Nat := (List.range 32).filter (fun k => bitAt vec k)

/-- "For each ITag Set in the ITag-vector, hardware checks if it is a valid ITag for the source-id". -/
def tagsValid (s : State) (sid : SourceId) (vec : BitVec 32) : Bool :=
  (vectorTags vec).all (fun k => s.itags.any (fun x => x.tag == k && x.sid == sid))

/-- The count that completes an invalidation: 0 means 8. -/
def expectedCount (cc : BitVec 3) : Nat := if cc == 0 then 8 else cc.toNat

/-- The counters of the named ITags move on; those that reach the count are freed and their descriptors complete. -/
def State.countCompletion (s : State) (vec : BitVec 32) (cc : BitVec 3) : State :=
  let moved := s.itags.map (fun x => if bitAt vec x.tag then { x with cnt := x.cnt + 1 } else x)
  let done := moved.filter (fun x => bitAt vec x.tag && x.cnt == expectedCount cc)
  { s with
    itags := moved.filter (fun x => !(bitAt vec x.tag && x.cnt == expectedCount cc))
    iqPend := s.iqPend.filter (fun p => !done.any (fun x => p == Pending.sent x.tag)) }

/-- invalidation_completion (43 R1085): behind the device's earlier posted writes. -/
def execInvalidationCompletion (sid : SourceId) (vec : BitVec 32) (cc : BitVec 3) (s : State) : Result :=
  .next (
    if !s.gsts.tes then s.respond sid .ur
    else
      let s := s.drainStoresOf sid
      if tagsValid s sid vec then (s.countCompletion vec cc).advance else s.setIce sid)

end Sys2Proof.Machine
end

