-- ==== Sys2Proof/Machine/RegCmd.lean ====
section
/-! DEFINITION. Register commands (41_register_commands.md R950 to R996): what Submit does at once, and what Complete does
then or in a later step (R965). -/

namespace Sys2Proof.Machine

/-! ## Complete (R951 to R996) -/

/-- TE_enable (R951). -/
def State.finishTeEnable (s : State) : State :=
  let s := s.drainAll
  { s with gsts := { s.gsts with tes := true } }

/-- TE_disable (R952). -/
def State.finishTeDisable (s : State) : State :=
  let s := if s.caps.smts then s.invalidateAllDma else s
  ({ s with gsts := { s.gsts with tes := false } } : State).resetFaultIdx

/-- SRTP (R955), with RTADDR_REG as it stood at Submit. -/
def State.finishSrtp (s : State) (p : RootPtr) : State :=
  let s := if s.caps.esrtps then s.invalidateAllDma else s
  { s with latchedRt := p, gsts := { s.gsts with rtps := true } }

/-- WBF (R962). -/
def State.finishWbf (s : State) : State :=
  let s := s.flush
  { s with gsts := { s.gsts with wbfs := false } }

/-- QI_enable (R958). -/
def State.finishQieEnable (s : State) : State := { s with gsts := { s.gsts with qies := true } }

/-- QI_disable (R958): the pending descriptors are dropped (93 U21, log 22). -/
def State.finishQieDisable (s : State) : State :=
  { s with iq := { s.iq with qh := 0 }, iqPend := [], itags := [], gsts := { s.gsts with qies := false } }

/-- IR_enable (R959). -/
def State.finishIreEnable (s : State) : State :=
  let s := s.drainInterrupts
  { s with gsts := { s.gsts with ires := true } }

/-- IR_disable (R959). -/
def State.finishIreDisable (s : State) : State :=
  let s := if s.caps.esirtps then s.invalidateAllIec else s
  ({ s with gsts := { s.gsts with ires := false } } : State).resetFaultIdx

/-- SIRTP (R960), with IRTA_REG as it stood at Submit. -/
def State.finishSirtp (s : State) (p : IrtPtr) : State :=
  let s := if s.caps.esirtps then s.invalidateAllIec else s
  { s with latchedIr := p, gsts := { s.gsts with irtps := true } }

/-- CFI (R964). -/
def State.finishCfi (s : State) (v : Bool) : State := { s with gsts := { s.gsts with cfis := v } }

/-- A register-based invalidation is incorrect and ignored (R970, R972, R974; 92 D6, D15, D26). -/
def registerInvalidationBad (s : State) (gran : BitVec 2) : Bool :=
  decide (6 ≤ s.caps.verMax) || s.latchedRt.ttm != 0 || gran == 0 || s.gsts.qies

/-- Context-cache invalidate (R970). -/
def State.finishCcmd (s : State) : State :=
  if registerInvalidationBad s s.ccmd.cirg then { s with ccmd := { s.ccmd with icc := false, caig := 0 } }
  else
    let g := s.granularity s.ccmd.cirg.toNat
    let s := s.implicitFlush.invalidateCtx g s.ccmd.did s.ccmd.sid s.ccmd.fm
    { s with ccmd := { s.ccmd with icc := false, caig := BitVec.ofNat 2 g } }

/-- An unsupported address mask of a page-selective request (R972). -/
def ivaMaskBad (s : State) : Bool := s.iotlbReg.iirg == 3 && s.caps.psi && decide (s.caps.mamv < s.iva.am.toNat)

/-- The finest granularity an IOTLB_REG request may be performed at (R972). -/
def iotlbFinest (s : State) : Nat := if s.caps.psi then s.iotlbReg.iirg.toNat else min s.iotlbReg.iirg.toNat 2

/-- A flag of IOTLB_REG drains its kind of request; Major Version 2 or higher always drains (10 R120, 70 R1486). -/
def registerDrains (s : State) (asked supported : Bool) : Bool := decide (2 ≤ s.caps.verMax) || (asked && supported)

/-- IOTLB invalidate (R972). -/
def State.finishIotlb (s : State) : State :=
  if registerInvalidationBad s s.iotlbReg.iirg || ivaMaskBad s then
    { s with iotlbReg := { s.iotlbReg with ivt := false, iaig := 0 } }
  else
    let g := s.granularity (iotlbFinest s)
    let s := (s.implicitFlush.invalidateIotlb g s.iotlbReg.did s.iva.addr s.iva.am.toNat s.iva.ih).drainKinds
      (registerDrains s s.iotlbReg.dr s.caps.drd) (registerDrains s s.iotlbReg.dw s.caps.dwd)
    { s with iotlbReg := { s.iotlbReg with ivt := false, iaig := BitVec.ofNat 2 g } }

/-- Protected memory enable or disable (R980). No copy of the base and limit registers is made at Submit: when software, which
must not, writes one while the command is pending, the protected ranges are the registers' at each check (DESIGN CHOICE, log
38). -/
def State.finishPmen (s : State) (v : Bool) : State :=
  let s := if v then s.drainAll else s
  { s with pmr := { s.pmr with prs := v } }

/-- Change one counter. -/
def State.mapCounter (s : State) (k : Nat) (f : PerfCounter → PerfCounter) : State :=
  { s with perf := { s.perf with counters := s.perf.counters.modify k f } }

/-- Change every counter. -/
def State.mapCounters (s : State) (f : PerfCounter → PerfCounter) : State :=
  { s with perf := { s.perf with counters := s.perf.counters.map f } }

/-- A command of GCMD_REG or PMEN_REG. -/
def isGcmdOrPmen : Instr → Bool
  | .gcmdTeEnable | .gcmdTeDisable | .gcmdSrtp | .gcmdWbf | .gcmdQieEnable | .gcmdQieDisable | .gcmdIreEnable
  | .gcmdIreDisable | .gcmdSirtp | .gcmdCfiSet | .gcmdCfiClear | .pmenEpmEnable | .pmenEpmDisable => true
  | _ => false

/-- The pending command is one of GCMD_REG or PMEN_REG, while which an enhanced command is aborted (92 D27). -/
def PendCmd.abortsEcmd (p : PendCmd) : Bool :=
  match p.cmd with
  | .instr i => isGcmdOrPmen i
  | .reservedVirtual => false

/-- ECRSP_REG when an enhanced command completes (R985): RSLT is 0 for every defined command. -/
def State.ecmdDone (s : State) (sc : BitVec 7) : State :=
  { s with ecmd := { s.ecmd with rslt := 0, sc := sc, ip := false } }

/-- `EcmdComplete` (R985, 92 D27): status 2 while a GCMD_REG or PMEN_REG command is pending, 1 when ECCAP_REG_1 does not
report the command, else what the command answers. -/
def State.ecmdRun (s : State) (cmd : Nat) (act : State → State × BitVec 7) : State :=
  if s.pendCmds.any PendCmd.abortsEcmd then s.ecmdDone 2
  else if !bitAt s.caps.eccap1 (cmd - 128) then s.ecmdDone 1
  else (act s).1.ecmdDone (act s).2

/-- Enable Perfmon Counter (R986). -/
def enableCounter (k : Nat) (s : State) : State × BitVec 7 :=
  if perfEnableChecks s k then (s.mapCounter k (fun p => { p with en := true }), 0) else (s, 16)

/-- Disable Perfmon Counter (R987). -/
def disableCounter (k : Nat) (s : State) : State × BitVec 7 :=
  if s.caps.ncntr ≤ k then (s, 16) else (s.mapCounter k (fun p => { p with en := false, frozen := false }), 0)

/-- Reset All Perfmon Counter Configuration (R988): values are kept. -/
def resetConfiguration (s : State) : State × BitVec 7 :=
  (s.mapCounters (fun p => { PerfCounter.reset with value := p.value }), 0)

/-- Reset All Perfmon Counter Values (R989). -/
def resetValues (s : State) : State × BitVec 7 := (s.mapCounters (fun p => { p with value := 0 }), 0)

/-- `VcmdComplete` (R994): status 1 when VCCAP_REG does not report the command. -/
def State.vcmdDone (s : State) (sc : BitVec 7) (rslt : BitVec 48) : State :=
  { s with vcmd := { s.vcmd with rslt := rslt, sc := sc, ip := false } }

/-- Null Command (R994). -/
def State.finishVcmdNull (s : State) : State := s.vcmdDone (if bitAt s.caps.vccap 0 then 0 else 1) 0

/-- VCCAP_REG.PAS (12 R483): Clear when ECAP_REG.PASID=0. -/
def Caps.vpas (c : Caps) : Bool := bitAt c.vccap 1 && c.pasids

/-- VCCAP_REG.FPS (12 R483): Clear when ECAP_REG.PASID=0. -/
def Caps.vfps (c : Caps) : Bool := bitAt c.vccap 2 && c.pasids

/-- Allocate PASID (R995): the choice says which free one (93 U28). -/
def State.finishVcmdAllocate (s : State) : State :=
  if !s.caps.vpas then s.vcmdDone 1 0
  else
    match takeAt s.vcmd.free (s.choice.pick % s.vcmd.free.length) with
    | none => s.vcmdDone 16 0
    | some (p, rest) =>
      ({ s with vcmd := { s.vcmd with free := rest, allocated := p :: s.vcmd.allocated } } : State).vcmdDone 0
        (p.setWidth 48)

/-- Free PASID (R996, 92 D28). -/
def State.finishVcmdFree (s : State) (oa : BitVec 48) : State :=
  let p := field oa 0 20
  if !s.caps.vfps then s.vcmdDone 1 0
  else if !s.vcmd.allocated.contains p then s.vcmdDone 16 0
  else
    ({ s with vcmd := { s.vcmd with free := p :: s.vcmd.free, allocated := s.vcmd.allocated.erase p } } : State).vcmdDone
      0 0

/-- Complete a command of the opcode table, with the pointers captured at Submit (R965). -/
def finishInstr (p : PendCmd) (s : State) : Instr → State
  | .gcmdTeEnable => s.finishTeEnable
  | .gcmdTeDisable => s.finishTeDisable
  | .gcmdSrtp => s.finishSrtp p.root
  | .gcmdWbf => s.finishWbf
  | .gcmdQieEnable => s.finishQieEnable
  | .gcmdQieDisable => s.finishQieDisable
  | .gcmdIreEnable => s.finishIreEnable
  | .gcmdIreDisable => s.finishIreDisable
  | .gcmdSirtp => s.finishSirtp p.irt
  | .gcmdCfiSet => s.finishCfi true
  | .gcmdCfiClear => s.finishCfi false
  | .ccmdIcc _ _ _ _ => s.finishCcmd
  | .iotlbIvt _ _ _ _ => s.finishIotlb
  | .pmenEpmEnable => s.finishPmen true
  | .pmenEpmDisable => s.finishPmen false
  | .ecmdEnable k => s.ecmdRun 240 (enableCounter k.toNat)
  | .ecmdDisable k => s.ecmdRun 241 (disableCounter k.toNat)
  | .ecmdResetConfig _ => s.ecmdRun 242 resetConfiguration
  | .ecmdResetValues _ => s.ecmdRun 243 resetValues
  | .ecmdFreeze _ => s.ecmdRun 244 (fun t => (t.freezeAll true, 0))
  | .ecmdUnfreeze _ => s.ecmdRun 245 (fun t => (t.freezeAll false, 0))
  | .ecmdReserved _ _ => s.ecmdRun 0 (fun t => (t, 1))
  | .vcmdNull _ => s.finishVcmdNull
  | .vcmdAllocate _ => s.finishVcmdAllocate
  | .vcmdFree oa => s.finishVcmdFree oa
  | _ => s

/-- Complete a register command (R965); a reserved virtual command answers status 1 (R994). -/
def finishCmd (p : PendCmd) (s : State) : State :=
  match p.cmd with
  | .instr i => finishInstr p s i
  | .reservedVirtual => s.vcmdDone 1 0

/-! ## Submit -/

/-- A command is submitted: it completes in the same step, or stays pending while the choice defers it (R965). The pointer
registers are captured as they stand. For a command submitted while one of another register is pending, which software must not
do, 70 R1481 gives no outcome beyond U24, U25 and D27 (20 R561). The model takes it, of whatever register, a GCMD_REG or
PMEN_REG write decoded against GSTS_REG and PRS as they stand: deferred, it joins the pending commands, of which the oldest
completes first; not deferred, it completes at once, ahead of them (DESIGN CHOICE, log 20). -/
def State.submitAny (s : State) (c : Submitted) : State :=
  if s.choice.defer then { s with pendCmds := s.pendCmds ++ [{ cmd := c, root := s.rtaddr, irt := s.irta }] }
  else finishCmd { cmd := c, root := s.rtaddr, irt := s.irta } s

/-- A command of the opcode table is submitted. -/
def State.submit (s : State) (i : Instr) : State := s.submitAny (.instr i)

/-- Completing this command changes the translation table mode while translation is on and the caches of the old mode are
not empty, on a unit that does not invalidate them itself (93 U41, 70 R1483). -/
def ttmHazard (s : State) (p : PendCmd) : Bool :=
  p.cmd == .instr .gcmdSrtp && s.gsts.tes && !s.caps.esrtps && p.root.ttm != s.latchedRt.ttm &&
  !(s.caches.ctx.isEmpty && s.caches.pasid.isEmpty && s.caches.iotlb.isEmpty && s.caches.psc.isEmpty)

/-- GCMD_REG.TE 0 to 1 (R951). -/
def execGcmdTeEnable (s : State) : Result := .next (s.submit .gcmdTeEnable)

/-- GCMD_REG.TE 1 to 0 (R952). -/
def execGcmdTeDisable (s : State) : Result := .next (s.submit .gcmdTeDisable)

/-- GCMD_REG.SRTP (R955). -/
def execGcmdSrtp (s : State) : Result :=
  if !s.choice.defer && ttmHazard s { cmd := .instr .gcmdSrtp, root := s.rtaddr, irt := s.irta } then
    .refused .ttmChangedWhileActive
  else .next (({ s with gsts := { s.gsts with rtps := false } } : State).submit .gcmdSrtp)

/-- GCMD_REG.WBF (R962): ignored without RWBF (R950). -/
def execGcmdWbf (s : State) : Result :=
  .next (if s.caps.rwbf then ({ s with gsts := { s.gsts with wbfs := true } } : State).submit .gcmdWbf else s)

/-- GCMD_REG.QIE 0 to 1 (R958): ignored without QI (R950). -/
def execGcmdQieEnable (s : State) : Result := .next (if s.caps.qi then s.submit .gcmdQieEnable else s)

/-- GCMD_REG.QIE 1 to 0 (R958): ignored without QI (R950). -/
def execGcmdQieDisable (s : State) : Result := .next (if s.caps.qi then s.submit .gcmdQieDisable else s)

/-- GCMD_REG.IRE 0 to 1 (R959): ignored without IR (R950). -/
def execGcmdIreEnable (s : State) : Result := .next (if s.caps.ir then s.submit .gcmdIreEnable else s)

/-- GCMD_REG.IRE 1 to 0 (R959): ignored without IR (R950). -/
def execGcmdIreDisable (s : State) : Result := .next (if s.caps.ir then s.submit .gcmdIreDisable else s)

/-- GCMD_REG.SIRTP (R960): ignored without IR (R950). -/
def execGcmdSirtp (s : State) : Result :=
  .next (if s.caps.ir then ({ s with gsts := { s.gsts with irtps := false } } : State).submit .gcmdSirtp else s)

/-- GCMD_REG.CFI 0 to 1 (R964): ignored without IR (R950). -/
def execGcmdCfiSet (s : State) : Result := .next (if s.caps.ir then s.submit .gcmdCfiSet else s)

/-- GCMD_REG.CFI 1 to 0 (R964): ignored without IR (R950). -/
def execGcmdCfiClear (s : State) : Result := .next (if s.caps.ir then s.submit .gcmdCfiClear else s)

/-- CCMD_REG.ICC (R970). -/
def execCcmdIcc (cirg : BitVec 2) (sid : SourceId) (did : DomainId) (fm : BitVec 2) (s : State) : Result :=
  .next (({ s with ccmd := { s.ccmd with icc := true, cirg := cirg, sid := sid, did := did, fm := fm } } : State).submit
    (.ccmdIcc cirg sid did fm))

/-- IOTLB_REG.IVT (R972). -/
def execIotlbIvt (iirg : BitVec 2) (dr dw : Bool) (did : DomainId) (s : State) : Result :=
  .next (({ s with iotlbReg := { s.iotlbReg with ivt := true, iirg := iirg, dr := dr, dw := dw, did := did } } : State).submit
    (.iotlbIvt iirg dr dw did))

/-- A unit without protected memory has PMEN_REG read-only (R980). -/
def hasPmr (c : Caps) : Bool := c.plmr || c.phmr

/-- A write of PMEN_REG.EPM (R980): a command is submitted when the bit differs from PRS (R965). -/
def State.writeEpm (s : State) (v : Bool) (i : Instr) : State :=
  let t : State := { s with pmr := { s.pmr with epm := v } }
  if s.pmr.prs == v then t else t.submit i

/-- PMEN_REG.EPM written 1 (R980). -/
def execPmenEpmEnable (s : State) : Result :=
  .next (if hasPmr s.caps then s.writeEpm true .pmenEpmEnable else s)

/-- PMEN_REG.EPM written 0 (R980). -/
def execPmenEpmDisable (s : State) : Result :=
  .next (if hasPmr s.caps then s.writeEpm false .pmenEpmDisable else s)

/-- Submit of an enhanced command (R985): dropped while one is in progress; without ECMDS nothing exists. -/
def State.submitEcmd (s : State) (i : Instr) (cmd : BitVec 8) (oa : BitVec 48) : State :=
  if !s.caps.ecmds || s.ecmd.ip then s
  else ({ s with ecmd := { s.ecmd with oa := oa, cmd := cmd, rslt := 0, sc := 0, ip := true } } : State).submit i

/-- Command 240 (R986). -/
def execEcmdEnable (counter : BitVec 48) (s : State) : Result := .next (s.submitEcmd (.ecmdEnable counter) 240 counter)

/-- Command 241 (R987). -/
def execEcmdDisable (counter : BitVec 48) (s : State) : Result := .next (s.submitEcmd (.ecmdDisable counter) 241 counter)

/-- Command 242 (R988). -/
def execEcmdResetConfig (oa : BitVec 48) (s : State) : Result := .next (s.submitEcmd (.ecmdResetConfig oa) 242 oa)

/-- Command 243 (R989). -/
def execEcmdResetValues (oa : BitVec 48) (s : State) : Result := .next (s.submitEcmd (.ecmdResetValues oa) 243 oa)

/-- Command 244 (R990). -/
def execEcmdFreeze (oa : BitVec 48) (s : State) : Result := .next (s.submitEcmd (.ecmdFreeze oa) 244 oa)

/-- Command 245 (R991). -/
def execEcmdUnfreeze (oa : BitVec 48) (s : State) : Result := .next (s.submitEcmd (.ecmdUnfreeze oa) 245 oa)

/-- The reserved commands (R992). -/
def execEcmdReserved (cmd : BitVec 8) (oa : BitVec 48) (s : State) : Result :=
  .next (s.submitEcmd (.ecmdReserved cmd oa) cmd oa)

/-- VCMD_REG takes the write: the interface exists and no virtual command is in progress (R994). -/
def State.vcmdOpen (s : State) : Bool := s.caps.vcs && !s.vcmd.ip

/-- VCMD_REG's fields stored, VCRSP_REG cleared and IP set (R994). -/
def State.vcmdBusy (s : State) (cmd : BitVec 8) (oa : BitVec 48) : State :=
  { s with vcmd := { s.vcmd with oa := oa, cmd := cmd, rslt := 0, sc := 0, ip := true } }

/-- Submit of a virtual command (R994). -/
def State.submitVcmd (s : State) (i : Instr) (cmd : BitVec 8) (oa : BitVec 48) : State :=
  if s.vcmdOpen then (s.vcmdBusy cmd oa).submit i else s

/-- Virtual command 0 (R994). -/
def execVcmdNull (oa : BitVec 48) (s : State) : Result := .next (s.submitVcmd (.vcmdNull oa) 0 oa)

/-- Virtual command 1 (R995). -/
def execVcmdAllocate (oa : BitVec 48) (s : State) : Result := .next (s.submitVcmd (.vcmdAllocate oa) 1 oa)

/-- Virtual command 2 (R996). -/
def execVcmdFree (oa : BitVec 48) (s : State) : Result := .next (s.submitVcmd (.vcmdFree oa) 2 oa)

/-- The virtual commands 3 to 255 (R994): submitted like any other, they complete with status 1. -/
def State.undefinedVirtual (s : State) (cmd : BitVec 8) (oa : BitVec 48) : State :=
  if s.vcmdOpen then (s.vcmdBusy cmd oa).submitAny .reservedVirtual else s

/-- The oldest pending command completes (R965). -/
def State.completeOldest (s : State) : Result :=
  match s.pendCmds with
  | [] => .next s
  | p :: rest =>
    if ttmHazard s p then .refused .ttmChangedWhileActive
    else .next (finishCmd p { s with pendCmds := rest })

end Sys2Proof.Machine
end

