-- ==== Sys2Proof/Machine/Requests.lean ====
section
/-! DEFINITION. Inbound memory requests: untranslated, translation and translated (42_dma_requests.md R1000 to R1032;
43_device_tlb.md R1050 to R1075). -/

namespace Sys2Proof.Machine

/-- The PASID of a request. -/
def reqPasid (r : MemReq) : Option Pasid := r.pasid.map (·.pasid)

/-- The fault record of a memory request (60 R1370, R1372). -/
def requestReport (s : State) (k : ReqKind) (r : MemReq) (c : Cond) (fpd : Bool) : FaultReport :=
  { reason := c.reason, qualified := c.qualified, fpd := fpd, sid := r.sid, fi := faultInfo s.caps r.addr,
    t1 := (accessType (effAccess s.caps k r)).1, t2 := (accessType (effAccess s.caps k r)).2, atf := k.atField,
    pp := r.pasid.isSome, pv := (reqPasid r).getD 0, exe := r.pasid.any (·.er), priv := r.pasid.any (·.pr) }

/-- The answer to a blocked request: a write is dropped, any other completes with Unsupported Request (42 R1030). -/
def State.turnAway (s : State) (r : MemReq) : State := if r.access = .write then s else s.respond r.sid .ur

/-- `Block(req, f)` (42 R1030). -/
def State.block (s : State) (k : ReqKind) (r : MemReq) (c : Cond) (fpd : Bool) : State :=
  (s.turnAway r).reportFault (requestReport s k r c fpd)

/-! ## Protected memory (42 R1010; 11 R275) -/

/-- [a, a+n) meets the region from `base` to `limit` inclusive; empty when limit < base. -/
def meetsRegion (a n base limit : Nat) : Bool := decide (base ≤ limit) && overlap a n base (limit + 1 - base)

/-- The low and high regions are met (11 R275). The low N+1 bits of the limits decode as ones. -/
def meetsPmr (s : State) (a n : Nat) : Bool :=
  (s.caps.plmr && meetsRegion a n s.pmr.plmBase.toNat (s.pmr.plmLimit.toNat + (2 ^ (s.plat.plmrN + 1) - 1))) ||
  (s.caps.phmr && meetsRegion a n (s.pmr.phmBase.toNat % s.hpaEnd)
    (s.pmr.phmLimit.toNat % s.hpaEnd + (2 ^ (s.plat.phmrN + 1) - 1)))

/-- The unit checks protected memory also for requests that it translated (42 R1010, 93 U31). -/
def pmrChecksRemapped (s : State) : Bool := 2 ≤ s.caps.verMax || s.plat.pmrChecksRemapped

/-- `PmrBlocks` (42 R1010). -/
def pmrBlocks (s : State) (k : ReqKind) (r : MemReq) (hpa : Addr) (passThrough : Bool) : Bool :=
  s.pmr.prs && !r.cxlCache &&
  !(!pmrChecksRemapped s && s.gsts.tes && k == .untranslated && !passThrough) &&
  meetsPmr s hpa.toNat r.len

/-- The request goes on to its output address, unless protected memory blocks it: then nothing is recorded
(42 R1010, R1032, 92 D7). -/
def State.passOn (s : State) (k : ReqKind) (r : MemReq) (hpa : Addr) (passThrough snoop : Bool) (mt : Option MemType) :
    State :=
  if pmrBlocks s k r hpa passThrough then s.turnAway r
  else s.forward { req := r, hpa := hpa, snoop := snoop, mt := mt }

/-! ## Untranslated requests (42 R1001 to R1024) -/

/-- A request to the interrupt range that the range does not allow (42 R1023, 92 D29). -/
def State.blockIllegal (s : State) (r : MemReq) : State :=
  if s.gsts.tes then s.block .untranslated r (if s.latchedRt.ttm == 0 then .lgn4 else .sgn8_1) false
  else s.turnAway r

/-- A request of one DWORD; address bits 1:0 do not matter (42 R1020, 30 R867). -/
def isDword (r : MemReq) : Bool := r.len == 4

/-- `HandleInterruptRange` (42 R1020 to R1023). -/
def State.interruptRange (s : State) (r : MemReq) : State :=
  match r.access with
  | .write =>
    if isDword r then s.handleInterrupt r.sid (field r.addr 0 32) (BitVec.ofNat 32 (ofBytes r.data))
    else s.blockIllegal r
  | .zlr =>
    let b := s.freeBytes Config.freeZlrByte r.len
    b.2.respond r.sid (.data b.1)
  | .read | .atomic => s.blockIllegal r

/-- An untranslated request that was translated goes on (42 R1032). The memory type may be a free value (log 25). -/
def State.forwardFound (s : State) (r : MemReq) (f : Found) (fpd : Bool) : State :=
  ((s.keepFound f r fpd).passOn .untranslated r f.hpa (f.pgtt == 4) (pageSnoop s r f) (pageMemType s r.coherent f)).fresh

/-- `HandleUntranslated` (42 R1001). With TES=0 the request has no memory type, 22 R775 giving one by translation mode only, and
its snoop attribute is the request's own `!NS`, 20 R526 giving that by translation mode only too (DESIGN CHOICE, log 25). -/
def State.handleUntranslated (s : State) (r : MemReq) : State :=
  if (r.pasid.isNone || !s.gsts.tes) && inInterruptRange r.addr then s.interruptRange r
  else if !s.gsts.tes then s.passOn .untranslated r r.addr true (!r.ns) none
  else
    match s.runWalk (translate s .untranslated r) r.sid (reqPasid r) 0 with
    | (.error c, t, s) => s.block .untranslated r c t.fpd
    | (.ok f, t, s) => s.forwardFound r f t.fpd

/-- untranslated_request (42 R1001). -/
def execUntranslatedRequest (r : MemReq) (s : State) : Result :=
  .next ((s.countRequest r.sid (reqPasid r) 0).handleUntranslated r)

/-! ## Translation requests (43 R1055 to R1070) -/

/-- PRIV of a completion: the PR of a request-with-PASID (43 R1060). -/
def completionPriv (r : MemReq) : Bool := r.pasid.any (·.pr)

/-- "Success with R=W=U=S=0" (43 R1060). -/
def zeroCompletion (r : MemReq) (n : Bool) : TrCompletion :=
  { addr := 0, s := false, n := n, g := false, priv := completionPriv r, exe := false, u := false, w := false, r := false }

/-- The ADDR field of a page of 2^shift bytes at `base` (43 R1060): below the page's own bits a 0, then ones. -/
def sizedAddr (base : Addr) (shift : Nat) : BitVec 52 :=
  field base 12 52 + (if shift ≤ 12 then 0 else BitVec.ofNat 52 (2 ^ (shift - 13) - 1))

/-- `BuildCompletion` (43 R1060), with the special conditions S.1 and S.2 (R1066). No leaf is read under S.1 and S.2: N is then
0 in legacy mode and PGSNP alone in scalable mode, of which R1066 says nothing, and ADDR, which R1066 calls not meaningful under
S.1, is 0 there as in a completion without permissions (DESIGN CHOICE, log 31). -/
def buildCompletion (c : Caps) (r : MemReq) (f : Found) (n : Bool) : TrCompletion :=
  if f.special then
    if reqReadOnly c r then zeroCompletion r n else { zeroCompletion r n with w := true, u := true }
  else if f.r || f.w then
    { zeroCompletion r n with addr := sizedAddr f.page.hpa f.page.shift, s := 12 < f.page.shift, r := f.r, w := f.w }
  else zeroCompletion r n

/-- The answer to a translation request that met a condition (43 R1055, 60 R1340). -/
def State.answerFault (s : State) (r : MemReq) (c : Cond) (t : Trail) : State :=
  match c.trCell r.pasid.isSome with
  | .zero =>
    let s := s.respond r.sid (.translation (zeroCompletion r t.n))
    if c = .sfs10 then s.reportFault (requestReport s .translation r c t.fpd) else s
  | .effP => s.respond r.sid (.translation (zeroCompletion r t.n))
  | .ca => (s.respond r.sid .ca).reportFault (requestReport s .translation r c t.fpd)
  | _ => (s.respond r.sid .ur).reportFault (requestReport s .translation r c t.fpd)

/-- `HandleTranslationRequest` (43 R1055). -/
def State.handleTranslation (s : State) (r : MemReq) : State :=
  if !s.gsts.tes then s.respond r.sid .ur
  else
    match s.runWalk (translate s .translation r) r.sid (reqPasid r) 1 with
    | (.error c, t, s) => s.answerFault r c t
    | (.ok f, t, s) => (s.keepFound f r t.fpd).respond r.sid (.translation (buildCompletion s.caps r f t.n))

/-- translation_request (43 R1055). -/
def execTranslationRequest (r : MemReq) (s : State) : Result :=
  .next ((s.countRequest r.sid (reqPasid r) 1).handleTranslation r)

/-! ## Translated requests (43 R1075) -/

/-- The memory type of a translated request: write-back (22 R761), on a coherent link of a unit with MTS (22 R770). -/
def translatedType (s : State) (r : MemReq) : Option MemType := if r.coherent && s.caps.mts then some .wb else none

/-- `HandleTranslated` (43 R1075). On a CXL.cache link nothing is checked (22 R708, log 18). -/
def State.handleTranslated (s : State) (r : MemReq) : State :=
  if r.cxlCache then s.forward { req := r, hpa := r.addr, snoop := !r.ns, mt := translatedType s r }
  else if !s.gsts.tes || r.pasid.isSome then s.turnAway r
  else
    match s.runWalk (translatedChecks s r) r.sid none 2 with
    | (.error c, t, s) => s.block .translated r c t.fpd
    | (.ok _, _, s) => s.passOn .translated r r.addr false (!r.ns) (translatedType s r)

/-- translated_request (43 R1075). -/
def execTranslatedRequest (r : MemReq) (s : State) : Result :=
  .next ((s.countRequest r.sid (reqPasid r) 2).handleTranslated r)

end Sys2Proof.Machine
end

