-- ==== Sys2Proof/Machine/Dispatch.lean ====
section
/-! DEFINITION. The dispatch: one arm per constructor of `Instr`, each one direct call of its meaning. -/

namespace Sys2Proof.Machine

/-- The meaning of an instruction (30_encoding.md R850). -/
def exec (i : Instr) (s : State) : Host.Outcome State Fault Refusal :=
  match i with
  | .ccInvDsc g did sid fm => Sys2Proof.Machine.execCcInvDsc g did sid fm s
  | .iotlbInvDsc g dw dr did am ih addr => Sys2Proof.Machine.execIotlbInvDsc g dw dr did am ih addr s
  | .devTlbInvDsc sid mip pfsid sz addr => Sys2Proof.Machine.execDevTlbInvDsc sid mip pfsid sz addr s
  | .iecInvDsc g im iidx => Sys2Proof.Machine.execIecInvDsc g im iidx s
  | .invWaitDsc iflag sw fn pd data saddr => Sys2Proof.Machine.execInvWaitDsc iflag sw fn pd data saddr s
  | .pIotlbInvDsc g did pasid am ih addr => Sys2Proof.Machine.execPIotlbInvDsc g did pasid am ih addr s
  | .pcInvDsc g did pasid => Sys2Proof.Machine.execPcInvDsc g did pasid s
  | .pDevTlbInvDsc mip pfsid sid pasid g sz addr => Sys2Proof.Machine.execPDevTlbInvDsc mip pfsid sid pasid g sz addr s
  | .pageGrpRespDsc pp rc rid pasid prgi => Sys2Proof.Machine.execPageGrpRespDsc pp rc rid pasid prgi s
  | .pageReqDsc m => Sys2Proof.Machine.execPageReqDsc m s
  | .gcmdTeEnable => Sys2Proof.Machine.execGcmdTeEnable s
  | .gcmdTeDisable => Sys2Proof.Machine.execGcmdTeDisable s
  | .gcmdSrtp => Sys2Proof.Machine.execGcmdSrtp s
  | .gcmdWbf => Sys2Proof.Machine.execGcmdWbf s
  | .gcmdQieEnable => Sys2Proof.Machine.execGcmdQieEnable s
  | .gcmdQieDisable => Sys2Proof.Machine.execGcmdQieDisable s
  | .gcmdIreEnable => Sys2Proof.Machine.execGcmdIreEnable s
  | .gcmdIreDisable => Sys2Proof.Machine.execGcmdIreDisable s
  | .gcmdSirtp => Sys2Proof.Machine.execGcmdSirtp s
  | .gcmdCfiSet => Sys2Proof.Machine.execGcmdCfiSet s
  | .gcmdCfiClear => Sys2Proof.Machine.execGcmdCfiClear s
  | .ccmdIcc cirg sid did fm => Sys2Proof.Machine.execCcmdIcc cirg sid did fm s
  | .iotlbIvt iirg dr dw did => Sys2Proof.Machine.execIotlbIvt iirg dr dw did s
  | .pmenEpmEnable => Sys2Proof.Machine.execPmenEpmEnable s
  | .pmenEpmDisable => Sys2Proof.Machine.execPmenEpmDisable s
  | .ecmdEnable counter => Sys2Proof.Machine.execEcmdEnable counter s
  | .ecmdDisable counter => Sys2Proof.Machine.execEcmdDisable counter s
  | .ecmdResetConfig oa => Sys2Proof.Machine.execEcmdResetConfig oa s
  | .ecmdResetValues oa => Sys2Proof.Machine.execEcmdResetValues oa s
  | .ecmdFreeze oa => Sys2Proof.Machine.execEcmdFreeze oa s
  | .ecmdUnfreeze oa => Sys2Proof.Machine.execEcmdUnfreeze oa s
  | .ecmdReserved cmd oa => Sys2Proof.Machine.execEcmdReserved cmd oa s
  | .vcmdNull oa => Sys2Proof.Machine.execVcmdNull oa s
  | .vcmdAllocate oa => Sys2Proof.Machine.execVcmdAllocate oa s
  | .vcmdFree oa => Sys2Proof.Machine.execVcmdFree oa s
  | .untranslatedRequest r => Sys2Proof.Machine.execUntranslatedRequest r s
  | .translationRequest r => Sys2Proof.Machine.execTranslationRequest r s
  | .translatedRequest r => Sys2Proof.Machine.execTranslatedRequest r s
  | .interruptRequest sid addr data => Sys2Proof.Machine.execInterruptRequest sid addr data s
  | .pageRequest m => Sys2Proof.Machine.execPageRequest m s
  | .invalidationCompletion sid vec cc => Sys2Proof.Machine.execInvalidationCompletion sid vec cc s

end Sys2Proof.Machine
end

