-- ==== Sys2Proof/Machine/Registers.lean ====
section
/-! DEFINITION. The register map (10_state.md R112 to R118) and what a read returns and a write that is no command does
(11_state_control_registers.md R200 to R310; 12_state_mtrr_perfmon_cmd_registers.md R400 to R483; 41 R998, R999). -/

namespace Sys2Proof.Machine

/-! ## Words of 32 and 64 bits -/

/-- The low doubleword of a quadword. -/
def loWord (x : BitVec 64) : BitVec 32 := field x 0 32
/-- The high doubleword of a quadword. -/
def hiWord (x : BitVec 64) : BitVec 32 := field x 32 32

/-- A page-number field (bits 63:12) with its low 20 bits taken from bits 31:12 of a doubleword written. -/
def setPageLo (p : BitVec 52) (v : BitVec 32) : BitVec 52 := field p 20 32 ++ field v 12 20
/-- A page-number field with its high 32 bits written. -/
def setPageHi (p : BitVec 52) (v : BitVec 32) : BitVec 52 := v ++ field p 0 20
/-- A quadword with its low doubleword written. -/
def setLo (x : BitVec 64) (v : BitVec 32) : BitVec 64 := hiWord x ++ v
/-- A quadword with its high doubleword written. -/
def setHi (x : BitVec 64) (v : BitVec 32) : BitVec 64 := v ++ loWord x

/-- The element of an array of registers that stands at `off`: `n` of them from `base`, `stride` bytes apart. -/
def slotAt (base stride n off : Nat) : Option Nat :=
  if base ≤ off && (off - base) % stride == 0 && (off - base) / stride < n then some ((off - base) / stride) else none

/-! ## The words of the registers, as software reads them -/

/-- RTADDR_REG (11 R220). -/
def rtaddrWord (r : RootPtr) : BitVec 64 := r.rta ++ r.ttm ++ 0#10

/-- CCMD_REG (11 R230); FM and SID are write-only and read free (93 U4). -/
def ccmdWord (c : Ccmd) (free : BitVec 64) : BitVec 64 :=
  bit c.icc ++ c.cirg ++ c.caig ++ 0#25 ++ field free 32 2 ++ field free 16 16 ++ c.did

/-- IOTLB_REG (11 R240). -/
def iotlbWord (r : IotlbReg) : BitVec 64 :=
  bit r.ivt ++ 0#1 ++ r.iirg ++ 0#1 ++ r.iaig ++ 0#7 ++ bit r.dr ++ bit r.dw ++ r.did ++ 0#32

/-- The control register of an event: IM, IP (11 R255). -/
def ctlWord (e : EventRegs) : BitVec 32 := bit e.im ++ bit e.ip ++ 0#30
/-- The data register of an event. -/
def dataWord (e : EventRegs) : BitVec 32 := e.imd.setWidth 32
/-- The address register of an event. -/
def maWord (e : EventRegs) : BitVec 32 := e.ma ++ 0#2

/-- FRCD_REG[n] (11 R262). -/
def frcdWord (r : Frcd) : BitVec 128 :=
  bit r.f ++ bit r.t1 ++ r.atf ++ r.pv ++ r.fr ++ bit r.pp ++ bit r.exe ++ bit r.priv ++ bit r.t2 ++ 0#12 ++ r.sid ++
    r.fi ++ 0#12

/-- PMEN_REG (11 R270). -/
def pmenWord (p : Pmr) : BitVec 32 := bit p.epm ++ 0#30 ++ bit p.prs

/-- IQA_REG (11 R282). -/
def iqaWord (q : Iq) : BitVec 64 := q.iqa ++ bit q.dw ++ 0#8 ++ q.qs
/-- IQH_REG and IQT_REG (11 R280, R281). -/
def iqPtrWord (p : BitVec 15) : BitVec 64 := 0#45 ++ p ++ 0#4
/-- IQERCD_REG (11 R288): ICESID and ITESID, IQEI. -/
def iqercdWord (r : Iqercd) : BitVec 64 := r.icesid ++ r.itesid ++ 0#28 ++ r.iqei
/-- IRTA_REG (11 R290). -/
def irtaWord (r : IrtPtr) : BitVec 64 := r.irta ++ bit r.eime ++ 0#7 ++ r.size
/-- PQH_REG and PQT_REG (11 R300, R301). -/
def pqPtrWord (p : BitVec 14) : BitVec 64 := 0#45 ++ p ++ 0#5
/-- PQA_REG (11 R302). -/
def pqaWord (p : Prq) : BitVec 64 := p.pqa ++ 0#9 ++ p.pqs
/-- PRS_REG (11 R303). -/
def prsWord (p : Prq) : BitVec 32 := 0#30 ++ bit p.pro ++ bit p.ppr
/-- MTRRDEF_REG (12 R401). -/
def mtrrdefWord (m : Mtrr) : BitVec 64 := 0#52 ++ bit m.e ++ bit m.fe ++ 0#2 ++ m.type
/-- MTRR_PHYSBASE (12 R404). -/
def physBaseWord (v : MtrrVar) : BitVec 64 := v.base ++ 0#4 ++ v.type
/-- MTRR_PHYSMASK (12 R405). -/
def physMaskWord (v : MtrrVar) : BitVec 64 := v.mask ++ bit v.valid ++ 0#11
/-- PERFCNTRCFG_REG (12 R443). -/
def perfCfgWord (p : PerfCounter) : BitVec 64 :=
  0#4 ++ p.es ++ 0#20 ++ p.egi ++ 0#5 ++ bit p.gfo ++ bit p.io ++ bit p.en
/-- The requester-ID filter (12 R444). -/
def ridFilterWord (p : PerfCounter) : BitVec 32 := bit p.ridEn ++ 0#15 ++ p.rid
/-- The domain-ID filter (12 R445). -/
def didFilterWord (p : PerfCounter) : BitVec 32 := bit p.didEn ++ 0#15 ++ p.did
/-- The PASID filter (12 R446). -/
def pasidFilterWord (p : PerfCounter) : BitVec 32 := bit p.pasidEn ++ 0#9 ++ p.pfm ++ p.pasid
/-- The address-type filter (12 R447). -/
def atFilterWord (p : PerfCounter) : BitVec 32 := bit p.atEn ++ 0#28 ++ p.atBits
/-- The page-table-level filter (12 R448). -/
def ptlFilterWord (p : PerfCounter) : BitVec 32 := bit p.ptlEn ++ 0#26 ++ p.ptl
/-- ECRSP_REG and VCRSP_REG (12 R462, R482). -/
def rspWord (rslt : BitVec 48) (sc : BitVec 7) (ip : Bool) : BitVec 64 := rslt ++ 0#8 ++ sc ++ bit ip
/-- VCMD_REG (12 R480). -/
def vcmdWord (v : Vcmd) : BitVec 64 := v.oa ++ 0#8 ++ v.cmd

/-- The freeze bits of counters 64m to 64m+63 (12 R440). -/
def freezeWord (p : Perf) (m : Nat) : BitVec 64 :=
  BitVec.ofNat 64 (ofFlags (((p.counters.drop (64 * m)).take 64).map (·.frozen)))
/-- The overflow bits of counters 64m to 64m+63 (12 R441). -/
def overflowWord (p : Perf) (m : Nat) : BitVec 64 :=
  BitVec.ofNat 64 (ofFlags (((p.counters.drop (64 * m)).take 64).map (·.overflow)))

/-- A Bool as a gate on a word: a register of an unsupported function reads 0 (10 R116). -/
def gate {w : Nat} (b : Bool) (x : BitVec w) : BitVec w := if b then x else 0

/-- An upper address register exists (10 R116, log 1). -/
def upperOk (s : State) : Bool := s.caps.eim || s.plat.upperAddr
/-- The upper address register of an event. -/
def muaWord (s : State) (e : EventRegs) : BitVec 32 := gate (upperOk s) e.mua

/-! ## Reading (10 R112 to R118, 41 R999) -/

/-- The number of 64-bit freeze and overflow registers. -/
def perfWords (c : Caps) : Nat := (c.ncntr + 63) / 64

/-- PERFCNTREVCAP_REG[c,e] (12 R450): EGI is RsvdZ when PERFCNTRCAP_REG[c].PCC=0. -/
def evCapWord (cap : BitVec 32 × List (BitVec 32)) (e : Nat) : BitVec 32 :=
  cap.2.getD e 0 &&& (if bitAt cap.1 0 then 0xFFFFFFFF else 0x0FFFFFFF)

/-- The quadword at `rel` in the configuration block of counter `k` (12 R443 to R450). -/
def perfBlock (s : State) (k rel : Nat) : BitVec 64 :=
  match s.perf.counters[k]? with
  | none => 0
  | some p =>
    let cap := s.caps.percap.getD k (0, [])
    let per (x : BitVec 32) : BitVec 32 := gate s.caps.pccs x
    match rel with
    | 0x00 => perfCfgWord p
    | 0x08 => gate s.caps.didfs (didFilterWord p) ++ gate s.caps.ridfs (ridFilterWord p)
    | 0x10 => gate s.caps.atfs (atFilterWord p) ++ gate s.caps.pasidfs (pasidFilterWord p)
    | 0x18 => 0#32 ++ gate s.caps.ptlfs (ptlFilterWord p)
    | 0x80 => per (evCapWord cap 0) ++ per (cap.1 &&& 0xF003FF01)
    | _ =>
      if 0x88 ≤ rel then per (evCapWord cap ((rel - 0x84) / 4 + 1)) ++ per (evCapWord cap ((rel - 0x84) / 4)) else 0

/-- The perfmon registers at reported offsets (10 R112). -/
def perfWindow (s : State) (off : Nat) : BitVec 64 :=
  let c := s.caps
  match slotAt c.fzo.toNat 8 (perfWords c) off with
  | some m => freezeWord s.perf m
  | none =>
    match slotAt c.ofo.toNat 8 (perfWords c) off with
    | some m => overflowWord s.perf m
    | none =>
      match slotAt c.cnto.toNat (2 ^ (c.cs + 10)) c.ncntr off with
      | some k => ((s.perf.counters[k]?).map (·.value)).getD 0
      | none =>
        let base := c.cfgo.toNat
        if base ≤ off && (off - base) / 0x100 < c.ncntr then perfBlock s ((off - base) / 0x100) ((off - base) % 0x100) else 0

/-- IVA_REG and IOTLB_REG at their reported offset (10 R118): IVA_REG is write-only and reads free (93 U4). -/
def iotlbWindow (s : State) (off : Nat) (free : BitVec 64) : Option (BitVec 64) :=
  if off == 16 * s.caps.iro then some free
  else if off == 16 * s.caps.iro + 8 then some (iotlbWord s.iotlbReg)
  else none

/-- The fault recording registers at their reported offset (10 R118). -/
def frcdWindow (s : State) (off : Nat) : Option (BitVec 64) :=
  (slotAt (16 * s.caps.fro) 8 (2 * s.frcd.length) off).map
    (fun k => field (((s.frcd[k / 2]?).map frcdWord).getD 0) (64 * (k % 2)) 64)

/-- The fixed-range and variable-range MTRRs (12 R402 to R405), on a unit with MTS. With MTRRCAP_REG.FIX=0 the fixed-range ones
stay readable and writable and only the memory typing ignores them (22 R772): the spec says nothing of their access there
(DESIGN CHOICE, log 25). -/
def mtrrWindow (s : State) (off : Nat) : Option (BitVec 64) :=
  if !s.caps.mts then none
  else
    match slotAt 0x120 8 11 off with
    | some k => some (s.mtrr.fixed.getD k 0)
    | none =>
      (slotAt 0x180 8 (2 * (mtrrPairs s).length) off).map (fun k =>
        (((mtrrPairs s)[k / 2]?).map (fun v => if k % 2 == 0 then physBaseWord v else physMaskWord v)).getD 0)

/-- PERFEVNTCAP_REG[g] (12 R442) and the perfmon registers at reported offsets, on a unit with PMS. -/
def pmsWindow (s : State) (off : Nat) : Option (BitVec 64) :=
  if !s.caps.pms then none
  else
    match slotAt 0x380 8 s.caps.egcnt off with
    | some g => some ((field (s.caps.perfevntcap.getD g 0) 0 28).setWidth 64)
    | none => some (perfWindow s off)

/-- The registers at reported offsets and in arrays (10 R112); reserved offsets read 0 (10 R115). -/
def locatedWindow (s : State) (off : Nat) (free : BitVec 64) : BitVec 64 :=
  match iotlbWindow s off free with
  | some w => w
  | none =>
    match frcdWindow s off with
    | some w => w
    | none =>
      match mtrrWindow s off with
      | some w => w
      | none => (pmsWindow s off).getD 0

/-- The unit raises performance monitoring events: ECAP_REG.PMS=1 and PERFCAP_REG.IOS=1, which is 0 without PMS (60 R1400, 46
R1230). -/
def perfEvents (c : Caps) : Bool := c.ios

/-- The quadword of a register at a fixed offset whose function the unit has (10 R112, R116). Any other offset is unused: it
may hold the registers at reported offsets (10 R118). -/
def fixedAt (s : State) (off : Nat) : Bool :=
  let c := s.caps
  match off with
  | 0x00 | 0x08 | 0x10 | 0x18 | 0x20 | 0x28 | 0x30 | 0x38 | 0x40 | 0x60 | 0x68 | 0x70 | 0x78 => true
  | 0x80 | 0x88 | 0x90 | 0x98 | 0xA0 | 0xA8 => c.qi
  | 0xB0 => s.plat.iqercd
  | 0xB8 => c.ir
  | 0xC0 | 0xC8 | 0xD0 | 0xD8 | 0xE0 | 0xE8 => c.prs
  | 0x100 | 0x108 => c.mts
  | 0x300 | 0x310 | 0x318 => c.pms
  | 0x320 | 0x328 | 0x330 => perfEvents c
  | 0x400 | 0x408 | 0x410 | 0x440 | 0x448 => c.ecmds
  | 0xE00 | 0xE08 | 0xE10 | 0xE30 => c.vcs
  | _ => false

/-- The word of GCMD_REG as it reads: its write-only fields free (93 U4), its reserved bits 0 (11 R200). -/
def gcmdReadWord (free : BitVec 64) : BitVec 32 := loWord free &&& 0xCF800000

/-- The word of ECMD_REG as it reads: its write-only fields free (93 U4), its reserved bits 0 (12 R460). -/
def ecmdReadWord (free : BitVec 64) : BitVec 64 := free &&& 0xFFFFFFFFFFFF00FF

/-- PERFCAP_REG as it reads: bits 63:60 are Fh, the other reserved bits 0 (12 R430). -/
def perfcapWord (c : Caps) : BitVec 64 := c.perf &&& 0x007F001F1F7FFFFF ||| 0xF000000000000000

/-- VCCAP_REG (12 R483). -/
def vccapWord (c : Caps) : BitVec 64 := 0#61 ++ bit c.vfps ++ bit c.vpas ++ bit (bitAt c.vccap 0)

/-- The quadword of the registers at a fixed offset (10 R112); `free` is what write-only fields read as (93 U4). -/
def fixedWindow (s : State) (off : Nat) (free : BitVec 64) : BitVec 64 :=
  let c := s.caps
  match off with
  | 0x00 => 0#32 ++ (c.ver &&& verBits)
  | 0x08 => c.cap &&& capBits
  | 0x10 => c.ecap &&& ecapBits
  | 0x18 => gstsWord s.gsts ++ gcmdReadWord free
  | 0x20 => rtaddrWord s.rtaddr
  | 0x28 => ccmdWord s.ccmd free
  | 0x30 => fstsWord s ++ 0#32
  | 0x38 => dataWord s.faultEv ++ ctlWord s.faultEv
  | 0x40 => muaWord s s.faultEv ++ maWord s.faultEv
  | 0x60 => pmenWord s.pmr ++ 0#32
  | 0x68 => s.pmr.plmLimit ++ s.pmr.plmBase
  | 0x70 => s.pmr.phmBase
  | 0x78 => s.pmr.phmLimit
  | 0x80 => iqPtrWord s.iq.head
  | 0x88 => iqPtrWord s.iq.qt
  | 0x90 => iqaWord s.iq
  | 0x98 => 0#31 ++ bit s.iwc ++ 0#32
  | 0xA0 => dataWord s.invEv ++ ctlWord s.invEv
  | 0xA8 => muaWord s s.invEv ++ maWord s.invEv
  | 0xB0 => iqercdWord s.iqercd
  | 0xB8 => irtaWord s.irta
  | 0xC0 => pqPtrWord s.prq.pqh
  | 0xC8 => pqPtrWord s.prq.pqt
  | 0xD0 => pqaWord s.prq
  | 0xD8 => prsWord s.prq ++ 0#32
  | 0xE0 => dataWord s.pageEv ++ ctlWord s.pageEv
  | 0xE8 => muaWord s s.pageEv ++ maWord s.pageEv
  | 0x100 => c.mtrrcap &&& 0x5FF
  | 0x108 => mtrrdefWord s.mtrr
  | 0x300 => perfcapWord c
  | 0x310 => c.fzo ++ c.cfgo
  | 0x318 => c.cnto ++ c.ofo
  | 0x320 => 0#31 ++ bit s.perf.pis ++ 0#32
  | 0x328 => dataWord s.perfEv ++ ctlWord s.perfEv
  | 0x330 => muaWord s s.perfEv ++ maWord s.perfEv
  | 0x400 => ecmdReadWord free
  | 0x408 => free
  | 0x410 => rspWord s.ecmd.rslt s.ecmd.sc s.ecmd.ip
  | 0x448 => field c.eccap1 64 64 &&& 0x003F000000000000
  | 0xE00 => vcmdWord s.vcmd
  | 0xE08 => s.vcmd.ob
  | 0xE10 => rspWord s.vcmd.rslt s.vcmd.sc s.vcmd.ip
  | 0xE30 => vccapWord c
  | _ => 0

/-- The quadword of the register region at an offset that is a multiple of 8 (10 R112). -/
def regWindow (s : State) (off : Nat) (free : BitVec 64) : BitVec 64 :=
  if fixedAt s off then fixedWindow s off free else locatedWindow s off free

/-- An access of a width and alignment the source defines (10 R113). -/
def accessOk (off width : Nat) : Bool := (width == 4 && off % 4 == 0) || (width == 8 && off % 8 == 0)

/-- A range of addresses that lies in the register region (10 R111). -/
def Platform.inRegs (p : Platform) (a n : Nat) : Bool := decide (p.regBase ≤ a) && decide (a + n ≤ p.regBase + p.regBytes)

/-- The value a read of an aligned doubleword or quadword returns; outside the register region nothing is there
(10 R112). -/
def regValue (s : State) (off width : Nat) : BitVec 64 :=
  if s.plat.regBytes ≤ off then 0
  else
    let w := regWindow s (off / 8 * 8) (Config.freeRead s.freeCtr)
    if width == 8 then w else if off % 8 == 0 then (loWord w).setWidth 64 else (hiWord w).setWidth 64

/-- A register read changes no state (41 R999); the value goes to the trace. -/
def State.softRead (s : State) (off width : Nat) : Result :=
  if accessOk off width then .next (s.emit (.regRead off width (regValue s off width))).fresh
  else .refused .badAccessWidth

/-! ## Writing (41 R998) -/

/-- A doubleword write to one of the four registers of an event: 0 control, 4 data, 8 address, 12 upper address. -/
def State.writeEvent (s : State) (e : EventName) (k : Nat) (v : BitVec 32) : State :=
  match k with
  | 0 => s.writeIm e (bitAt v 31)
  | 4 => s.setEvRegs e { s.evRegs e with imd := field v 0 16 }
  | 8 => s.setEvRegs e { s.evRegs e with ma := field v 2 30 }
  | _ => if upperOk s then s.setEvRegs e { s.evRegs e with mua := v } else s

/-- FSTS_REG: write 1 to clear (11 R250). -/
def State.writeFsts (s : State) (v : BitVec 32) : State :=
  ({ s with fsts := { s.fsts with
      ite := s.fsts.ite && !bitAt v 6
      ice := s.fsts.ice && !bitAt v 5
      iqe := s.fsts.iqe && !bitAt v 4
      pfo := s.fsts.pfo && !bitAt v 0 } } : State).statusCleared .fault

/-- FRCD_REG[n].F: write 1 to clear (11 R262). -/
def State.writeFrcd (s : State) (n : Nat) (v : BitVec 32) : State :=
  if bitAt v 31 then
    ({ s with frcd := s.frcd.modify n (fun r => { r with f := false }) } : State).statusCleared .fault
  else s

/-- ICS_REG.IWC: write 1 to clear (11 R283). -/
def State.writeIcs (s : State) (v : BitVec 32) : State :=
  if bitAt v 0 then ({ s with iwc := false } : State).statusCleared .inv else s

/-- PRS_REG: write 1 to clear (11 R303). -/
def State.writePrs (s : State) (v : BitVec 32) : State :=
  ({ s with prq := { s.prq with ppr := s.prq.ppr && !bitAt v 0, pro := s.prq.pro && !bitAt v 1 } } : State).statusCleared
    .page

/-- PERFINTRSTS_REG.PIS: write 1 to clear (12 R435). -/
def State.writePis (s : State) (v : BitVec 32) : State :=
  if bitAt v 0 then ({ s with perf := { s.perf with pis := false } } : State).statusCleared .perf else s

/-- The overflow bits of counters from `first` on: write 1 to clear (12 R441). -/
def State.writeOverflow (s : State) (first : Nat) (v : BitVec 32) : State :=
  (List.range 32).foldl (fun (t : State) i =>
    if bitAt v i then t.mapCounter (first + i) (fun p => { p with overflow := false }) else t) s

/-- A fixed-range MTRR, doubleword `k` of the array (12 R402). -/
def State.writeFixed (s : State) (k : Nat) (v : BitVec 32) : State :=
  { s with mtrr := { s.mtrr with
      fixed := s.mtrr.fixed.modify (k / 2) (fun x => if k % 2 == 0 then setLo x v else setHi x v) } }

/-- The page-number bits below HAW (12 R404). -/
def belowHaw (s : State) (p : BitVec 52) : BitVec 52 := BitVec.ofNat 52 (p.toNat % 2 ^ (s.plat.haw - 12))

/-- A variable-range MTRR, doubleword `k` of its pair (12 R404, R405). -/
def writeMtrrVar (s : State) (k : Nat) (v : BitVec 32) (x : MtrrVar) : MtrrVar :=
  match k with
  | 0 => { x with base := belowHaw s (setPageLo x.base v), type := field v 0 8 }
  | 1 => { x with base := belowHaw s (setPageHi x.base v) }
  | 2 => { x with mask := belowHaw s (setPageLo x.mask v), valid := bitAt v 11 }
  | _ => { x with mask := belowHaw s (setPageHi x.mask v) }

/-- A counter's configuration and filter registers, by the doubleword's place in the block (12 R443 to R448): read-only
while the counter is enabled (R429), reserved where the filter is not supported. The three AT bits are writable on every unit
with that filter: one that lacks a type of request may treat its bit as Reserved(0) (R447), and this one does not (DESIGN CHOICE,
log 27). -/
def writePerfCounter (c : Caps) (rel : Nat) (v : BitVec 32) (p : PerfCounter) : PerfCounter :=
  if p.en then p
  else
    match rel with
    | 0x00 => { p with egi := field v 8 4, gfo := bitAt v 2, io := bitAt v 1 }
    | 0x04 => { p with es := field v 0 28 }
    | 0x08 => if c.ridfs then { p with ridEn := bitAt v 31, rid := field v 0 16 } else p
    | 0x0C => if c.didfs then { p with didEn := bitAt v 31, did := field v 0 16 } else p
    | 0x10 =>
      if c.pasidfs then { p with pasidEn := bitAt v 31, pfm := field v 20 2, pasid := field v 0 20 } else p
    | 0x14 => if c.atfs then { p with atEn := bitAt v 31, atBits := field v 0 3 } else p
    | 0x18 => if c.ptlfs then { p with ptlEn := bitAt v 31, ptl := field v 0 5 } else p
    | _ => p

/-- PERFCNTR_REG (12 R451): bits above the width are reserved; read-only while the counter is enabled unless CWE=1
(R429). -/
def writeCounterValue (c : Caps) (k : Nat) (high : Bool) (v : BitVec 32) (p : PerfCounter) : PerfCounter :=
  if p.en && !c.cwe then p
  else
    let x := if high then setHi p.value v else setLo p.value v
    { p with value := BitVec.ofNat 64 (x.toNat % 2 ^ c.counterWidth k) }

/-- A doubleword write to the perfmon registers at reported offsets (10 R112). -/
def State.writePerf (s : State) (off : Nat) (v : BitVec 32) : State :=
  let c := s.caps
  match slotAt c.ofo.toNat 4 (2 * perfWords c) off with
  | some k => s.writeOverflow (32 * k) v
  | none =>
    match slotAt c.cnto.toNat (2 ^ (c.cs + 10)) c.ncntr (off / 8 * 8) with
    | some k => s.mapCounter k (writeCounterValue c k (off % 8 == 4) v)
    | none =>
      let base := c.cfgo.toNat
      if base ≤ off && (off - base) / 0x100 < c.ncntr then
        s.mapCounter ((off - base) / 0x100) (writePerfCounter c ((off - base) % 0x100) v)
      else s

/-- IVA_REG (11 R241). -/
def State.writeIva (s : State) (high : Bool) (v : BitVec 32) : State :=
  if high then { s with iva := { s.iva with addr := setPageHi s.iva.addr v } }
  else { s with iva := { addr := setPageLo s.iva.addr v, ih := bitAt v 6, am := field v 0 6 } }

/-- The high doubleword of IOTLB_REG with IVT=0: only stores (11 R240). -/
def State.writeIotlbHigh (s : State) (v : BitVec 32) : State :=
  { s with iotlbReg := { s.iotlbReg with
      iirg := field v 28 2, dr := bitAt v 17, dw := bitAt v 16, did := field v 0 16 } }

/-- A doubleword write to the MTRR arrays (12 R402 to R405), if it is one. -/
def State.writeMtrrs (s : State) (off : Nat) (v : BitVec 32) : Option State :=
  if !s.caps.mts then none
  else
    match slotAt 0x120 4 22 off with
    | some k => some (s.writeFixed k v)
    | none =>
      (slotAt 0x180 4 (4 * (mtrrPairs s).length) off).map (fun k =>
        { s with mtrr := { s.mtrr with var := s.mtrr.var.modify (k / 4) (writeMtrrVar s (k % 4) v) } })

/-- A doubleword write to the registers at reported offsets and in arrays (10 R112); reserved offsets ignore it. -/
def State.writeLocated (s : State) (off : Nat) (v : BitVec 32) : State :=
  let c := s.caps
  if off == 16 * c.iro then s.writeIva false v
  else if off == 16 * c.iro + 4 then s.writeIva true v
  else if off == 16 * c.iro + 12 then s.writeIotlbHigh v
  else
    match slotAt (16 * c.fro) 4 (4 * s.frcd.length) off with
    | some k => if k % 4 == 3 then s.writeFrcd (k / 4) v else s
    | none =>
      match s.writeMtrrs off v with
      | some t => t
      | none => if c.pms then s.writePerf off v else s

/-- The change made only on a unit that has the function (10 R116). -/
def State.onlyIf (s : State) (b : Bool) (t : State) : State := if b then t else s

/-- A doubleword write to a register at a fixed offset that is no command (41 R998). -/
def State.writeFixedOffset (s : State) (off : Nat) (v : BitVec 32) : State :=
  let c := s.caps
  match off with
  | 0x20 => { s with rtaddr := { rta := setPageLo s.rtaddr.rta v, ttm := field v 10 2 } }
  | 0x24 => { s with rtaddr := { s.rtaddr with rta := setPageHi s.rtaddr.rta v } }
  | 0x28 => { s with ccmd := { s.ccmd with did := field v 0 16, sid := field v 16 16 } }
  | 0x2C => { s with ccmd := { s.ccmd with cirg := field v 29 2, fm := field v 0 2 } }
  | 0x34 => s.writeFsts v
  | 0x38 => s.writeEvent .fault 0 v
  | 0x3C => s.writeEvent .fault 4 v
  | 0x40 => s.writeEvent .fault 8 v
  | 0x44 => s.writeEvent .fault 12 v
  | 0x68 => s.onlyIf c.plmr { s with pmr := { s.pmr with plmBase := clearLow v (s.plat.plmrN + 1) } }
  | 0x6C => s.onlyIf c.plmr { s with pmr := { s.pmr with plmLimit := clearLow v (s.plat.plmrN + 1) } }
  | 0x70 => s.onlyIf c.phmr
      { s with pmr := { s.pmr with phmBase := clearLow (setLo s.pmr.phmBase v) (s.plat.phmrN + 1) } }
  | 0x74 => s.onlyIf c.phmr
      { s with pmr := { s.pmr with phmBase := clearLow (setHi s.pmr.phmBase v) (s.plat.phmrN + 1) } }
  | 0x78 => s.onlyIf c.phmr
      { s with pmr := { s.pmr with phmLimit := clearLow (setLo s.pmr.phmLimit v) (s.plat.phmrN + 1) } }
  | 0x7C => s.onlyIf c.phmr
      { s with pmr := { s.pmr with phmLimit := clearLow (setHi s.pmr.phmLimit v) (s.plat.phmrN + 1) } }
  | 0x88 => { s with iq := { s.iq with qt := field v 4 15 } }
  | 0x90 =>
      { s with iq := { s.iq with iqa := setPageLo s.iq.iqa v, dw := bitAt v 11, qs := field v 0 3 } }
  | 0x94 => { s with iq := { s.iq with iqa := setPageHi s.iq.iqa v } }
  | 0x9C => s.writeIcs v
  | 0xA0 => s.writeEvent .inv 0 v
  | 0xA4 => s.writeEvent .inv 4 v
  | 0xA8 => s.writeEvent .inv 8 v
  | 0xAC => s.writeEvent .inv 12 v
  | 0xB8 =>
      { s with irta := { irta := setPageLo s.irta.irta v, eime := bitAt v 11 && c.eim, size := field v 0 4 } }
  | 0xBC => { s with irta := { s.irta with irta := setPageHi s.irta.irta v } }
  | 0xC0 => { s with prq := { s.prq with pqh := field v 5 14 } }
  | 0xC8 => { s with prq := { s.prq with pqt := field v 5 14 } }
  | 0xD0 => { s with prq := { s.prq with pqa := setPageLo s.prq.pqa v, pqs := field v 0 3 } }
  | 0xD4 => { s with prq := { s.prq with pqa := setPageHi s.prq.pqa v } }
  | 0xDC => s.writePrs v
  | 0xE0 => s.writeEvent .page 0 v
  | 0xE4 => s.writeEvent .page 4 v
  | 0xE8 => s.writeEvent .page 8 v
  | 0xEC => s.writeEvent .page 12 v
  | 0x108 => { s with mtrr := { s.mtrr with e := bitAt v 11, fe := bitAt v 10, type := field v 0 8 } }
  | 0x324 => s.writePis v
  | 0x328 => s.writeEvent .perf 0 v
  | 0x32C => s.writeEvent .perf 4 v
  | 0x330 => s.writeEvent .perf 8 v
  | 0x334 => s.writeEvent .perf 12 v
  | 0x404 => s.onlyIf (!s.ecmd.ip) { s with ecmd := { s.ecmd with oa := v ++ field s.ecmd.oa 0 16 } }
  | 0x408 => s.onlyIf (!s.ecmd.ip) { s with ecmd := { s.ecmd with ob := setLo s.ecmd.ob v } }
  | 0x40C => s.onlyIf (!s.ecmd.ip) { s with ecmd := { s.ecmd with ob := setHi s.ecmd.ob v } }
  | 0xE04 => s.onlyIf s.vcmdOpen { s with vcmd := { s.vcmd with oa := v ++ field s.vcmd.oa 0 16 } }
  | 0xE08 => s.onlyIf s.vcmdOpen { s with vcmd := { s.vcmd with ob := setLo s.vcmd.ob v } }
  | 0xE0C => s.onlyIf s.vcmdOpen { s with vcmd := { s.vcmd with ob := setHi s.vcmd.ob v } }
  | _ => s

/-- A doubleword write that is no command (41 R998). -/
def State.writePlain (s : State) (off : Nat) (v : BitVec 32) : State :=
  if fixedAt s (off / 8 * 8) then s.writeFixedOffset off v else s.writeLocated off v

/-- The command word of a doubleword write, if the write is one: GCMD_REG, CCMD_REG with ICC, IOTLB_REG with IVT,
PMEN_REG, ECMD_REG.CMD, VCMD_REG.CMD (30 R870 to R875). -/
def commandWord (s : State) (off : Nat) (v : BitVec 32) : Option Raw :=
  match off with
  | 0x18 => some (.gcmd (gstsWord s.gsts) v)
  | 0x2C => if bitAt v 31 then some (.ccmd (v ++ s.ccmd.sid ++ s.ccmd.did)) else none
  | 0x64 => some (.pmen v)
  | 0x400 => if s.caps.ecmds then some (.ecmd (field s.ecmd.oa 16 32 ++ v)) else none
  | 0xE00 => if s.caps.vcs then some (.vcmd (field s.vcmd.oa 16 32 ++ v)) else none
  | _ => if off == 16 * s.caps.iro + 12 && bitAt v 31 then some (.iotlb (v ++ 0#32)) else none

/-- The writes the source gives no effect (93 U24, U25): GCMD_REG while an enhanced command is in progress; CCMD_REG while
ICC=1; IOTLB_REG and IVA_REG while IVT=1; one invalidation command while the other is pending (70 R1481). -/
def writeRefusal (s : State) (off : Nat) (v : BitVec 32) : Option Refusal :=
  let io := 16 * s.caps.iro
  if off == 0x18 && s.ecmd.ip then some .gcmdWhileEcmd
  else if (off == 0x28 || off == 0x2C) && s.ccmd.icc then some .commandRegisterBusy
  else if io ≤ off && off < io + 16 && s.iotlbReg.ivt then some .commandRegisterBusy
  else if off == 0x2C && bitAt v 31 && s.iotlbReg.ivt then some .commandRegisterBusy
  else if off == io + 12 && bitAt v 31 && s.ccmd.icc then some .commandRegisterBusy
  else none

end Sys2Proof.Machine
end

