-- ==== Sys2Proof/Machine/Agents.lean ====
section
/-! DEFINITION. What the agents around the unit do in one step (10_state.md R100, R101): software's register writes with
the commands they submit, the queue engine's turn, a device's message, a reset (41 R950, R998; 40 R902; 42 R1000;
70 R1451), and the placing of a first instruction for the host. -/

namespace Sys2Proof.Machine

/-- Go on with the next state of an outcome. -/
def andThen (r : Result) (f : State → Result) : Result :=
  match r with
  | .next s => f s
  | .fault e => .fault e
  | .refused e => .refused e

/-- Execute commands one after another, each to completion (93 U3, log 20). -/
def runAll : List Instr → State → Result
  | [], s => .next s
  | i :: rest, s => andThen (exec i s) (runAll rest)

/-! ## Software -/

/-- The commands of a command word. A virtual command 3 to 255 is submitted, to complete with status 1 (41 R994). -/
def runWord (raw : Raw) (s : State) : Result :=
  match decode raw with
  | .ok is => runAll is s
  | .error (.undefinedVirtual cmd oa) => .next (s.undefinedVirtual cmd oa)
  | .error _ => .next s

/-- A doubleword register write (41 R950, R965, R998). -/
def State.softWrite4 (s : State) (off : Nat) (v : BitVec 32) : Result :=
  match writeRefusal s off v with
  | some r => .refused r
  | none =>
    match commandWord s off v with
    | some raw => runWord raw s
    | none => .next (s.writePlain off v)

/-- A register write of `width` bytes. A quadword goes as two doublewords, low first (10 R113); ECMD_REG and VCMD_REG take
the operand in the high doubleword first (12 R460). A quadword over two 32-bit registers, of which the source expects
doubleword accesses, does both halves the same way (DESIGN CHOICE, log 37). -/
def State.softWrite (s : State) (off width : Nat) (v : BitVec 64) : Result :=
  if !accessOk off width then .refused .badAccessWidth
  else if s.plat.regBytes ≤ off then .next s
  else if width == 4 then s.softWrite4 off (loWord v)
  else if (off == 0x400 && s.caps.ecmds) || (off == 0xE00 && s.caps.vcs) then
    andThen (s.softWrite4 (off + 4) (hiWord v)) (fun t => t.softWrite4 off (loWord v))
  else andThen (s.softWrite4 off (loWord v)) (fun t => t.softWrite4 (off + 4) (hiWord v))

/-- A software store to a host physical address: a register of the unit (10 R111, 47 R1280), or memory (20 R500, R535). -/
def State.memStore (s : State) (a : Nat) (bs : List Byte) : Result :=
  if s.plat.inRegs a bs.length then s.softWrite (a - s.plat.regBase) bs.length (BitVec.ofNat 64 (ofBytes bs))
  else if rangeIsMemory s.plat a bs.length then .next (s.softStore a bs) else .fault .storeOutsideAddressSpace

/-- A software load at a host physical address: of a register of the unit (10 R111), or of memory or a device, which changes
nothing here; the answer of a device passes upstream as the event `readCompletion` (44 R1137). -/
def State.memLoad (s : State) (a width : Nat) : Result :=
  if s.plat.inRegs a width then s.softRead (a - s.plat.regBase) width else .next s

/-! ## The queue engine -/

/-- The memory read of a fetch, when the turn makes one: counted (46 R1242), and always snooped (20 R525). It has no
requester: Requester ID 0000h, no Domain ID, Address Type 3 (DESIGN CHOICE, log 27). -/
def State.noteFetch (s : State) : State :=
  if s.canFetch && (queueRegError s).isNone then
    (s.access .read s.headAddr s.dscBytes true).count ⟨1, 0, 0, none, none, 3, none, 1⟩
  else s

/-- One turn: pending descriptors go as far as they can, then one fetch (40 R902). -/
def State.iqTurn (s : State) : Result :=
  let s := s.advance
  let f := s.iqFetch
  let s := s.noteFetch
  match f with
  | .idle => .next s
  | .error c => .next (s.raiseIqe c)
  | .command i => exec i s

/-! ## Devices -/

/-- The part of a read or write request from byte `k` of its data on, `n` bytes long (20 R542). -/
def pieceOf (r : MemReq) (k n : Nat) : MemReq :=
  { r with addr := r.addr + BitVec.ofNat 64 k, len := n, data := (r.data.drop k).take n }

/-- The pieces of a request, one per 4-KByte page touched, from byte `k` on (20 R542). -/
def piecesOf (r : MemReq) : Nat → Nat → List MemReq
  | 0, _ => []
  | fuel + 1, k =>
    if r.len ≤ k then []
    else
      let n := min (r.len - k) (4096 - (r.addr.toNat + k) % 4096)
      pieceOf r k n :: piecesOf r fuel (k + n)

/-- A read or write that crosses a page reaches the unit only on a platform that does not block it (20 R542, log 12). -/
def takesCrossing (s : State) (r : MemReq) : Bool :=
  s.plat.splitPages && (r.access == .read || r.access == .write) && r.crosses && r.fits

/-- A request that crosses a page is re-mapped "as if multiple independent DMA requests" (20 R542). -/
def splitRequest (r : MemReq) : List MemReq := piecesOf r (r.len / 4096 + 2) 0

/-- With DMA remapping off there is nothing to re-map: an untranslated request goes whole, and protected memory is checked
over its whole range (42 R1010), unless it meets the interrupt range (log 12). -/
def goesWhole (s : State) (atf : BitVec 2) (r : MemReq) : Bool :=
  !s.gsts.tes && atf == 0 && !overlap r.addr.toNat r.len 0xFEE00000 0x100000

/-- A piece as an independent request; one whose data does not fit its length is turned away. -/
def runPiece (atf : BitVec 2) (s : State) (r : MemReq) : Result :=
  match decodeMem atf r with
  | .ok i => exec i s
  | .error _ => .next (s.turnAway r)

/-- The pieces one after another. -/
def runPieces (atf : BitVec 2) : List MemReq → State → Result
  | [], s => .next s
  | r :: rest, s => andThen (runPiece atf s r) (runPieces atf rest)

/-- A translation request longer than the Read Completion Boundary allows (22 R708). -/
def tooLong (s : State) (atf : BitVec 2) (r : MemReq) : Bool :=
  atf == 1 && r.access != .write && r.access != .atomic && s.plat.rcb / 4 < r.len

/-- A memory request reaches the unit (42 R1000): protocol errors first (22 R708); those of a request of one of the
three kinds are counted by IOMMU_REQUESTS like any other (46 R1242). -/
def State.inboundMem (s : State) (atf : BitVec 2) (r : MemReq) : Result :=
  let counted := s.countRequest r.sid (reqPasid r) atf.toNat
  if tooLong s atf r then .next (counted.respond r.sid .malformed)
  else
    match decodeMem atf r with
    | .ok i => exec i s
    | .error .malformedTranslation => .next (counted.respond r.sid .malformed)
    | .error .badShape =>
      if !takesCrossing s r then .next (s.turnAway r)
      else if goesWhole s atf r then exec (.untranslatedRequest r) s
      else runPieces atf (splitRequest r) s
    | .error .reservedAt => .next (s.turnAway r)
    | .error _ => .next (counted.turnAway r)

/-- A message of a device (42 R1000); an upstream Invalidation Request is a malformed packet (22 R708, 43 R1080). Devices
reach neither the queue nor the registers (10 R100). -/
def State.inbound (s : State) (raw : Raw) : Result :=
  match raw with
  | .mem atf r => s.inboundMem atf r
  | .page m => runWord (.page m) s
  | .completion sid vec cc => runWord (.completion sid vec cc) s
  | .invalidation sid => .next (s.respond sid .malformed)
  | .iqDsc .. | .prqDsc .. | .gcmd .. | .ccmd .. | .iotlb .. | .pmen .. | .ecmd .. | .vcmd .. => .next s

/-! ## Reset (70 R1451, R1452) -/

/-- A reset of the unit: every field at its default and the hidden state empty; constants, memory and the model's own
trace, inputs and free-value counter stay. One that is not a Power Good Reset keeps the RW1CS and ROS fields. -/
def State.resetUnit (s : State) (powerGood : Bool) : State :=
  { State.reset with
    caps := s.caps
    plat := s.plat
    mem := s.mem
    fsts := if powerGood then State.reset.fsts else s.fsts
    frcd := if powerGood then List.replicate s.frcd.length Frcd.reset else s.frcd
    iwc := !powerGood && s.iwc
    iqercd := if powerGood then State.reset.iqercd else s.iqercd
    prq := { State.reset.prq with pro := !powerGood && s.prq.pro, ppr := !powerGood && s.prq.ppr }
    mtrr := { State.reset.mtrr with var := List.replicate s.mtrr.var.length MtrrVar.reset }
    perf := { pis := false, counters := List.replicate s.perf.counters.length PerfCounter.reset }
    vcmd := { State.reset.vcmd with free := s.vcmd.allocated ++ s.vcmd.free }
    out := s.out
    bus := s.bus
    inputs := s.inputs
    choice := s.choice
    freeCtr := s.freeCtr }

/-- Release what transient conditions held (60 R1402). Their end releases all four held and unmasked messages together, in this
order, of which the spec says nothing (DESIGN CHOICE, log 6). -/
def State.releaseAll (s : State) : State :=
  (((s.releaseEvent .fault).releaseEvent .inv).releaseEvent .page).releaseEvent .perf

/-- One event of the environment (10 R101). -/
def State.process (s : State) : Event → Result
  | .softWrite off width v => s.softWrite off width v
  | .softRead off width => s.softRead off width
  | .softLocked _ => .refused .lockedAccess
  | .memStore a bs => s.memStore a bs
  | .memLoad a n => s.memLoad a n
  | .iqTurn => s.iqTurn
  | .device raw => s.inbound raw
  | .prqWrite w => runWord (.prqDsc w) s
  | .devTlbTimeout k => .next (s.devTlbTimeout k)
  | .complete => s.completeOldest
  | .commit n => .next (s.commitNth n)
  | .accept n => .next (s.acceptNth n)
  | .evict c n => .next (s.evict c n)
  | .drainStore => .next s.drainStore
  | .readCompletion sid => .next (s.readCompletion sid)
  | .release => .next s.releaseAll
  | .perfPulse g e n => .next (s.perfPulse g e n)
  | .reset p => .next (s.resetUnit p)

/-! ## Placing an instruction for the host (log 7) -/

/-- The next event of the environment. -/
def State.withInput (s : State) (e : Event) : State := { s with inputs := { ev := e, ch := Choice.plain } :: s.inputs }

/-- A 256-bit descriptor at the head of a queue that a turn of the engine fetches from. -/
def State.withDescriptor (s : State) (w : BitVec 256) : State :=
  let s : State := { s with
    iq := { s.iq with qh := 0, qt := 2, dw := true }
    gsts := { s.gsts with qies := true }
    fsts := { s.fsts with iqe := false, ite := false }
    latchedRt := { s.latchedRt with ttm := if 6 ≤ (dscType w).toNat then 1 else s.latchedRt.ttm }
    iqPend := s.iqPend.filter (fun p => !p.isFence) }
  (s.memWrite s.headAddr 32 w.toNat).withInput .iqTurn

/-- A GCMD_REG write whose level bits differ from GSTS_REG just where the word means them to. -/
def State.withGcmd (s : State) (g v : BitVec 32) : State :=
  ({ s with
      gsts := { s.gsts with tes := bitAt g 31, qies := bitAt g 26, ires := bitAt g 25, cfis := bitAt g 23 }
      ecmd := { s.ecmd with ip := false } } : State).withInput (.softWrite 0x18 4 (v.setWidth 64))

/-- The instruction of a raw word placed where the next step finds it. -/
def State.withRaw (s : State) : Raw → State
  | .iqDsc _ w => s.withDescriptor w
  | .prqDsc w => s.withInput (.prqWrite w)
  | .gcmd g v => s.withGcmd g v
  | .ccmd v => ({ s with ccmd := { s.ccmd with icc := false } } : State).withInput (.softWrite 0x28 8 v)
  | .iotlb v =>
    ({ s with iotlbReg := { s.iotlbReg with ivt := false } } : State).withInput (.softWrite (16 * s.caps.iro + 8) 8 v)
  | .pmen v => s.withInput (.softWrite 0x64 4 (v.setWidth 64))
  | .ecmd v => ({ s with ecmd := { s.ecmd with ip := false } } : State).withInput (.softWrite 0x400 8 v)
  | .vcmd v => ({ s with vcmd := { s.vcmd with ip := false } } : State).withInput (.softWrite 0xE00 8 v)
  | .mem atf r => s.withInput (.device (.mem atf r))
  | .page m => s.withInput (.device (.page m))
  | .completion sid vec cc => s.withInput (.device (.completion sid vec cc))
  | .invalidation sid => s.withInput (.device (.invalidation sid))

end Sys2Proof.Machine
end

