-- ==== Sys2Proof/Machine/Step.lean ====
section
/-! DEFINITION. One step of the machine (10_state.md R101): the next event of the environment, or, when none is given, a
turn of the queue engine. -/

namespace Sys2Proof.Machine

/-- One step (10_state.md R101). -/
def step (s : State) : Host.Outcome State Fault Refusal :=
  match s.inputs with
  | [] => ({ s with choice := Choice.plain } : State).iqTurn
  | i :: rest => ({ s with inputs := rest, choice := i.ch } : State).process i.ev

/-- The instruction of a table word placed so that the next step runs it (log 7). -/
def State.withFetchWord (s : State) (nbits w : Nat) : State := s.withRaw (rawOfTableWord nbits w)

end Sys2Proof.Machine
end

