-- ==== Sys2Proof/Safety.lean ====
section
/-! DEFINITION. What counts as a safe state and a safe step, in the terms the statements use: the invariants every step
keeps, the bytes of memory a step may change, and the structures in host memory that a translation meets. -/

namespace Sys2Proof.Machine

/-! ## Invariants -/

/-- Host memory keeps its canonical form (log 2). -/
def State.memoryForm (s : State) : Prop := Memory.wf s.mem = true

/-- There are CAP_REG.NFR + 1 fault recording registers, the Fault Recording Index names one of them (10_state.md R121;
60_exceptions.md R1370), and there are PERFCAP_REG.NCNTR counters, none without performance monitoring (46_perfmon.md R1230,
R1232). -/
def State.recordForm (s : State) : Prop :=
  s.frcd.length = s.caps.nfr + 1 ∧ s.faultIdx < s.frcd.length ∧ s.perf.counters.length = s.caps.ncntr

/-- No ITag is allocated twice, every ITag is one the unit has, and an ITag is allocated exactly while a Device-TLB
invalidation sent under it is pending (40_queued_invalidation.md R935). -/
def State.tagForm (s : State) : Prop :=
  (s.itags.map ITag.tag).Nodup ∧ (∀ x ∈ s.itags, x.tag < min s.plat.numItag 32) ∧
  ∀ k, Pending.sent k ∈ s.iqPend ↔ ∃ x ∈ s.itags, x.tag = k

/-- The bits that read as 0 are 0: IQERCD_REG where it is not supported (11 R288), ICE without Device-TLBs (11 R250), EIME without
extended interrupt mode (11 R290), the low bits of the protected ranges (11 R271 to R274), counter bits above the counter's width
(12 R451). -/
def State.reservedForm (s : State) : Prop :=
  (s.plat.iqercd = false → s.iqercd = { icesid := 0, itesid := 0, iqei := 0 }) ∧ (s.caps.dt = false → s.fsts.ice = false) ∧
  (s.irta.eime = true → s.caps.eim = true) ∧ (s.latchedIr.eime = true → s.caps.eim = true) ∧
  (∀ p ∈ s.pendCmds, p.irt.eime = true → s.caps.eim = true) ∧
  clearLow s.pmr.plmBase (s.plat.plmrN + 1) = s.pmr.plmBase ∧
  clearLow s.pmr.plmLimit (s.plat.plmrN + 1) = s.pmr.plmLimit ∧
  clearLow s.pmr.phmBase (s.plat.phmrN + 1) = s.pmr.phmBase ∧
  clearLow s.pmr.phmLimit (s.plat.phmrN + 1) = s.pmr.phmLimit ∧
  ∀ k p, s.perf.counters[k]? = some p → p.value.toNat < 2 ^ s.caps.counterWidth k

/-- No PASID of the virtual command interface is handed out twice, or free while it is handed out
(41_register_commands.md R995, R996). -/
def State.pasidForm (s : State) : Prop := (s.vcmd.free ++ s.vcmd.allocated).Nodup

/-- The invariant of the machine. -/
def State.Inv (s : State) : Prop :=
  s.memoryForm ∧ s.recordForm ∧ s.tagForm ∧ s.reservedForm ∧ s.pasidForm

/-! ## The bytes of memory a step may change -/

/-- The piece of a buffered store writes the byte. -/
def StorePiece.names (p : StorePiece) (a : Nat) : Prop := p.addr ≤ a ∧ a < p.addr + p.data.length

/-- A software store that waits in the write buffer names the byte (20_memory.md R535). -/
def State.buffered (s : State) (a : Nat) : Prop := ∃ p ∈ s.wbuf, p.names a

/-- The youngest software store in the write buffer that names the byte stores this value there. -/
def State.lands (s : State) (a : Nat) (b : Byte) : Prop :=
  ∃ (l r : List StorePiece) (p : StorePiece), s.wbuf = l ++ p :: r ∧ p.addr ≤ a ∧ p.data[a - p.addr]? = some b ∧
    ∀ q ∈ r, ¬ q.names a

/-- Every byte reads after as it read before. -/
def sameMemory (s t : State) : Prop := ∀ a, readByte t.mem a = readByte s.mem a

/-- The byte reads after as it does once the buffered software stores are in memory, oldest first (20_memory.md R535; the order:
log 16): as before where none names it, else what the youngest that does stores there. -/
def keepsByte (s t : State) (a : Nat) : Prop :=
  (¬ s.buffered a → readByte t.mem a = readByte s.mem a) ∧
  (s.memoryForm → ∀ b, s.lands a b → readByte t.mem a = b)

/-- Every byte outside [lo, lo+n) reads after as it does once the buffered software stores are in memory. -/
def sameOutside (s t : State) (lo n : Nat) : Prop := ∀ a, ¬ (lo ≤ a ∧ a < lo + n) → keepsByte s t a

/-- The write buffer goes to memory as the pre-condition of an invalidation, on a unit that has one (41 R962). -/
def flushed (s t : State) : Prop :=
  if s.caps.rwbf = true then t.wbuf = [] ∧ (∀ a, keepsByte s t a) ∧ (s.memoryForm → t.memoryForm)
  else t.wbuf = s.wbuf ∧ t.mem = s.mem

/-! ## Events -/

/-- Sending the message of the event stores nothing in host memory: it is masked, or its address is an interrupt address
FEEx_xxxxh, or is not memory (44 R1150, 60_exceptions.md R1400). -/
def State.quiet (s : State) (e : EventName) : Prop :=
  (s.evRegs e).im = true ∨ (s.evRegs e).isInterrupt = true ∨ s.writable (s.evRegs e).msgAddr.toNat 4 = false

/-- The registers of an event and the trace after `Raise(E, was_pending)` (60 R1402). -/
def raised (s t : State) (e : EventName) (was : Bool) : Prop :=
  if was = true then t.evRegs e = s.evRegs e ∧ t.out = s.out
  else if (s.evRegs e).im = true ∨ s.choice.hold = true then
    t.evRegs e = { s.evRegs e with ip := true } ∧ t.out = s.out
  else t.evRegs e = { s.evRegs e with ip := false } ∧
    t.out = .interrupt ((s.evRegs e).message e) :: s.out

/-- A message of the performance monitoring event. -/
def perfMessage (o : Out) : Prop := ∃ a u d, o = .interrupt (.event .perf a u d)

/-- What software has set up in a performance counter: all but its value and its freeze and overflow bits. -/
def PerfCounter.setup (p : PerfCounter) : PerfCounter := { p with frozen := false, overflow := false, value := 0 }

/-- The offset of the control register of an event (10 R112). -/
def EventName.controlOffset : EventName → Nat
  | .fault => 0x38
  | .inv => 0xA0
  | .page => 0xE0
  | .perf => 0x328

/-- A valid variable-range MTRR pair matches an address (12 R404, R405). -/
def MtrrVar.covers (m : MtrrVar) (pa : Addr) : Prop :=
  m.valid = true ∧ pageAddr m.mask &&& pa = pageAddr m.mask &&& pageAddr m.base

/-- Only what counting moves has moved (46_perfmon.md R1255): the counters' values, freeze and overflow bits, PIS, IP of the
performance monitoring event, and the trace by messages of that event. -/
def onlyCounted (s v : State) : Prop :=
  v = { s with perf := v.perf, perfEv := { s.perfEv with ip := v.perfEv.ip }, out := v.out } ∧
  v.perf.counters.map PerfCounter.setup = s.perf.counters.map PerfCounter.setup ∧
  ∃ l, v.out = l ++ s.out ∧ ∀ o ∈ l, perfMessage o

/-! ## Fault records -/

/-- The fault record at the fault recording index is free for a fault of `sid` (60 R1370). -/
def State.recordFree (s : State) (sid : SourceId) : Prop :=
  s.fsts.pfo = false ∧ (∃ old, s.frcd[s.faultIdx]? = some old ∧ old.f = false) ∧
  (s.plat.faultCompression = true → ∀ x ∈ s.frcd, x.f = true → x.sid ≠ sid)

/-- A fault record is written at the fault recording index; FRI and the fault event follow if no fault was pending
(60 R1370). -/
def recorded (s t : State) (x : Frcd) : Prop :=
  t.frcd = s.frcd.set s.faultIdx x ∧ t.faultIdx = (s.faultIdx + 1) % s.frcd.length ∧
  if s.ppf = true then t.fsts = s.fsts ∧ t.faultEv = s.faultEv ∧ t.out = s.out
  else t.fsts = { s.fsts with fri := BitVec.ofNat 8 s.faultIdx } ∧ raised s t .fault s.faultStatusAny

/-- The fields a fault report moves: the records, their index, FSTS_REG, the fault event and the trace. -/
def onlyReported (s t : State) : Prop :=
  t = { s with frcd := t.frcd, faultIdx := t.faultIdx, fsts := t.fsts, faultEv := t.faultEv, out := t.out }

/-! ## Reads of the unit's own -/

/-- A read of the unit's own: `n` bytes at `a`, of type WB (22 R776). -/
def busRead (a n : Nat) (snoop : Bool) : UnitAccess := { kind := .read, addr := a, size := n, snoop := snoop, mt := .wb }

/-- No cache is used or filled in this step. -/
def State.uncached (s : State) : Prop := s.choice.use = [] ∧ s.choice.fill = []

/-! ## The invalidation queue -/

/-- The head of the queue in 16-byte units: with 256-bit descriptors bit 4 of IQH_REG is reserved and counts as 0 (11 R280). -/
def State.headUnit (s : State) : Nat := if s.iq.dw = true then 2 * (s.iq.qh.toNat / 2) else s.iq.qh.toNat

/-- The queue registers once the head has moved past the descriptor, around the end of the queue: two 16-byte units for 256-bit
descriptors, else one (40 R902). -/
def State.movedHead (s : State) : Iq :=
  { s.iq with qh := BitVec.ofNat 15 ((s.headUnit + (if s.iq.dw then 2 else 1)) % 2 ^ (s.iq.qs.toNat + 8)) }

/-- The fields of a descriptor by its type, as (lowest bit, width); every other bit is reserved (30 R853 to R861, R863). -/
def descriptorFields : Nat → List (Nat × Nat)
  | 1 => [(0, 6), (9, 3), (16, 34)]
  | 2 => [(0, 8), (9, 3), (16, 16), (64, 7), (76, 52)]
  | 3 => [(0, 4), (9, 3), (12, 9), (32, 16), (52, 13), (76, 52)]
  | 4 => [(0, 5), (9, 3), (27, 21)]
  | 5 => [(0, 8), (9, 3), (32, 32), (66, 62)]
  | 6 => [(0, 6), (9, 3), (16, 36), (64, 7), (76, 52)]
  | 7 => [(0, 6), (9, 3), (16, 36)]
  | 8 => [(0, 65), (75, 53)]
  | 9 => [(0, 5), (9, 43), (67, 9)]
  | _ => []

/-- The type of a descriptor: bits 11:9 above bits 3:0 (30 R852). -/
def descriptorType (w : BitVec 256) : Nat := 16 * (field w 9 3).toNat + (field w 0 4).toNat

/-- A bit that the layout of the descriptor's type does not assign is set (30 R863). -/
def reservedBitSet (ty : Nat) (w : BitVec 256) : Prop :=
  ∃ i < 256, bitAt w i = true ∧ ∀ f ∈ descriptorFields ty, ¬ (f.1 ≤ i ∧ i < f.1 + f.2)

/-- A descriptor type that the latched mode or the unit does not know (40 R906). -/
def State.unknownType (s : State) (ty : Nat) : Prop :=
  ty = 0 ∨ 9 < ty ∨ (s.latchedRt.ttm = 0 ∧ 6 ≤ ty) ∨ (s.caps.dt = false ∧ (ty = 3 ∨ ty = 8))

/-- The pending descriptors are Device-TLB invalidations already sent: nothing else waits. -/
def State.onlySent (s : State) : Prop := ∀ p ∈ s.iqPend, p.isSent = true

/-- An invalidation queue error with code `i`: the head stays, IQEI latches the first code, the fault event follows
(40 R915). -/
def queueError (s t : State) (i : BitVec 4) : Prop :=
  t = { s with
        iqercd := s.detail { s.iqercd with iqei := if s.fsts.iqe = true then s.iqercd.iqei else i }
        fsts := { s.fsts with iqe := true }
        faultEv := t.faultEv
        out := t.out } ∧
  raised s t .fault s.faultStatusAny

/-- The next event of the environment is `e`, taken with the freedoms `c`; `u` is the state it meets (10 R101). -/
def State.nextEvent (s : State) (e : Event) (c : Choice) (u : State) : Prop :=
  ∃ rest, s.inputs = { ev := e, ch := c } :: rest ∧ u = { s with inputs := rest, choice := c }

/-! ## Register commands -/

/-- A register command completes in the step that submits it (41 R965). Commands submitted before may still be pending: that it is
taken, and completes ahead of them, is the model's choice (DESIGN CHOICE, log 20). -/
def State.atOnce (s : State) : Prop := s.choice.defer = false

/-- No GCMD_REG or PMEN_REG command is pending, so an enhanced command is not aborted (41 R985, 92 D27). -/
def State.noGcmdPending (s : State) : Prop := s.pendCmds.any PendCmd.abortsEcmd = false

/-- What is submitted stays pending, with the pointer registers as they stand (41 R965). -/
def State.pendedAny (s : State) (c : Submitted) : State :=
  { s with pendCmds := s.pendCmds ++ [{ cmd := c, root := s.rtaddr, irt := s.irta }] }

/-- The command of the opcode table stays pending (41 R965). -/
def State.pended (s : State) (i : Instr) : State := s.pendedAny (.instr i)

/-- The next pending command to complete is `i` (41 R965). -/
def State.completes (s : State) (i : Instr) : Prop := ∃ p rest, s.pendCmds = p :: rest ∧ p.cmd = .instr i

/-- The event is a software write that gives GCMD_REG the doubleword `v`: at its offset, or at its address (10 R111, R113). -/
def writesGcmd (p : Platform) (e : Event) (v : BitVec 32) : Prop :=
  (∃ n x, e = .softWrite 0x18 n x ∧ v = loWord x) ∨
  (∃ bs, e = .memStore (p.regBase + 0x18) bs ∧ v = loWord (BitVec.ofNat 64 (ofBytes bs)))

/-- The enhanced command interface takes a command and completes it in this step (41 R985). Commands of registers other than
GCMD_REG and PMEN_REG may be pending, as `State.atOnce` says. -/
def State.ecmdReady (s : State) : Prop :=
  s.caps.ecmds = true ∧ s.ecmd.ip = false ∧ s.atOnce ∧ s.noGcmdPending

/-- ECMD_REG and ECRSP_REG after an enhanced command completed with status `sc` (41 R985). -/
def State.ecmdAfter (s : State) (cmd : BitVec 8) (oa : BitVec 48) (sc : BitVec 7) : Ecmd :=
  { s.ecmd with oa := oa, cmd := cmd, rslt := 0, sc := sc, ip := false }

/-- VCMD_REG and VCRSP_REG after a virtual command completed (41 R994). -/
def State.vcmdAfter (s : State) (cmd : BitVec 8) (oa : BitVec 48) (sc : BitVec 7) (rslt : BitVec 48) : Vcmd :=
  { s.vcmd with oa := oa, cmd := cmd, rslt := rslt, sc := sc, ip := false }

/-! ## Where a request goes -/

/-- A request reaches its destination: a write stores its data and an AtomicOp its result, a read and an AtomicOp are answered
with what memory held, a zero-length read with free bytes; what is not memory is a device, whose answer is free
(42 R1002 to R1005, R1032), and so is, by the model's choice, a range that is memory only in part (DESIGN CHOICE, log 42). -/
def observed (v t : State) (f : Forwarded) : Prop :=
  match f.req.access, rangeIsMemory v.plat f.hpa.toNat f.req.len with
  | .write, true =>
    t = { v with mem := t.mem, wbuf := [], out := .forward f :: v.out } ∧
    (v.memoryForm → t.memoryForm ∧ readBytes t.mem f.hpa.toNat f.req.data.length = f.req.data) ∧
    sameOutside v t f.hpa.toNat f.req.data.length
  | .write, false => t = { v with out := .forward f :: v.out }
  | .read, true =>
    t = { v with
          out := .respond f.req.sid (.data (readBytes v.flush.mem f.hpa.toNat f.req.len)) :: .forward f :: v.out }
  | .atomic, true =>
    t = { v with
          mem := t.mem, wbuf := []
          out := .respond f.req.sid (.data (toBytes f.req.len (readNat v.flush.mem f.hpa.toNat f.req.len))) ::
                 .forward f :: v.out } ∧
    (v.memoryForm → t.memoryForm ∧ readNat t.mem f.hpa.toNat f.req.len =
      atomicResult f.req.atomic f.req.len (readNat v.flush.mem f.hpa.toNat f.req.len) f.req.data % 256 ^ f.req.len) ∧
    sameOutside v t f.hpa.toNat f.req.len
  | .zlr, _ | .read, false | .atomic, false =>
    ∃ bs : List Byte, bs.length = f.req.len ∧
      t = { v with
            freeCtr := v.freeCtr + f.req.len, out := .respond f.req.sid (.data bs) :: .forward f :: v.out }

/-- Requests reach their destinations one after another, in the order they were forwarded (70 R1485). -/
def observedAll : List Forwarded → State → State → Prop
  | [], v, t => t = v
  | f :: rest, v, t => ∃ w, observed v w f ∧ observedAll rest w t

/-- A drain takes the request: an AtomicOp is both a read and a write (70 R1485). -/
def drains (reads writes : Bool) (f : Forwarded) : Bool :=
  match f.req.access with
  | .read | .zlr => reads
  | .write => writes
  | .atomic => reads || writes

/-- A request of the source that stores: an AtomicOp counts as a write (70 R1485, R1491). -/
def storedBy (sid : SourceId) (f : Forwarded) : Bool :=
  f.req.sid == sid && (f.req.access == .write || f.req.access == .atomic)

/-- No request of the source that stores is in flight. -/
def State.storesNone (s : State) (sid : SourceId) : Prop := ∀ f ∈ s.inFlight, storedBy sid f = false

/-- A posted write of the source. -/
def postedBy (sid : SourceId) (f : Forwarded) : Bool := f.req.sid == sid && f.req.access == .write

/-- A request is forwarded: it reaches its destination in this step, behind the posted writes of its source that are still in
flight (20 R572), or stays in flight itself (42 R1032, 70 R1485). -/
def passedOn (v t : State) (f : Forwarded) : Prop :=
  if v.choice.defer = true then t = { v with inFlight := v.inFlight ++ [f] }
  else observedAll (v.inFlight.filter (postedBy f.req.sid) ++ [f])
    { v with inFlight := v.inFlight.filter (fun g => !postedBy f.req.sid g) } t

/-- An interrupt leaves for the processors: it is accepted in this step behind the earlier ones of its source, or stays in
flight (44 R1137, 70 R1489). -/
def delivered (v t : State) (sid : SourceId) (m : Delivery) : Prop :=
  if v.choice.defer = true then t = { v with intrFlight := v.intrFlight ++ [{ sid := sid, msg := m }] }
  else t = { v with
    intrFlight := v.intrFlight.filter (fun d => d.sid != sid)
    out := .interrupt m ::
      ((v.intrFlight.filter (fun d => d.sid == sid)).map (fun d => Out.interrupt d.msg)).reverse ++ v.out }

/-! ## Interrupt requests and page requests -/

/-- The interrupt-remapping-table entry at an index, below 2^HAW and read without error (44 R1115). -/
def State.irteRead (s : State) (idx : Nat) (e : BitVec 128) : Prop :=
  s.pageBase s.latchedIr.irta + 16 * idx < s.hpaEnd ∧
  s.memRead (s.pageBase s.latchedIr.irta + 16 * idx) 16 = some e.toNat

/-- A remappable interrupt request reaches the entry `e` at `idx`, with interrupt remapping on and no cache used
(44 R1100, R1110). -/
def State.remapsTo (s : State) (addr data : BitVec 32) (idx : Nat) (e : BitVec 128) : Prop :=
  s.gsts.ires = true ∧ bitAt addr 4 = true ∧ (intShv addr = true → field data 16 16 = 0) ∧
  idx = interruptIndex addr data ∧ idx < 2 ^ (s.latchedIr.size.toNat + 1) ∧ s.uncached ∧ s.irteRead idx e

/-- Why an entry refuses a request of `sid`, as the fault reason (44 R1100, R1115, R1120, R1125, R1135; 60 R1365): not present;
reserved bits set, or posting on a unit without it; the requester not verified; the posted-interrupt descriptor not accessible,
or with reserved bits set. -/
def State.irteRefuses (s : State) (sid : SourceId) (e : BitVec 128) (reason : BitVec 8) : Prop :=
  (reason = 0x22 ∧ irteP e = false) ∨
  (reason = 0x24 ∧ irteP e = true ∧ (irteSvt e = 3 ∨ (sourceValid e sid = true ∧
    (if irteIm e then s.caps.pi = false ∨ irtePostedRsvd s.plat.haw e = true
     else irteRemapRsvd s.latchedIr.eime e = true)))) ∨
  (reason = 0x26 ∧ irteP e = true ∧ irteSvt e ≠ 3 ∧ sourceValid e sid = false) ∨
  (irteFault s sid e = none ∧ irteIm e = true ∧
    ((reason = 0x27 ∧ ¬ (s.readable (irtePid e).toNat 64 = true ∧ s.writable (irtePid e).toNat 64 = true)) ∨
     (reason = 0x28 ∧ s.readable (irtePid e).toNat 64 = true ∧ s.writable (irtePid e).toNat 64 = true ∧
      pidRsvd s.latchedIr.eime (BitVec.ofNat 512 (readNat s.flush.mem (irtePid e).toNat 64)) = true)))

/-- The accesses of the unit for an interrupt request under the entry `e` at index `idx`, newest first: the entry is read with
snooping as ECAP_REG.C says, a posted-interrupt descriptor is always snooped (20 R525). -/
def State.irteAccesses (s : State) (idx : Nat) (e : BitVec 128) (posts : Bool) : List UnitAccess :=
  (if posts then [{ kind := .atomic, addr := (irtePid e).toNat, size := 64, snoop := true, mt := .wb }] else []) ++
    [busRead (s.pageBase s.latchedIr.irta + 16 * idx) 16 s.caps.c]

/-- The record of an interrupt fault (60 R1372). -/
def intRecord (sid : SourceId) (reason : BitVec 8) (fi : BitVec 52) : Frcd :=
  { f := true, t1 := false, t2 := false, atf := 0, pv := 0, fr := reason, pp := false, exe := false, priv := false,
    sid := sid, fi := fi }

/-- The write of a page-request descriptor by the unit, always snooped (20 R525, 22 R776). -/
def State.prqAccess (s : State) : UnitAccess :=
  { kind := .write, addr := s.prqAddr, size := 32, snoop := true, mt := .wb }

/-- A page-request descriptor is delivered: its 32 bytes stand at the tail, which moves on, PPR is set and the event follows
(45 R1185); the occurrence is counted last (46 R1242). -/
def prqWritten (v t : State) (d : PageMsg) : Prop :=
  ∃ w, w = { v with
        prq := { v.prq with pqt := BitVec.ofNat 14 ((v.prq.pqt.toNat + 1) % v.prqSize), ppr := true }
        pageEv := w.pageEv, out := w.out, bus := v.prqAccess :: v.bus, mem := w.mem, wbuf := [] } ∧
    readNat w.mem v.prqAddr 32 = (encodePrq d).toNat ∧ sameOutside v w v.prqAddr 32 ∧
    raised v w .page (v.prq.ppr || v.prq.pro) ∧ onlyCounted w t

/-- What the unit sends back for a page request that it drops: a response for the last of a group, nothing for a Stop
Marker (45 R1170, R1190). -/
def droppedResponse (m : PageMsg) (code : BitVec 4) : List Out :=
  if m.lpig = true ∧ isStopMarker m = false then
    [.respond m.rid (.page { rid := m.rid, pp := m.pp, pasid := if m.pp then m.pasid else 0, prgi := m.prgi, rc := code })]
  else []

/-! ## Safe steps -/

/-- The step ends in a next state. -/
def goesOn (r : Result) : Prop := ∃ t, r = .next t

end Sys2Proof.Machine
end

