-- ==== Sys2Proof/Safety/Tables.lean ====
section
/-! DEFINITION. The structures in host memory that a translation meets, as the statements describe them: the root, context,
PASID-directory and PASID-table entries, and the paging-structure entries of a walk. -/

namespace Sys2Proof.Machine

/-! ## Legacy mode -/

/-- The address of the root entry of a source (21 R602). -/
def State.rootAt (s : State) (sid : SourceId) : Addr :=
  entryAddr (BitVec.ofNat 64 (s.pageBase s.latchedRt.rta)) 16 (field sid 8 8).toNat

/-- The legacy root table leads a source to a context entry at `ca`: the root entry is read, present and without reserved bits
(21 R602). -/
def State.legacyRoot (s : State) (sid : SourceId) (ca : Addr) : Prop :=
  ∃ re : Nat, s.memRead (s.rootAt sid).toNat 16 = some re ∧
    bitAt (BitVec.ofNat 128 re) 0 = true ∧ rootRsvd s.plat.haw (BitVec.ofNat 128 re) = false ∧
    ca = entryAddr (addrField (BitVec.ofNat 128 re) 0 12 s.plat.haw) 16 (field sid 0 8).toNat

/-- The `n` bytes at `ca` are read without error as the context entry `ce` (21 R610, R620). -/
def State.contextAt (s : State) (ca : Addr) (n : Nat) (ce : BitVec 256) : Prop :=
  ∃ c : Nat, s.memRead ca.toNat n = some c ∧ ce = BitVec.ofNat 256 c

/-- The root table leads a source to the legacy context entry `ce` at `ca`, which is present and without reserved bits, has a
supported width and a supported translation type (21 R602, R610 to R612). -/
def State.legacyContext (s : State) (sid : SourceId) (ca : Addr) (ce : BitVec 256) : Prop :=
  s.legacyRoot sid ca ∧ s.contextAt ca 16 ce ∧ ceP ce = true ∧ ctxRsvd s.caps s.plat.haw ce = false ∧
    s.caps.awOk (ceAw ce) = true ∧ ttOk s.caps (ceTt ce) = true

/-- Translation is on, in legacy mode (22 R703, R704). -/
def State.legacyOn (s : State) : Prop := s.gsts.tes = true ∧ s.latchedRt.ttm = 0

/-- The read of the root entry, with snooping as ECAP_REG.C says (20 R525). -/
def State.rootRead (s : State) (sid : SourceId) : UnitAccess := busRead (s.rootAt sid).toNat 16 s.caps.c

/-- The reads of the tables of legacy mode, newest first: root and context entry (20 R525). -/
def State.legacyReads (s : State) (sid : SourceId) (ca : Addr) : List UnitAccess :=
  [busRead ca.toNat 16 s.caps.c, s.rootRead sid]

/-! ## Scalable mode -/

/-- Translation is on, in scalable mode, on a unit that has it (22 R703, R704). -/
def State.scalableOn (s : State) : Prop := s.gsts.tes = true ∧ s.latchedRt.ttm = 1 ∧ s.caps.smts = true

/-- The scalable-mode root table leads a source to a context entry at `ca` (21 R605). -/
def State.scalableRoot (s : State) (sid : SourceId) (ca : Addr) : Prop :=
  ∃ re : Nat, s.memRead (s.rootAt sid).toNat 16 = some re ∧
    bitAt (smRootHalf (BitVec.ofNat 128 re) sid) 0 = true ∧
    smRootRsvd s.plat.haw (smRootHalf (BitVec.ofNat 128 re) sid) = false ∧
    ca = entryAddr (addrField (smRootHalf (BitVec.ofNat 128 re) sid) 0 12 s.plat.haw) 32 (field sid 0 7).toNat

/-- The scalable-mode root table leads a source to the context entry `ce` at `ca`, present, without reserved
bits and with supported programming (21 R605, R620; 22 R710). -/
def State.scalableContext (s : State) (sid : SourceId) (ca : Addr) (ce : BitVec 256) : Prop :=
  s.scalableRoot sid ca ∧ s.contextAt ca 32 ce ∧ ceP ce = true ∧ smCtxRsvd s.caps s.plat.haw ce = false ∧ sct41 s ce = false

/-- The PASID directory reaches a PASID, by its entry `d` at `da` (21 R625; 22 R710). -/
def State.pasidDirectory (s : State) (ce : BitVec 256) (pasid : Pasid) (da : Addr) (d : BitVec 64) : Prop :=
  pasid.toNat / 64 < 2 ^ (smPdts ce + 7) ∧
    da = entryAddr (smPasidDir s.plat.haw ce) 8 (pasid.toNat / 64) ∧ s.memRead da.toNat 8 = some d.toNat

/-- The PASID-directory entry `d`, present and without reserved bits, leads a PASID to the PASID-table entry at `pa` (21 R625,
R630). -/
def State.pasidTable (s : State) (d : BitVec 64) (pasid : Pasid) (pa : Addr) : Prop :=
  bitAt d 0 = true ∧ pdeRsvd s.plat.haw d = false ∧ pa = entryAddr (addrField d 0 12 s.plat.haw) 64 (pasid.toNat % 64)

/-- The programming of a PASID-table entry is supported (21 R633; 22 R710, R715). -/
def State.pasidProgrammed (s : State) (pe : BitVec 512) : Prop :=
  pgttOk s.caps (pePgtt pe) = true ∧ (usesSs (pePgtt pe) = true → s.caps.awOk (peAw pe) = true) ∧
    (usesFs (pePgtt pe) = true → fspmOk s.caps (peFspm pe) = true) ∧
    (pePgtt pe = 3 → (peFsptptr s.plat.haw pe).toNat < 2 ^ ssBound s.caps (peAw pe))

/-- The PASID directory, by its entry at `da`, and the PASID table lead a PASID to the entry `pe` at `pa`, present, without
reserved bits and with supported programming (21 R625, R630; 22 R710). -/
def State.scalablePasid (s : State) (ce : BitVec 256) (pasid : Pasid) (da pa : Addr) (pe : BitVec 512) : Prop :=
  ∃ d : BitVec 64, s.pasidDirectory ce pasid da d ∧ s.pasidTable d pasid pa ∧ s.memRead pa.toNat 64 = some pe.toNat ∧
    peP pe = true ∧ peRsvd s.caps s.plat.haw pe = false ∧ s.pasidProgrammed pe

/-- Fault Processing Disable of the PASID-directory entry at `da` (21 R625). -/
def State.directoryFpd (s : State) (da : Addr) : Bool :=
  match s.memRead da.toNat 8 with
  | some d => bitAt (BitVec.ofNat 64 d) 1
  | none => false

/-- A Fault Processing Disable bit is met on the way to and in a PASID-table entry (60 R1331). -/
def State.fpdMet (s : State) (ce : BitVec 256) (da : Addr) (pe : BitVec 512) : Bool :=
  ceFpd ce || s.directoryFpd da || peFpd pe

/-- The privilege of a request (22 R710). -/
def State.requestPriv (s : State) (r : MemReq) (ce : BitVec 256) : Bool :=
  match r.pasid with
  | none => smRidPriv s.caps ce
  | some p => p.pr

/-- The PASID a request is looked up under, its own or RID_PASID, which the unit supports and the context entry allows
(22 R710). -/
def State.requestPasid (s : State) (r : MemReq) (ce : BitVec 256) (pasid : Pasid) : Prop :=
  pasid.toNat < 2 ^ s.caps.pssBits ∧
  match r.pasid with
  | none => pasid = smRidPasid s.caps ce
  | some p => pasid = p.pasid ∧ smPaside ce = true ∧ ¬ (s.caps.rps = true ∧ pasid = smRidPasid s.caps ce)

/-- With translation on in scalable mode the tables lead a request to the PASID-table entry `pe` (22 R710). -/
def State.requestTables (s : State) (r : MemReq) (ca da pa : Addr) (ce : BitVec 256) (pasid : Pasid) (pe : BitVec 512) :
    Prop :=
  s.scalableOn ∧ s.scalableContext r.sid ca ce ∧ s.requestPasid r ce pasid ∧ s.scalablePasid ce pasid da pa pe

/-- The PASID-table entry and the unit allow the privilege and the execute request of a request (22 R710 to R713). -/
def State.entryAllows (s : State) (r : MemReq) (ce : BitVec 256) (pe : BitVec 512) : Prop :=
  (s.requestPriv r ce = true → peSre pe = true) ∧ ∀ p, r.pasid = some p → p.er = true → s.caps.ers = true

/-- With translation on in scalable mode a request reaches the PASID-table entry `pe` by its own PASID, or by RID_PASID, and
its entries allow what it asks for (22 R710 to R713). -/
def State.requestEntry (s : State) (r : MemReq) (ca da pa : Addr) (ce : BitVec 256) (pasid : Pasid) (pe : BitVec 512) :
    Prop :=
  s.requestTables r ca da pa ce pasid pe ∧ s.entryAllows r ce pe

/-- The reads of the root and context entry of scalable mode, newest first (20 R525). -/
def State.contextReads (s : State) (sid : SourceId) (ca : Addr) : List UnitAccess :=
  [busRead ca.toNat 32 s.caps.c, s.rootRead sid]

/-- The reads of the tables of scalable mode, newest first: root, context, PASID-directory and PASID-table entry, with snooping
as ECAP_REG.C says (20 R525). -/
def State.tableReads (s : State) (sid : SourceId) (ca da pa : Addr) : List UnitAccess :=
  busRead pa.toNat 64 s.caps.c :: busRead da.toNat 8 s.caps.c :: s.contextReads sid ca

/-- The PASID a page request is looked up under: its own, where the context entry allows PASIDs and it is not RID_PASID, or
RID_PASID (45_page_requests.md R1175). -/
def State.pagePasid (s : State) (m : PageMsg) (ce : BitVec 256) (pasid : Pasid) : Prop :=
  if m.pp = true then
    pasid = m.pasid ∧ smPaside ce = true ∧ ¬ (s.caps.rps = true ∧ m.pasid = smRidPasid s.caps ce)
  else pasid = smRidPasid s.caps ce ∧ pasid.toNat < 2 ^ s.caps.pssBits

/-- The tables lead a page request to a PASID-table entry: translation on in scalable mode, page requests enabled for the
device, PASID allowed (45_page_requests.md R1175). `ca`, `da`, `pa`: the context, PASID-directory and PASID-table entries. -/
def State.pageLookup (s : State) (m : PageMsg) (ca da pa : Addr) (pasid : Pasid) (pe : BitVec 512) : Prop :=
  s.scalableOn ∧ s.uncached ∧
  ∃ ce, s.scalableContext m.rid ca ce ∧ smPre ce = true ∧ s.pagePasid m ce pasid ∧ s.scalablePasid ce pasid da pa pe

/-! ## Paging structures -/

/-- A paging-structure entry that a walk uses: its host physical address, its value, the flags the walk owes it, and whether
the page it lies in may be written. -/
structure UsedEntry where
  hpa : Addr
  e : BitVec 64
  want : BitVec 64
  w : Bool
deriving DecidableEq, Repr

/-- The walk owes the entry a flag that is not set yet. -/
def UsedEntry.owes (x : UsedEntry) : Prop := x.e &&& x.want ≠ x.want

/-- The reads of the entries of a walk, newest first. -/
def walkReads (l : List UsedEntry) (snoop : Bool) : List UnitAccess := (l.map (fun x => busRead x.hpa.toNat 8 snoop)).reverse

/-- Bit `i` is set in every entry: the logical AND of a permission over a walk (22 R730, R744). -/
def allSet (l : List UsedEntry) (i : Nat) : Bool := l.all (fun x => bitAt x.e i)

/-- The last entry of a walk. -/
def leafOf (l : List UsedEntry) : BitVec 64 := ((l.getLast?).map (·.e)).getD 0

/-- The output address of a page of 2^k bytes that a leaf entry maps, for an input address (22 R721, R740). -/
def State.outputOf (s : State) (e : BitVec 64) (k : Nat) (a : Addr) : Addr := pgAddr s.plat.haw e k + lowBits a k

/-! ## Second stage -/

/-- The entries that second-stage tables lead through for the address `a`, from the level of the table on down to a leaf that
maps 2^k bytes: each is read without error, present and without reserved bits (22 R740 to R744). A walk owes each the Accessed
flag, and the leaf the Dirty flag where `d` (R745). -/
def State.ssUses (s : State) (emte d : Bool) (a : Addr) : List Nat → Addr → List UsedEntry → Nat → Prop
  | sh :: rest, table, x :: more, k =>
    x.hpa = entryAddr table 8 (pgIndex a sh) ∧ s.memRead x.hpa.toNat 8 = some x.e.toNat ∧
    (bitAt x.e 0 = true ∨ bitAt x.e 1 = true) ∧ ssRsvd s.caps s.plat.haw emte x.e sh = false ∧ x.w = true ∧
    x.want = flag 64 true 8 ||| flag 64 (pgLeaf x.e sh && d) 9 ∧
    (if pgLeaf x.e sh = true then more = [] ∧ k = sh else s.ssUses emte d a rest (pgAddr s.plat.haw x.e sh) more k)
  | _, _, _, _ => False

/-- The second-stage rights `r` and `w` grant an access (22 R744): a zero-length read is granted also by `w` on a unit with
ZLR. -/
def ssGrants (c : Caps) (a : Access) (r w : Bool) : Prop :=
  match a with
  | .write => w = true
  | .read => r = true
  | .atomic => r = true ∧ w = true
  | .zlr => r = true ∨ (c.zlr = true ∧ w = true)

/-- The second-stage tables of a legacy context entry, of as many levels as its width says, lead the address `a` through the
entries `l` to a page of 2^k bytes (22 R740 to R744). -/
def State.legacyMapped (s : State) (ce : BitVec 256) (a : Addr) (l : List UsedEntry) (k : Nat) : Prop :=
  a.toNat < 2 ^ ssBound s.caps (ceAw ce) ∧
  s.ssUses false false a (levels (agawLevels (ceAw ce))) (ceSsptptr s.plat.haw ce) l k

/-- The second-stage tables of a PASID-table entry lead the address `a` through the entries `l` to a page of 2^k bytes, the leaf
owed the Dirty flag where `d` (22 R740 to R745). -/
def State.ssMaps (s : State) (pe : BitVec 512) (d : Bool) (a : Addr) (l : List UsedEntry) (k : Nat) : Prop :=
  a.toNat < 2 ^ ssBound s.caps (peAw pe) ∧
  s.ssUses (peEmte pe) d a (levels (agawLevels (peAw pe))) (peSsptptr s.plat.haw pe) l k

/-- The second-stage tables of a PASID-table entry translate the address `a` to `out` for an access that they grant, through the
entries `l`, in a page of 2^k bytes (22 R740 to R745). -/
def State.ssTranslates (s : State) (pe : BitVec 512) (acc : Access) (a out : Addr) (l : List UsedEntry) (k : Nat) : Prop :=
  s.ssMaps pe (accessWrites acc) a l k ∧ ssGrants s.caps acc (allSet l 0) (allSet l 1) ∧ out = s.outputOf (leafOf l) k a

/-! ## First stage and nesting -/

/-- The access a nested walk makes of the second stage for an entry of the first: it reads, and also writes where the second
stage has flags to set (22 R750). -/
def placingAccess (pe : BitVec 512) : Access := if peSsade pe then .atomic else .read

/-- Where a first-stage entry at `a` lies in host memory: there, or, under nesting, where the second stage puts it, whose
entries are `l`; `w`: it may be written there (22 R750). -/
def State.fsPlace (s : State) (pe : BitVec 512) (a h : Addr) (w : Bool) (l : List UsedEntry) : Prop :=
  if pePgtt pe = 3 then (∃ k, s.ssTranslates pe (placingAccess pe) a h l k) ∧ w = allSet l 1
  else h = a ∧ w = true ∧ l = []

/-- The address in a first-stage entry may be walked on: under nesting it lies below the bound of the second stage (22 R750). -/
def State.fsInBound (s : State) (pe : BitVec 512) (e : BitVec 64) (sh : Nat) : Prop :=
  pePgtt pe = 3 → (pgAddr s.plat.haw e sh).toNat < 2 ^ ssBound s.caps (peAw pe)

/-- The entries `fs` that first-stage tables lead through for the address `a`, down to a leaf that maps 2^k bytes: each is read
without error, present and without reserved bits (22 R725, R750); `ss`: the second-stage entries that lead to them under
nesting. A walk owes each the Accessed flag, with EAFE also the Extended Accessed flag, and the leaf the Dirty flag where `d`
(R735). -/
def State.fsUses (s : State) (pe : BitVec 512) (d : Bool) (a : Addr) :
    List Nat → Addr → List UsedEntry → List UsedEntry → Nat → Prop
  | sh :: rest, table, x :: more, ss, k =>
    ∃ ss1 ss2, ss = ss1 ++ ss2 ∧ s.fsPlace pe (entryAddr table 8 (pgIndex a sh)) x.hpa x.w ss1 ∧
    s.memRead x.hpa.toNat 8 = some x.e.toNat ∧ bitAt x.e 0 = true ∧ fsRsvd s.caps s.plat.haw x.e sh = false ∧
    s.fsInBound pe x.e sh ∧
    x.want = flag 64 true 5 ||| flag 64 (peEafe pe) 10 ||| flag 64 (pgLeaf x.e sh && d) 6 ∧
    (if pgLeaf x.e sh = true then more = [] ∧ ss2 = [] ∧ k = sh
     else s.fsUses pe d a rest (pgAddr s.plat.haw x.e sh) more ss2 k)
  | _, _, _, _, _ => False

/-- The levels of a first-stage walk (22 R725). -/
def fsLevelsOf (pe : BitVec 512) : List Nat := levels (if peFspm pe = 0 then 4 else 5)

/-- The first-stage tables of a PASID-table entry lead the address `a` through the entries `fs`, placed by the second-stage
entries `ss`, to a page of 2^k bytes, the leaf owed the Dirty flag where `d` (22 R720 to R735, R750). -/
def State.fsMaps (s : State) (pe : BitVec 512) (d : Bool) (a : Addr) (fs ss : List UsedEntry) (k : Nat) : Prop :=
  canonical (fsWidth pe) a = true ∧ s.fsUses pe d a (fsLevelsOf pe) (peFsptptr s.plat.haw pe) fs ss k

/-- The first stage lets an access of privilege `pr` use the entries: a user access needs U/S everywhere (22 R730). -/
def fsUser (pr : Bool) (fs : List UsedEntry) : Prop := pr = true ∨ allSet fs 2 = true

/-- The first stage grants writes of privilege `pr`: R/W everywhere, unless a supervisor access is not held to it (22 R730). -/
def fsWritable (pe : BitVec 512) (pr : Bool) (fs : List UsedEntry) : Bool := allSet fs 1 || (pr && !peWpe pe)

/-- The first-stage tables of a PASID-table entry translate the address `a` to `out` for an access of privilege `pr` that they
grant (22 R720 to R735): a supervisor access is not held to the U/S bits, nor to the R/W bits unless WPE is set. -/
def State.fsTranslates (s : State) (pe : BitVec 512) (pr : Bool) (acc : Access) (a out : Addr) (fs ss : List UsedEntry)
    (k : Nat) : Prop :=
  s.fsMaps pe (accessWrites acc) a fs ss k ∧ fsUser pr fs ∧ (accessWrites acc = true → fsWritable pe pr fs = true) ∧
    out = s.outputOf (leafOf fs) k a

/-! ## The whole translation -/

/-- A PASID-table entry translates the address `a` to `hpa` (22 R710): by the first stage alone, the second stage alone, both,
or as pass-through. `fs`: the first-stage entries used, the leaf mapping 2^k bytes; `tab`: the second-stage entries that lead to
them; `fin`: those that lead to the page. -/
def State.scalableMapped (s : State) (pe : BitVec 512) (pr : Bool) (acc : Access) (a hpa : Addr)
    (fs tab fin : List UsedEntry) (k : Nat) : Prop :=
  match (pePgtt pe).toNat with
  | 1 => s.fsTranslates pe pr acc a hpa fs tab k ∧ fin = []
  | 2 => (∃ n, s.ssTranslates pe acc a hpa fin n) ∧ fs = [] ∧ tab = []
  | 3 => ∃ gpa n, s.fsTranslates pe pr acc a gpa fs tab k ∧ s.ssTranslates pe acc gpa hpa fin n
  | 4 => hpa = a ∧ a.toNat < s.hpaEnd ∧ fs = [] ∧ tab = [] ∧ fin = []
  | _ => False

/-- The entries whose flags a translation sets: the second-stage ones only with SSADE (22 R735, R745). -/
def owedEntries (pe : BitVec 512) (fs tab fin : List UsedEntry) : List UsedEntry :=
  (if peSsade pe then tab ++ fin else []) ++ fs

/-- Every flag that is not set yet can be set: paging structures are read with snooping, the entry can be written, and its page
may be (22 R735, R745, R750). -/
def State.canSetFlags (s : State) (pe : BitVec 512) (l : List UsedEntry) : Prop :=
  ∀ x ∈ l, x.e &&& x.want = x.want ∨
    (snoopedWalk s.caps pe = true ∧ s.writable x.hpa.toNat 8 = true ∧ x.w = true)

/-- Memory with the flags owed set: every entry is as it was but for the flags owed to it, every other byte is as it was. -/
def flagsSet (v w : State) (l : List UsedEntry) : Prop :=
  (∀ x ∈ l, ∀ j < 64, bitAt (BitVec.ofNat 64 (readNat w.mem x.hpa.toNat 8)) j =
    (bitAt x.e j || l.any (fun y => y.hpa == x.hpa && bitAt y.want j))) ∧
  ∀ a, (∀ x ∈ l, ¬ (x.hpa.toNat ≤ a ∧ a < x.hpa.toNat + 8)) → readByte w.mem a = readByte v.mem a

/-- What the unit does to paging structures: it reads entries, with snooping as PWSNP says, and updates flags, always with
snooping (20 R525; 22 R735, R745). -/
def walkAccess (snoop : Bool) (y : UnitAccess) : Prop :=
  y = busRead y.addr 8 snoop ∨ y = { kind := .atomic, addr := y.addr, size := 8, snoop := true, mt := .wb }

/-- The memory type of the page access of a request in scalable mode (22 R770 to R775): the MTRRs and the PAT for the first
stage, the extended memory type for the second stage. -/
def State.scalableType (s : State) (pe : BitVec 512) (hpa : Addr) (fs fin : List UsedEntry) (k : Nat) : MemType :=
  let pat := memTypeOf (pePat pe (patIndex (leafOf fs) k))
  let emt := memTypeOf (field (leafOf fin) 3 3)
  if peCd pe then .uc
  else
    match (pePgtt pe).toNat with
    | 1 => effType (mtrrType s hpa) pat
    | 2 => if peEmte pe then emt else .wb
    | 3 => if !peEmte pe then effType (mtrrType s hpa) pat else if bitAt (leafOf fin) 6 then emt else effType emt pat
    | _ => .wb

end Sys2Proof.Machine
end

