-- ==== Sys2Proof/Safety/Faults.lean ====
section
/-! DEFINITION. The address-translation faults, as the statements describe them: where the tables and the walks refuse a
request, by fault reason, and what the unit then answers and records (22_translation.md R704 to R762; 42 R1030; 43 R1055;
60_exceptions.md R1331 to R1372). -/

namespace Sys2Proof.Machine

/-! ## Answers and records -/

/-- The record of a fault of a memory request (60 R1370, R1372): the Address Type is 0 on a unit without Device-TLBs, the PASID
fields on one without PASIDs. -/
def requestRecord (c : Caps) (r : MemReq) (a : Access) (atf : BitVec 2) (reason : BitVec 8) : Frcd :=
  { f := true, t1 := (accessType a).1, t2 := (accessType a).2, atf := if c.dt then atf else 0
    pv := if c.pasids then (r.pasid.map (·.pasid)).getD 0 else 0, fr := reason, pp := c.pasids && r.pasid.isSome
    exe := c.pasids && r.pasid.any (·.er), priv := c.pasids && r.pasid.any (·.pr), sid := r.sid, fi := faultInfo c r.addr }

/-- A request is turned away: the unit makes the reads `reads`, answers `answer` and writes the fault record, if there is one
(60 R1370). Nothing else happens: memory and the caches stay, and of the registers those of fault reporting alone move. -/
def State.turnedAway (s : State) (i : Instr) (answer : List Out) (reads : List UnitAccess) (record : Option Frcd) : Prop :=
  ∃ v w t, exec i s = .next t ∧ onlyCounted s v ∧ w = { v with bus := reads ++ s.bus, out := answer ++ v.out } ∧
    match record with
    | none => t = w
    | some x => onlyReported w t ∧ recorded w t x

/-- What a blocked request is answered: nothing for a write, else Unsupported Request (42 R1030). -/
def blockedAnswer (r : MemReq) : List Out := if r.access = .write then [] else [.respond r.sid .ur]

/-- An untranslated request is blocked with a fault reason; a Fault Processing Disable bit, where it counts, keeps the fault
unrecorded (42 R1030; 60 R1331). -/
def State.blocks (s : State) (r : MemReq) (reads : List UnitAccess) (reason : BitVec 8) (fpd : Bool) : Prop :=
  s.turnedAway (.untranslatedRequest r) (blockedAnswer r) reads
    (if fpd then none else some (requestRecord s.caps r r.access 0 reason))

/-- The same of a translated request (43 R1075). -/
def State.blocksTranslated (s : State) (r : MemReq) (reads : List UnitAccess) (reason : BitVec 8) (fpd : Bool) : Prop :=
  s.turnedAway (.translatedRequest r) (blockedAnswer r) reads
    (if fpd then none else some (requestRecord s.caps r r.access 2 reason))

/-- The faults that answer a translation request with Unsupported Request (60 R1346 to R1361). -/
def answersUr (reason : BitVec 8) : Bool :=
  [0x01, 0x02, 0x0D, 0x31, 0x33, 0x39, 0x41, 0x44, 0x45, 0x46, 0x48, 0x89].contains reason

/-- The faults that answer a translation request with Success and no permission (60 R1346 to R1361); those that do neither answer
Completer Abort. -/
def answersZero (reason : BitVec 8) : Bool :=
  [0x04, 0x05, 0x06, 0x51, 0x59, 0x5C, 0x5D, 0x70, 0x71, 0x72, 0x73, 0x74, 0x75, 0x76, 0x77, 0x79, 0x80, 0x81, 0x83, 0x84,
    0x85, 0x86, 0x90, 0x91].contains reason

/-- A translation request asks for no write permission, on a unit that knows the No Write flag (22 R706). -/
def readOnlyRequest (c : Caps) (r : MemReq) : Bool := r.nw && c.nwfs

/-- "Success with R=W=U=S=0" (43 R1060). -/
def noRights (r : MemReq) (n : Bool) : TrCompletion :=
  { addr := 0, s := false, n := n, g := false, priv := r.pasid.any (·.pr), exe := false, u := false, w := false, r := false }

/-- The completion of a translation request for a page of 2^k bytes with the permissions `rd` and `w` (43 R1060). -/
def pageAnswer (r : MemReq) (page : Addr) (k : Nat) (rd w n : Bool) : TrCompletion :=
  if rd || w then { noRights r n with addr := sizedAddr page k, s := decide (12 < k), w := w, r := rd } else noRights r n

/-- A translation request is answered as its fault asks; N is `n` where the answer has one. Faults that answer Success are not
recorded, but for 91h (43 R1055; 60 R1340, R1358). -/
def State.answersFault (s : State) (r : MemReq) (reads : List UnitAccess) (n : Bool) (reason : BitVec 8) (fpd : Bool) : Prop :=
  s.turnedAway (.translationRequest r)
    [.respond r.sid
      (if answersUr reason then .ur else if answersZero reason then .translation (noRights r n) else .ca)] reads
    (if fpd || (answersZero reason && reason != 0x91) then none
     else some (requestRecord s.caps r (if readOnlyRequest s.caps r then .read else .atomic) 1 reason))

/-- The record of a fault of a page request (45_page_requests.md R1175). -/
def pageRecord (c : Caps) (m : PageMsg) (reason : BitVec 8) : Frcd :=
  { f := true, t1 := false, t2 := true, atf := 0, pv := if c.pasids && m.pp then m.pasid else 0, fr := reason
    pp := c.pasids && m.pp, exe := false, priv := c.pasids && m.pmr, sid := m.rid
    fi := faultInfo c (pageAddr m.addr) }

/-! ## Faults of the mode and of the tables -/

/-- The latched translation table mode refuses every request: it is reserved or not supported, or it is abort-dma mode (22
R704). -/
def State.modeRefuses (s : State) (reason : BitVec 8) : Prop :=
  (reason = 0x30 ∧ (s.latchedRt.ttm = 2 ∨ (s.latchedRt.ttm = 1 ∧ s.caps.smts = false) ∨
    (s.latchedRt.ttm = 3 ∧ s.caps.adms = false))) ∨
  (reason = 0x33 ∧ s.latchedRt.ttm = 3 ∧ s.caps.adms = true)

/-- The legacy tables refuse a source, with the reads made, the fault reason, and whether an FPD bit that counts is set (22 R705;
60 R1350, R1351). -/
inductive State.LegacyRefuses (s : State) (sid : SourceId) : List UnitAccess → BitVec 8 → Bool → Prop
  | rootUnread : s.memRead (s.rootAt sid).toNat 16 = none → LegacyRefuses s sid [s.rootRead sid] 0x08 false
  | rootAbsent (re : Nat) : s.memRead (s.rootAt sid).toNat 16 = some re → bitAt (BitVec.ofNat 128 re) 0 = false →
      LegacyRefuses s sid [s.rootRead sid] 0x01 false
  | rootReserved (re : Nat) : s.memRead (s.rootAt sid).toNat 16 = some re → bitAt (BitVec.ofNat 128 re) 0 = true →
      rootRsvd s.plat.haw (BitVec.ofNat 128 re) = true → LegacyRefuses s sid [s.rootRead sid] 0x0A false
  | unread (ca : Addr) : s.legacyRoot sid ca → s.memRead ca.toNat 16 = none →
      LegacyRefuses s sid (s.legacyReads sid ca) 0x09 false
  | absent (ca : Addr) (ce : BitVec 256) : s.legacyRoot sid ca → s.contextAt ca 16 ce → ceP ce = false →
      LegacyRefuses s sid (s.legacyReads sid ca) 0x02 (ceFpd ce)
  | reserved (ca : Addr) (ce : BitVec 256) : s.legacyRoot sid ca → s.contextAt ca 16 ce → ceP ce = true →
      ctxRsvd s.caps s.plat.haw ce = true → LegacyRefuses s sid (s.legacyReads sid ca) 0x0B (ceFpd ce)
  | programming (ca : Addr) (ce : BitVec 256) : s.legacyRoot sid ca → s.contextAt ca 16 ce → ceP ce = true →
      ctxRsvd s.caps s.plat.haw ce = false → (s.caps.awOk (ceAw ce) = false ∨ ttOk s.caps (ceTt ce) = false) →
      LegacyRefuses s sid (s.legacyReads sid ca) 0x03 (ceFpd ce)

/-- The scalable-mode root and context tables refuse a source (22 R710, R711; 60 R1354, R1355). -/
inductive State.ContextRefuses (s : State) (sid : SourceId) : List UnitAccess → BitVec 8 → Bool → Prop
  | rootUnread : s.memRead (s.rootAt sid).toNat 16 = none → ContextRefuses s sid [s.rootRead sid] 0x38 false
  | rootAbsent (re : Nat) : s.memRead (s.rootAt sid).toNat 16 = some re →
      bitAt (smRootHalf (BitVec.ofNat 128 re) sid) 0 = false → ContextRefuses s sid [s.rootRead sid] 0x39 false
  | rootReserved (re : Nat) : s.memRead (s.rootAt sid).toNat 16 = some re →
      bitAt (smRootHalf (BitVec.ofNat 128 re) sid) 0 = true →
      smRootRsvd s.plat.haw (smRootHalf (BitVec.ofNat 128 re) sid) = true → ContextRefuses s sid [s.rootRead sid] 0x3A false
  | unread (ca : Addr) : s.scalableRoot sid ca → s.memRead ca.toNat 32 = none →
      ContextRefuses s sid (s.contextReads sid ca) 0x40 false
  | absent (ca : Addr) (ce : BitVec 256) : s.scalableRoot sid ca → s.contextAt ca 32 ce → ceP ce = false →
      ContextRefuses s sid (s.contextReads sid ca) 0x41 (ceFpd ce)
  | reserved (ca : Addr) (ce : BitVec 256) : s.scalableRoot sid ca → s.contextAt ca 32 ce → ceP ce = true →
      smCtxRsvd s.caps s.plat.haw ce = true → ContextRefuses s sid (s.contextReads sid ca) 0x42 (ceFpd ce)
  | programming (ca : Addr) (ce : BitVec 256) : s.scalableRoot sid ca → s.contextAt ca 32 ce → ceP ce = true →
      smCtxRsvd s.caps s.plat.haw ce = false → sct41 s ce = true → ContextRefuses s sid (s.contextReads sid ca) 0x43 (ceFpd ce)

/-- The PASID directory and table under a context entry refuse a PASID (22 R710, R715; 60 R1355 to R1357). -/
inductive State.PasidRefuses (s : State) (sid : SourceId) (ca : Addr) (ce : BitVec 256) (pasid : Pasid) :
    List UnitAccess → BitVec 8 → Bool → Prop
  | tooWide : 2 ^ (smPdts ce + 7) ≤ pasid.toNat / 64 →
      PasidRefuses s sid ca ce pasid (s.contextReads sid ca) 0x46 (ceFpd ce)
  | directoryUnread (da : Addr) : pasid.toNat / 64 < 2 ^ (smPdts ce + 7) →
      da = entryAddr (smPasidDir s.plat.haw ce) 8 (pasid.toNat / 64) → s.memRead da.toNat 8 = none →
      PasidRefuses s sid ca ce pasid (busRead da.toNat 8 s.caps.c :: s.contextReads sid ca) 0x50 false
  | directoryAbsent (da : Addr) (d : BitVec 64) : s.pasidDirectory ce pasid da d → bitAt d 0 = false →
      PasidRefuses s sid ca ce pasid (busRead da.toNat 8 s.caps.c :: s.contextReads sid ca) 0x51 (ceFpd ce || bitAt d 1)
  | directoryReserved (da : Addr) (d : BitVec 64) : s.pasidDirectory ce pasid da d → bitAt d 0 = true →
      pdeRsvd s.plat.haw d = true →
      PasidRefuses s sid ca ce pasid (busRead da.toNat 8 s.caps.c :: s.contextReads sid ca) 0x52 (ceFpd ce || bitAt d 1)
  | unread (da pa : Addr) (d : BitVec 64) : s.pasidDirectory ce pasid da d → s.pasidTable d pasid pa →
      s.memRead pa.toNat 64 = none → PasidRefuses s sid ca ce pasid (s.tableReads sid ca da pa) 0x58 false
  | absent (da pa : Addr) (d : BitVec 64) (pe : BitVec 512) : s.pasidDirectory ce pasid da d → s.pasidTable d pasid pa →
      s.memRead pa.toNat 64 = some pe.toNat → peP pe = false →
      PasidRefuses s sid ca ce pasid (s.tableReads sid ca da pa) 0x59 (s.fpdMet ce da pe)
  | reserved (da pa : Addr) (d : BitVec 64) (pe : BitVec 512) : s.pasidDirectory ce pasid da d → s.pasidTable d pasid pa →
      s.memRead pa.toNat 64 = some pe.toNat → peP pe = true → peRsvd s.caps s.plat.haw pe = true →
      PasidRefuses s sid ca ce pasid (s.tableReads sid ca da pa) 0x5A (s.fpdMet ce da pe)
  | programming (da pa : Addr) (d : BitVec 64) (pe : BitVec 512) : s.pasidDirectory ce pasid da d → s.pasidTable d pasid pa →
      s.memRead pa.toNat 64 = some pe.toNat → peP pe = true → peRsvd s.caps s.plat.haw pe = false → ¬ s.pasidProgrammed pe →
      PasidRefuses s sid ca ce pasid (s.tableReads sid ca da pa) 0x5B (s.fpdMet ce da pe)

/-- The tables of scalable mode refuse a request (22 R710 to R712). -/
inductive State.TablesRefuse (s : State) (r : MemReq) : List UnitAccess → BitVec 8 → Bool → Prop
  | context (reads : List UnitAccess) (reason : BitVec 8) (fpd : Bool) : s.ContextRefuses r.sid reads reason fpd →
      TablesRefuse s r reads reason fpd
  | ridPasid (ca : Addr) (ce : BitVec 256) : s.scalableContext r.sid ca ce → r.pasid = none →
      2 ^ s.caps.pssBits ≤ (smRidPasid s.caps ce).toNat → TablesRefuse s r (s.contextReads r.sid ca) 0x43 (ceFpd ce)
  | pasidDisabled (ca : Addr) (ce : BitVec 256) (p : PasidTlp) : s.scalableContext r.sid ca ce → r.pasid = some p →
      smPaside ce = false → TablesRefuse s r (s.contextReads r.sid ca) 0x45 (ceFpd ce)
  | ridPasidUsed (ca : Addr) (ce : BitVec 256) (p : PasidTlp) : s.scalableContext r.sid ca ce → r.pasid = some p →
      smPaside ce = true → s.caps.rps = true → p.pasid = smRidPasid s.caps ce →
      TablesRefuse s r (s.contextReads r.sid ca) 0x48 (ceFpd ce)
  | pasidTooWide (ca : Addr) (ce : BitVec 256) (p : PasidTlp) : s.scalableContext r.sid ca ce → r.pasid = some p →
      smPaside ce = true → ¬ (s.caps.rps = true ∧ p.pasid = smRidPasid s.caps ce) → 2 ^ s.caps.pssBits ≤ p.pasid.toNat →
      TablesRefuse s r (s.contextReads r.sid ca) 0x89 (ceFpd ce)
  | pasid (ca : Addr) (ce : BitVec 256) (pasid : Pasid) (reads : List UnitAccess) (reason : BitVec 8) (fpd : Bool) :
      s.scalableContext r.sid ca ce → s.requestPasid r ce pasid → s.PasidRefuses r.sid ca ce pasid reads reason fpd →
      TablesRefuse s r reads reason fpd

/-- The tables of scalable mode refuse a page request (45 R1175). -/
inductive State.PageRefuses (s : State) (m : PageMsg) : List UnitAccess → BitVec 8 → Bool → Prop
  | context (reads : List UnitAccess) (reason : BitVec 8) (fpd : Bool) : s.ContextRefuses m.rid reads reason fpd →
      PageRefuses s m reads reason fpd
  | ridPasid (ca : Addr) (ce : BitVec 256) : s.scalableContext m.rid ca ce → m.pp = false →
      2 ^ s.caps.pssBits ≤ (smRidPasid s.caps ce).toNat → PageRefuses s m (s.contextReads m.rid ca) 0x43 (ceFpd ce)
  | disabled (ca : Addr) (ce : BitVec 256) : s.scalableContext m.rid ca ce →
      (m.pp = false → (smRidPasid s.caps ce).toNat < 2 ^ s.caps.pssBits) → smPre ce = false →
      PageRefuses s m (s.contextReads m.rid ca) 0x47 (ceFpd ce)
  | pasidDisabled (ca : Addr) (ce : BitVec 256) : s.scalableContext m.rid ca ce → smPre ce = true → m.pp = true →
      smPaside ce = false → PageRefuses s m (s.contextReads m.rid ca) 0x45 (ceFpd ce)
  | ridPasidUsed (ca : Addr) (ce : BitVec 256) : s.scalableContext m.rid ca ce → smPre ce = true → m.pp = true →
      smPaside ce = true → s.caps.rps = true → m.pasid = smRidPasid s.caps ce →
      PageRefuses s m (s.contextReads m.rid ca) 0x48 (ceFpd ce)
  | pasid (ca : Addr) (ce : BitVec 256) (pasid : Pasid) (reads : List UnitAccess) (reason : BitVec 8) (fpd : Bool) :
      s.scalableContext m.rid ca ce → smPre ce = true → s.pagePasid m ce pasid →
      s.PasidRefuses m.rid ca ce pasid reads reason fpd → PageRefuses s m reads reason fpd

/-- The PASID-table entry refuses a request: it executes on a unit without Execute Requests, or it is privileged where the entry
allows none (22 R712, R713; 60 R1357). -/
def State.entryRefuses (s : State) (r : MemReq) (ce : BitVec 256) (pe : BitVec 512) (reason : BitVec 8) : Prop :=
  (reason = 0x5C ∧ s.caps.ers = false ∧ ∃ p, r.pasid = some p ∧ p.er = true) ∨
  (reason = 0x5D ∧ (∀ p, r.pasid = some p → p.er = true → s.caps.ers = true) ∧ s.requestPriv r ce = true ∧ peSre pe = false)

/-! ## Faults of the second stage -/

/-- How a second-stage walk stops at an entry: it cannot be read, is not present, or has reserved bits set. -/
inductive Halt where
  | unread | absent | reserved
deriving DecidableEq, Repr

/-- The second-stage tables give the address `a` no page: the walk from the level of the table on reads the entries at `l`, and
the last of them stops it (22 R740, R743). -/
inductive State.SsStuck (s : State) (emte : Bool) (a : Addr) : List Nat → Addr → Halt → List Addr → Prop
  | unread (sh : Nat) (rest : List Nat) (table h : Addr) : h = entryAddr table 8 (pgIndex a sh) →
      s.memRead h.toNat 8 = none → SsStuck s emte a (sh :: rest) table .unread [h]
  | absent (sh : Nat) (rest : List Nat) (table h : Addr) (e : BitVec 64) : h = entryAddr table 8 (pgIndex a sh) →
      s.memRead h.toNat 8 = some e.toNat → bitAt e 0 = false → bitAt e 1 = false →
      SsStuck s emte a (sh :: rest) table .absent [h]
  | reserved (sh : Nat) (rest : List Nat) (table h : Addr) (e : BitVec 64) : h = entryAddr table 8 (pgIndex a sh) →
      s.memRead h.toNat 8 = some e.toNat → (bitAt e 0 = true ∨ bitAt e 1 = true) →
      ssRsvd s.caps s.plat.haw emte e sh = true → SsStuck s emte a (sh :: rest) table .reserved [h]
  | deeper (sh : Nat) (rest : List Nat) (table h : Addr) (e : BitVec 64) (x : Halt) (l : List Addr) :
      h = entryAddr table 8 (pgIndex a sh) → s.memRead h.toNat 8 = some e.toNat →
      (bitAt e 0 = true ∨ bitAt e 1 = true) → ssRsvd s.caps s.plat.haw emte e sh = false → pgLeaf e sh = false →
      SsStuck s emte a rest (pgAddr s.plat.haw e sh) x l → SsStuck s emte a (sh :: rest) table x (h :: l)

/-- The reads of the entries at these addresses, newest first. -/
def entryReads (l : List Addr) (snoop : Bool) : List UnitAccess := (l.map (fun h => busRead h.toNat 8 snoop)).reverse

/-- The legacy fault reason of a walk that stops at its `n`-th entry (22 R743; 60 R1351, R1352): an entry that is not present
is told apart by the access. -/
def Halt.legacyReason (acc : Access) (n : Nat) : Halt → BitVec 8
  | .unread => if n = 1 then 0x03 else 0x07
  | .absent => if accessWrites acc then 0x05 else 0x06
  | .reserved => 0x0C

/-- The scalable-mode fault reason of a second-stage walk that stops at its `n`-th entry (60 R1359). -/
def Halt.scalableReason (n : Nat) : Halt → BitVec 8
  | .unread => if n = 1 then 0x7B else 0x78
  | .absent => 0x79
  | .reserved => 0x7A

/-- The second-stage tables of a legacy context entry give the address `a` no page, with the entries read (22 R741 to R743). -/
def State.legacyUnmapped (s : State) (ce : BitVec 256) (acc : Access) (a : Addr) (reason : BitVec 8) (l : List Addr) : Prop :=
  if 2 ^ ssBound s.caps (ceAw ce) ≤ a.toNat then reason = 0x04 ∧ l = []
  else ∃ x, s.SsStuck false a (levels (agawLevels (ceAw ce))) (ceSsptptr s.plat.haw ce) x l ∧
    reason = x.legacyReason acc l.length

/-- The second-stage tables of a PASID-table entry give the address `a` no page (22 R740 to R743). -/
def State.ssUnmapped (s : State) (pe : BitVec 512) (a : Addr) (reason : BitVec 8) : Prop :=
  if 2 ^ ssBound s.caps (peAw pe) ≤ a.toNat then reason = 0x84
  else ∃ x l, s.SsStuck (peEmte pe) a (levels (agawLevels (peAw pe))) (peSsptptr s.plat.haw pe) x l ∧
    reason = x.scalableReason l.length

/-- A flag that a walk owes cannot be set: the paging structures are not snooped, or the first entry that owes one and cannot take
it may not be written by the second stage, or its write fails (22 R735, R745, R750). -/
def State.flagsFail (s : State) (pe : BitVec 512) (l : List UsedEntry) (unsnooped unwritable reason : BitVec 8) : Prop :=
  if snoopedWalk s.caps pe = true then
    ∃ before x after, l = before ++ x :: after ∧ s.canSetFlags pe before ∧ x.owes ∧
      ((reason = 0x77 ∧ x.w = false) ∨ (reason = unwritable ∧ x.w = true ∧ s.writable x.hpa.toNat 8 = false))
  else reason = unsnooped ∧ ∃ x ∈ l, x.owes

/-- The second stage of a PASID-table entry refuses an access to the address `a` (22 R740 to R745; 60 R1359, R1361): no page, no
permission at all, no write or no read permission, a flag that cannot be set. -/
inductive State.SsRefuses (s : State) (pe : BitVec 512) (acc : Access) (a : Addr) : BitVec 8 → Prop
  | unmapped (reason : BitVec 8) : s.ssUnmapped pe a reason → SsRefuses s pe acc a reason
  | nothing (l : List UsedEntry) (k : Nat) : s.ssMaps pe false a l k → allSet l 0 = false → allSet l 1 = false →
      SsRefuses s pe acc a 0x79
  | write (l : List UsedEntry) (k : Nat) : s.ssMaps pe false a l k → accessWrites acc = true → allSet l 0 = true →
      allSet l 1 = false → SsRefuses s pe acc a 0x85
  | read (l : List UsedEntry) (k : Nat) : s.ssMaps pe false a l k → allSet l 1 = true →
      ¬ ssGrants s.caps acc (allSet l 0) true → SsRefuses s pe acc a 0x86
  | flags (l : List UsedEntry) (k : Nat) (out : Addr) (reason : BitVec 8) : s.ssTranslates pe acc a out l k →
      peSsade pe = true → s.flagsFail pe l 0x7C 0x7D reason → SsRefuses s pe acc a reason

/-! ## Faults of the first stage -/

/-- The fault reason that a second-stage fault on the address of a first-stage entry becomes (22 R750). -/
def placingReason (first : Bool) (q : BitVec 8) : BitVec 8 :=
  if q = 0x84 then (if first then 0x5B else 0x74)
  else if q = 0x86 then (if first then 0x75 else 0x76)
  else if q = 0x85 then 0x77 else q

/-- Under nesting the second stage does not place the first-stage entry at `a` in host memory (22 R750). -/
def State.fsUnplaced (s : State) (pe : BitVec 512) (first : Bool) (a : Addr) (reason : BitVec 8) : Prop :=
  pePgtt pe = 3 ∧ ∃ q, s.SsRefuses pe (placingAccess pe) a q ∧ reason = placingReason first q

/-- The first-stage entry at `a` lies at `h`, and the flags of the second-stage entries that lead there can be set (22 R750). -/
def State.fsAt (s : State) (pe : BitVec 512) (a h : Addr) : Prop :=
  ∃ w l, s.fsPlace pe a h w l ∧ s.canSetFlags pe (owedEntries pe [] l [])

/-- The first-stage tables give the address `a` no page, from the level of the table on (22 R725, R750; 60 R1358);
`first`: that level is the top one. -/
inductive State.FsStuck (s : State) (pe : BitVec 512) (a : Addr) : Bool → List Nat → Addr → BitVec 8 → Prop
  | unplaced (first : Bool) (sh : Nat) (rest : List Nat) (table : Addr) (reason : BitVec 8) :
      s.fsUnplaced pe first (entryAddr table 8 (pgIndex a sh)) reason → FsStuck s pe a first (sh :: rest) table reason
  | unread (first : Bool) (sh : Nat) (rest : List Nat) (table h : Addr) :
      s.fsAt pe (entryAddr table 8 (pgIndex a sh)) h → s.memRead h.toNat 8 = none →
      FsStuck s pe a first (sh :: rest) table (if first then 0x73 else 0x70)
  | absent (first : Bool) (sh : Nat) (rest : List Nat) (table h : Addr) (e : BitVec 64) :
      s.fsAt pe (entryAddr table 8 (pgIndex a sh)) h → s.memRead h.toNat 8 = some e.toNat → bitAt e 0 = false →
      FsStuck s pe a first (sh :: rest) table 0x71
  | reserved (first : Bool) (sh : Nat) (rest : List Nat) (table h : Addr) (e : BitVec 64) :
      s.fsAt pe (entryAddr table 8 (pgIndex a sh)) h → s.memRead h.toNat 8 = some e.toNat → bitAt e 0 = true →
      fsRsvd s.caps s.plat.haw e sh = true → FsStuck s pe a first (sh :: rest) table 0x72
  | beyond (first : Bool) (sh : Nat) (rest : List Nat) (table h : Addr) (e : BitVec 64) :
      s.fsAt pe (entryAddr table 8 (pgIndex a sh)) h → s.memRead h.toNat 8 = some e.toNat → bitAt e 0 = true →
      fsRsvd s.caps s.plat.haw e sh = false → ¬ s.fsInBound pe e sh → FsStuck s pe a first (sh :: rest) table 0x74
  | deeper (first : Bool) (sh : Nat) (rest : List Nat) (table h : Addr) (e : BitVec 64) (reason : BitVec 8) :
      s.fsAt pe (entryAddr table 8 (pgIndex a sh)) h → s.memRead h.toNat 8 = some e.toNat → bitAt e 0 = true →
      fsRsvd s.caps s.plat.haw e sh = false → s.fsInBound pe e sh → pgLeaf e sh = false →
      FsStuck s pe a false rest (pgAddr s.plat.haw e sh) reason → FsStuck s pe a first (sh :: rest) table reason

/-- The first-stage tables lead the address `a` to a page, and the flags of the second-stage entries that place them can be set.
-/
def State.fsReaches (s : State) (pe : BitVec 512) (d : Bool) (a : Addr) (fs tab : List UsedEntry) (k : Nat) : Prop :=
  s.fsMaps pe d a fs tab k ∧ s.canSetFlags pe (owedEntries pe [] tab [])

/-- The first stage of a PASID-table entry refuses an access of privilege `pr` to the address `a`, flags apart (22 R720 to R730,
R750; 60 R1358, R1361). -/
inductive State.FsRefuses (s : State) (pe : BitVec 512) (pr : Bool) (acc : Access) (a : Addr) : BitVec 8 → Prop
  | notCanonical : canonical (fsWidth pe) a = false → FsRefuses s pe pr acc a 0x80
  | stuck (reason : BitVec 8) : canonical (fsWidth pe) a = true →
      s.FsStuck pe a true (fsLevelsOf pe) (peFsptptr s.plat.haw pe) reason → FsRefuses s pe pr acc a reason
  | user (fs tab : List UsedEntry) (k : Nat) : s.fsReaches pe false a fs tab k → ¬ fsUser pr fs → FsRefuses s pe pr acc a 0x81
  | write (fs tab : List UsedEntry) (k : Nat) : s.fsReaches pe false a fs tab k → fsUser pr fs → accessWrites acc = true →
      fsWritable pe pr fs = false → FsRefuses s pe pr acc a 0x85

/-! ## Faults of the whole translation -/

/-- The fault reason that a fault of the second stage on the page's own address becomes under nesting (22 R750). -/
def finalReason (q : BitVec 8) : BitVec 8 := if q = 0x84 then 0x74 else q

/-- The translation of an untranslated request by a PASID-table entry is refused (22 R710, R720 to R762). -/
inductive State.WalkRefuses (s : State) (pe : BitVec 512) (pr : Bool) (acc : Access) (a : Addr) : BitVec 8 → Prop
  | first (reason : BitVec 8) : pePgtt pe = 1 ∨ pePgtt pe = 3 → s.FsRefuses pe pr acc a reason → WalkRefuses s pe pr acc a reason
  | firstFlags (fs tab : List UsedEntry) (k : Nat) (out : Addr) (reason : BitVec 8) : pePgtt pe = 1 ∨ pePgtt pe = 3 →
      s.fsTranslates pe pr acc a out fs tab k → s.canSetFlags pe (owedEntries pe [] tab []) →
      s.flagsFail pe fs 0x90 0x91 reason → WalkRefuses s pe pr acc a reason
  | second (reason : BitVec 8) : pePgtt pe = 2 → s.SsRefuses pe acc a reason → WalkRefuses s pe pr acc a reason
  | nested (fs tab : List UsedEntry) (k : Nat) (gpa : Addr) (q : BitVec 8) : pePgtt pe = 3 →
      s.fsTranslates pe pr acc a gpa fs tab k → s.canSetFlags pe (owedEntries pe fs tab []) → s.SsRefuses pe acc gpa q →
      WalkRefuses s pe pr acc a (finalReason q)
  | passThrough : pePgtt pe = 4 → s.hpaEnd ≤ a.toNat → WalkRefuses s pe pr acc a 0x83
  | interruptRange (fs tab fin : List UsedEntry) (k : Nat) (hpa : Addr) : s.scalableMapped pe pr acc a hpa fs tab fin k →
      s.canSetFlags pe (owedEntries pe fs tab fin) → inInterruptRange hpa = true → WalkRefuses s pe pr acc a 0x87

/-! ## Translation requests in scalable mode -/

/-- The pass-through region at an address, 2^k bytes: the largest of 1 GByte, 2 MBytes and 4 KBytes, not above the platform's nor
the unit's largest page, that ends by 2^HAW and, for a request-without-PASID, keeps clear of the interrupt range (43 R1064). -/
def State.throughRegion (s : State) (withPasid : Bool) (a : Addr) (k : Nat) : Prop :=
  let fits (j : Nat) := j ≤ s.plat.ptShift ∧ j ≤ s.caps.largestPage ∧ (highBits a j).toNat + 2 ^ j ≤ s.hpaEnd ∧
    (withPasid = true ∨ regionMeetsInterruptRange a j = false)
  (k = 12 ∨ ((k = 21 ∨ k = 30) ∧ fits k)) ∧ ∀ j, j = 21 ∨ j = 30 → k < j → ¬ fits j

/-- A PASID-table entry gives a translation request the page of 2^k bytes at `page`, with the permissions `rd` and `w`; the
entries used owe the Dirty flag just if it gets `w` (22 R706, R710, R735, R745; 43 R1060, R1064). `ro`: it asked for no `w`. -/
def State.pageGiven (s : State) (pe : BitVec 512) (pr ro withPasid : Bool) (a page : Addr) (fs tab fin : List UsedEntry)
    (k : Nat) (rd w : Bool) : Prop :=
  match (pePgtt pe).toNat with
  | 1 => s.fsMaps pe w a fs tab k ∧ fsUser pr fs ∧ rd = true ∧ w = (fsWritable pe pr fs && !ro) ∧
      page = pgAddr s.plat.haw (leafOf fs) k ∧ fin = []
  | 2 => s.ssMaps pe w a fin k ∧ rd = allSet fin 0 ∧ w = (allSet fin 1 && !ro) ∧
      page = pgAddr s.plat.haw (leafOf fin) k ∧ fs = [] ∧ tab = []
  | 3 => ∃ gpa k1 k2, s.fsMaps pe w a fs tab k1 ∧ fsUser pr fs ∧ gpa = s.outputOf (leafOf fs) k1 a ∧
      s.ssMaps pe w gpa fin k2 ∧ rd = allSet fin 0 ∧ w = (fsWritable pe pr fs && allSet fin 1 && !ro) ∧ k = min k1 k2 ∧
      page = highBits (s.outputOf (leafOf fin) k2 gpa) k
  | 4 => a.toNat < s.hpaEnd ∧ s.throughRegion withPasid a k ∧ page = highBits a k ∧ rd = true ∧ w = !ro ∧
      fs = [] ∧ tab = [] ∧ fin = []
  | _ => False

/-- The second stage leaves a translation request no permission at all; under nesting the first-stage entries still owe the Dirty
flag if they grant a write that the request asks for (22 R706, R744, R750). -/
def State.nothingGiven (s : State) (pe : BitVec 512) (pr ro : Bool) (a : Addr) (fs tab fin : List UsedEntry) : Prop :=
  match (pePgtt pe).toNat with
  | 2 => (∃ k, s.ssMaps pe false a fin k) ∧ allSet fin 0 = false ∧ (allSet fin 1 && !ro) = false ∧ fs = [] ∧ tab = []
  | 3 => ∃ k1 k2, s.fsMaps pe (fsWritable pe pr fs && !ro) a fs tab k1 ∧ fsUser pr fs ∧
      s.ssMaps pe false (s.outputOf (leafOf fs) k1 a) fin k2 ∧ allSet fin 0 = false ∧
      (fsWritable pe pr fs && allSet fin 1 && !ro) = false
  | _ => False

/-- The N bit of a completion (43 R1062): PGSNP, or the SNP bit of the page's own second-stage leaf, where there is one. -/
def State.completionN (s : State) (pe : BitVec 512) (fin : List UsedEntry) : Bool :=
  pePgsnp pe || (usesSs (pePgtt pe) && s.caps.sc && bitAt (leafOf fin) 11)

/-- The translation of a translation request by a PASID-table entry is refused, with the second-stage entries of the page that the
walk used (22 R706, R710, R720 to R750; 43 R1070). A missing permission other than a user access to a supervisor page is no
fault here. -/
inductive State.TranslationRefused (s : State) (pe : BitVec 512) (pr ro : Bool) (a : Addr) : BitVec 8 → List UsedEntry → Prop
  | first (reason : BitVec 8) : pePgtt pe = 1 ∨ pePgtt pe = 3 → s.FsRefuses pe pr .read a reason →
      TranslationRefused s pe pr ro a reason []
  | firstFlags (fs tab : List UsedEntry) (k : Nat) (reason : BitVec 8) : pePgtt pe = 1 →
      s.fsMaps pe (fsWritable pe pr fs && !ro) a fs tab k → fsUser pr fs → s.flagsFail pe fs 0x90 0x91 reason →
      TranslationRefused s pe pr ro a reason []
  | second (reason : BitVec 8) : pePgtt pe = 2 → s.ssUnmapped pe a reason → TranslationRefused s pe pr ro a reason []
  | secondFlags (fin : List UsedEntry) (k : Nat) (reason : BitVec 8) : pePgtt pe = 2 →
      s.ssMaps pe (allSet fin 1 && !ro) a fin k → (allSet fin 0 = true ∨ (allSet fin 1 && !ro) = true) → peSsade pe = true →
      s.flagsFail pe fin 0x7C 0x7D reason → TranslationRefused s pe pr ro a reason fin
  | nested (fs tab : List UsedEntry) (k : Nat) (q : BitVec 8) : pePgtt pe = 3 →
      s.fsMaps pe (fsWritable pe pr fs && !ro) a fs tab k → fsUser pr fs → s.canSetFlags pe (owedEntries pe fs tab []) →
      s.ssUnmapped pe (s.outputOf (leafOf fs) k a) q → TranslationRefused s pe pr ro a (finalReason q) []
  | passThrough : pePgtt pe = 4 → s.hpaEnd ≤ a.toNat → TranslationRefused s pe pr ro a 0x83 []

end Sys2Proof.Machine
end

