-- ==== Sys2Proof/Certificates/Slice0/Obligations.lean ====
section
/-! DEFINITION. The statements for the provers. OBLIGATIONS.json lists each with the rules it formalises. -/

open Sys2Proof Sys2Proof.Machine

/-! ## Encoding -/

/-- Decoding the word of a well-formed instruction gives it back (30_encoding.md R852 to R882). -/
def Obligations.DecodeEncode : Prop := ∀ i : Instr, i.wf = true → decode (encode i) = .ok [i]

/-- A descriptor that decodes is the word its instruction encodes to: no bit is dropped (30 R852 to R862). That no bit is
dropped rests on checking every reserved bit of a descriptor, which is the spec's decision D20 (30 R863, log 24), and for a
page-request descriptor its decision D21. -/
def Obligations.EncodeDecodeDescriptor : Prop :=
  (∀ (w : BitVec 256) (i : Instr), decode (.iqDsc true w) = .ok [i] → encode i = .iqDsc true w) ∧
  (∀ (w : BitVec 256) (i : Instr), decode (.prqDsc w) = .ok [i] → encode i = .prqDsc w)

/-- Words the spec writes out decode to the commands it says they are (45 R1195, R1225; 40 R945; 41 R950, R970, R986,
R996). -/
def Obligations.SpecWordsDecode : Prop :=
  decode (.iqDsc true 0x00000000000000900000000501000019) =
    .ok [.pageGrpRespDsc true 0 0x0100 0x00005 0x012] ∧
  decode (.iqDsc true 0x37) = .ok [.pcInvDsc 3 0 0] ∧
  decode (.prqDsc 0x000000007F1230910000000501000101) =
    .ok [.pageReqDsc { rid := 0x0100, pp := true, pasid := 5, exr := false, pmr := false, addr := 0x7F123,
                       prgi := 0x012, lpig := false, rdr := true, wrr := false }] ∧
  decode (.gcmd 0xC0000000 0x84000000) = .ok [.gcmdQieEnable] ∧
  decode (.ccmd 0xE000000300100005) = .ok [.ccmdIcc 3 0x0010 5 3] ∧
  decode (.iotlb 0xB003000700000000) = .ok [.iotlbIvt 3 true true 7] ∧
  decode (.ecmd 0x00000000000200F0) = .ok [.ecmdEnable 2] ∧
  decode (.vcmd 0x0000000001050002) = .ok [.vcmdFree 0x105]

/-! ## Steps -/

/-- A turn of the queue engine reads the descriptor at the head, with snooping, and runs it, with or without an event that asks
for the turn (40 R902, R903). The read is little-endian (decision D3: 40 R851, log 9), and a step without an event being such
a turn is the model's choice (log 5). The read is counted as an occurrence with Requester ID 0000h, no Domain ID, no PASID and
Address Type 3: the model's choice too, the spec giving a fetch none (DESIGN CHOICE, log 27). -/
def Obligations.StepRunsDescriptor : Prop :=
  ∀ (s u : State) (c : Choice) (i : Instr),
    (s.nextEvent .iqTurn c u ∨ (s.inputs = [] ∧ c = Choice.plain ∧ u = { s with choice := Choice.plain })) →
    u.advance.canFetch = true → queueRegError u.advance = none →
    u.advance.readable u.advance.headAddr u.advance.dscBytes = true →
    decode (.iqDsc u.advance.iq.dw
      (BitVec.ofNat 256 (readNat u.advance.flush.mem u.advance.headAddr u.advance.dscBytes))) = .ok [i] →
    step s = exec i (({ u.advance with
      bus := busRead u.advance.headAddr u.advance.dscBytes true :: u.advance.bus } : State).count
        ⟨1, 0, 0, none, none, 3, none, 1⟩)

/-- A doubleword register write that is a command word runs its commands (41 R950, R965, R998), several changed GCMD_REG bits
one after another in the model's order (decision U3, log 20); a message of a device, or a page-request descriptor of the unit,
runs as its instruction (42 R1000, 45 R1185), and an upstream Invalidation Request is a malformed packet (22 R708). -/
def Obligations.StepRunsCommandsAndMessages : Prop :=
  (∀ (s u : State) (c : Choice) (off : Nat) (v : BitVec 64) (raw : Raw),
    s.nextEvent (.softWrite off 4 v) c u → off % 4 = 0 → off < u.plat.regPages * 4096 →
    writeRefusal u off (loWord v) = none → commandWord u off (loWord v) = some raw →
    (∀ i, decode raw = .ok [i] → step s = exec i u) ∧
    (∀ is, decode raw = .ok is → step s = runAll is u)) ∧
  (∀ (s u : State) (c : Choice),
    (∀ atf r i, s.nextEvent (.device (.mem atf r)) c u → tooLong u atf r = false → decodeMem atf r = .ok i →
      step s = exec i u) ∧
    (∀ m, s.nextEvent (.device (.page m)) c u → step s = exec (.pageRequest m) u) ∧
    (∀ sid vec cc, s.nextEvent (.device (.completion sid vec cc)) c u →
      step s = exec (.invalidationCompletion sid vec cc) u) ∧
    (∀ sid, s.nextEvent (.device (.invalidation sid)) c u →
      step s = .next { u with out := .respond sid .malformed :: u.out }) ∧
    (∀ w i, s.nextEvent (.prqWrite w) c u → decode (.prqDsc w) = .ok [i] → step s = exec i u))

/-! ## Invariants -/

/-- Every step keeps the canonical form of memory. The form is the model's (log 2). -/
def Obligations.StepKeepsMemoryForm : Prop := ∀ s t : State, s.memoryForm → step s = .next t → t.memoryForm

/-- Every step keeps the fault records countable and indexed, and the reserved fields 0 (10 R121; 60 R1370; 11 R271 to
R274, R288, R290; 12 R451; ICE on a unit without Device-TLBs: 11 R250, log 38). -/
def Obligations.StepKeepsRegisterForm : Prop :=
  ∀ s t : State, s.recordForm → s.reservedForm → step s = .next t →
    t.recordForm ∧ t.reservedForm

/-- Every step keeps ITags distinct and allocated exactly to the Device-TLB invalidations sent, and hands out no PASID twice
(40 R935; 41 R995, R996). -/
def Obligations.StepKeepsAllocations : Prop :=
  (∀ s t : State, s.tagForm → step s = .next t → t.tagForm) ∧
  (∀ s t : State, s.pasidForm → step s = .next t → t.pasidForm)

/-- The state after reset meets the invariant; its status registers read 0 and every event is masked (70 R1450; 11 R210, R250,
R255). That no fault record is set, the fault index is 0 and nothing is pending is the spec's choice of hidden state (decision
D41: 70 R1452, log 30). -/
def Obligations.ResetState : Prop :=
  (State.reset.Inv) ∧
  (gstsWord State.reset.gsts = 0 ∧ fstsWord State.reset = 0 ∧ rtaddrWord State.reset.rtaddr = 0 ∧
  iqPtrWord State.reset.iq.qh = 0 ∧ iqPtrWord State.reset.iq.qt = 0 ∧ prsWord State.reset.prq = 0 ∧
  pmenWord State.reset.pmr = 0 ∧
  (∀ e : EventName, ctlWord (State.reset.evRegs e) = 0x80000000) ∧
  (∀ x ∈ State.reset.frcd, x.f = false) ∧ State.reset.faultIdx = 0 ∧ State.reset.iqPend = [] ∧ State.reset.itags = [])

/-- No step changes a read-only register or a platform parameter (00 R8; 10 R110). -/
def Obligations.StepKeepsConstants : Prop := ∀ s t : State, step s = .next t → t.caps = s.caps ∧ t.plat = s.plat

/-- Only Set Root Table Pointer moves the latched root pointer and mode, only Set Interrupt Remap Table Pointer the latched
table pointer, and only their enables and disables move TES and IRES (41 R951 to R960): so of the instructions, and so of every
step but a reset, where the commands come by a GCMD_REG write or by the completion of a pending one (41 R965). -/
def Obligations.OnlyCommandsMovePointers : Prop :=
  (∀ (i : Instr) (s t : State), exec i s = .next t →
    (i ≠ .gcmdSrtp → t.latchedRt = s.latchedRt) ∧
    (i ≠ .gcmdSirtp → t.latchedIr = s.latchedIr) ∧
    (i ≠ .gcmdTeEnable → i ≠ .gcmdTeDisable → t.gsts.tes = s.gsts.tes) ∧
    (i ≠ .gcmdIreEnable → i ≠ .gcmdIreDisable → t.gsts.ires = s.gsts.ires)) ∧
  (∀ s t : State, s.inputs = [] → step s = .next t →
    t.latchedRt = s.latchedRt ∧ t.latchedIr = s.latchedIr ∧ t.gsts.tes = s.gsts.tes ∧ t.gsts.ires = s.gsts.ires) ∧
  (∀ (s t u : State) (c : Choice) (e : Event), s.nextEvent e c u → (∀ pg, e ≠ .reset pg) → step s = .next t →
    ((∀ v, writesGcmd u.plat e v → bitAt v 30 = false) → (e = .complete → ¬ u.completes .gcmdSrtp) →
      t.latchedRt = u.latchedRt) ∧
    ((∀ v, writesGcmd u.plat e v → bitAt v 24 = false) → (e = .complete → ¬ u.completes .gcmdSirtp) →
      t.latchedIr = u.latchedIr) ∧
    ((∀ v, writesGcmd u.plat e v → bitAt v 31 = u.gsts.tes) →
      (e = .complete → ¬ u.completes .gcmdTeEnable ∧ ¬ u.completes .gcmdTeDisable) → t.gsts.tes = u.gsts.tes) ∧
    ((∀ v, writesGcmd u.plat e v → bitAt v 25 = u.gsts.ires) →
      (e = .complete → ¬ u.completes .gcmdIreEnable ∧ ¬ u.completes .gcmdIreDisable) → t.gsts.ires = u.gsts.ires))

/-- A message of a device moves only what the unit reports by it (10 R100): of the status registers the fault records and
FRI, PFO and ICE with its source-id, IWC, the tail and the status of the page request queue; of an event's registers only IP; of
the performance counters their values, freeze and overflow bits and PIS; beside these the caches, the pending work, memory and
the traces. Every control register, pointer and command interface stays. -/
def Obligations.DevicesReachNoControl : Prop :=
  ∀ (i : Instr) (s t : State),
    ((∃ r, i = .untranslatedRequest r ∨ i = .translationRequest r ∨ i = .translatedRequest r) ∨
      (∃ sid a d, i = .interruptRequest sid a d) ∨ (∃ m, i = .pageRequest m) ∨
      ∃ sid vec cc, i = .invalidationCompletion sid vec cc) →
    exec i s = .next t →
    t = { s with
          fsts := { s.fsts with fri := t.fsts.fri, pfo := t.fsts.pfo, ice := t.fsts.ice }
          frcd := t.frcd, faultIdx := t.faultIdx, iqercd := { s.iqercd with icesid := t.iqercd.icesid }, iwc := t.iwc
          prq := { s.prq with pqt := t.prq.pqt, pro := t.prq.pro, ppr := t.prq.ppr }
          faultEv := { s.faultEv with ip := t.faultEv.ip }, invEv := { s.invEv with ip := t.invEv.ip }
          pageEv := { s.pageEv with ip := t.pageEv.ip }, perfEv := { s.perfEv with ip := t.perfEv.ip }
          perf := t.perf, caches := t.caches, iqPend := t.iqPend, itags := t.itags, wbuf := t.wbuf
          inFlight := t.inFlight, intrFlight := t.intrFlight, mem := t.mem, out := t.out, bus := t.bus
          freeCtr := t.freeCtr } ∧
    t.perf.counters.map PerfCounter.setup = s.perf.counters.map PerfCounter.setup

/-! ## The invalidation queue -/

/-- cc_inv_dsc removes the context-cache entries of its scope, pc_inv_dsc the PASID-cache entries of its own; both flush the write
buffer of a unit that has one, and change nothing else (40 R920, R921; 23 R845, R846). -/
def Obligations.ContextAndPasidCacheInvalidate : Prop :=
  (∀ (s : State) (g : BitVec 2) (did : DomainId) (sid : SourceId) (fm : BitVec 2), g ≠ 0 →
    ∃ t, exec (.ccInvDsc g did sid fm) s = .next t ∧
      t = { s with iq := s.movedHead, caches := { s.caches with ctx := t.caches.ctx }, mem := t.mem, wbuf := t.wbuf } ∧
      (∀ e ∈ t.caches.ctx,
        e ∈ s.caches.ctx ∧ ctxMatches s.scalable g.toNat (s.caps.maskDid did) sid fm e = false) ∧
      (s.choice.coarser = 0 → t.caches.ctx =
        s.caches.ctx.filter (fun e => !ctxMatches s.scalable g.toNat (s.caps.maskDid did) sid fm e)) ∧
      flushed s t) ∧
  (∀ (s : State) (g : BitVec 2) (did : DomainId) (pasid : Pasid), s.latchedRt.ttm ≠ 0 → g ≠ 2 →
    ∃ t, exec (.pcInvDsc g did pasid) s = .next t ∧
      t = { s with
            iq := s.movedHead, caches := { s.caches with pasid := t.caches.pasid }, mem := t.mem, wbuf := t.wbuf } ∧
      (∀ e ∈ t.caches.pasid, e ∈ s.caches.pasid ∧ g ≠ 3 ∧
        ¬ (e.did = s.caps.maskDid did ∧ (g = 1 → e.pasid = pasid))) ∧
      (s.choice.coarser = 0 → ∀ e ∈ s.caches.pasid, g ≠ 3 →
        ¬ (e.did = s.caps.maskDid did ∧ (g = 1 → e.pasid = pasid)) → e ∈ t.caches.pasid) ∧
      flushed s t)

/-- iotlb_inv_dsc flushes the write buffer of a unit that has one (41 R962), removes the IOTLB and paging-structure cache entries
of its scope, and drains: the reads in flight if it asks for it, the writes if it asks for it, both on Major Version 2 or higher;
a drained request reaches its destination, in the order the requests were forwarded, the others stay in flight (40 R922; 23 R847;
70 R1485, R1486; an address mask above MAMV: log 24). That the drain takes every request of its kind at every granularity is the
model's choice: the source promises only those of the scope (70 R1487, log 15); so is their order (20 R572, the spec's decision
D5, log 5). -/
def Obligations.IotlbInvalidate : Prop :=
  ∀ (s : State) (g : BitVec 2) (dw dr : Bool) (did : DomainId) (am : BitVec 6) (ih : Bool) (addr : BitVec 52)
    (reads writes : Bool),
    g ≠ 0 → (g = 3 → s.caps.psi = true) →
    reads = (decide (2 ≤ s.caps.verMax) || dr) → writes = (decide (2 ≤ s.caps.verMax) || dw) →
    ∃ t u, exec (.iotlbInvDsc g dw dr did am ih addr) s = .next t ∧
      u = { s with
            iq := s.movedHead, caches := { s.caches with iotlb := u.caches.iotlb, psc := u.caches.psc }
            inFlight := s.inFlight.filter (fun f => !drains reads writes f), mem := u.mem, wbuf := u.wbuf } ∧
      flushed s u ∧
      (∀ e ∈ u.caches.iotlb, e ∈ s.caches.iotlb ∧
        iotlbMatches (s.caps.mgaw + 1) (if g = 3 ∧ s.caps.mamv < am.toNat then 2 else g.toNat) (s.caps.maskDid did)
          (pageAddr addr).toNat am.toNat e = false) ∧
      (∀ e ∈ u.caches.psc, e ∈ s.caches.psc ∧
        pscMatches (s.caps.mgaw + 1) (if g = 3 ∧ s.caps.mamv < am.toNat then 2 else g.toNat) (s.caps.maskDid did)
          (pageAddr addr).toNat am.toNat ih e = false) ∧
      observedAll (s.inFlight.filter (drains reads writes)) u t

/-- p_iotlb_inv_dsc flushes the write buffer of a unit that has one (41 R962), removes the entries of its PASID scope, and drains:
every request in flight reaches its destination, in the order they were forwarded (40 R924; 23 R848; 70 R1485; an address mask
above MAMV: log 24). That the drain takes every request in flight is the model's choice: the source promises only those of the
PASID scope (70 R1488, decision D43, log 15); so is their order (20 R572, the spec's decision D5, log 5). -/
def Obligations.PasidIotlbInvalidate : Prop :=
  ∀ (s : State) (g : BitVec 2) (did : DomainId) (pasid : Pasid) (am : BitVec 6) (ih : Bool) (addr : BitVec 52),
    s.latchedRt.ttm ≠ 0 → (g = 2 ∨ g = 3) →
    ∃ t u, exec (.pIotlbInvDsc g did pasid am ih addr) s = .next t ∧
      u = { s with
            iq := s.movedHead, caches := { s.caches with iotlb := u.caches.iotlb, psc := u.caches.psc }
            inFlight := [], mem := u.mem, wbuf := u.wbuf } ∧
      flushed s u ∧
      (∀ e ∈ u.caches.iotlb, e ∈ s.caches.iotlb ∧
        pIotlbMatches (if g = 3 ∧ s.caps.mamv < am.toNat then 2 else g.toNat) (s.caps.maskDid did) pasid
          (pageAddr addr).toNat am.toNat e = false) ∧
      (∀ e ∈ u.caches.psc, e ∈ s.caches.psc ∧
        pPscMatches (if g = 3 ∧ s.caps.mamv < am.toNat then 2 else g.toNat) (s.caps.maskDid did) pasid
          (pageAddr addr).toNat am.toNat ih e = false) ∧
      observedAll s.inFlight u t

/-- iec_inv_dsc removes the interrupt entry cache entries of its scope and drains the interrupts in flight (40 R928; 23 R849; an
index mask above MHMV: log 24). That an index-selective request drains all of them is the model's choice: the source promises
only those of the named indexes (70 R1490, log 15); so it is that any request drains those passed through in compatibility
format too (20 R569, 70 R1489, log 15). -/
def Obligations.InterruptCacheInvalidate : Prop :=
  ∀ (s : State) (g : Bool) (im : BitVec 5) (iidx : BitVec 16),
    ∃ t, exec (.iecInvDsc g im iidx) s = .next t ∧
      t = { s with
            iq := s.movedHead, caches := { s.caches with iec := t.caches.iec }, mem := t.mem, wbuf := t.wbuf
            intrFlight := [], out := (s.intrFlight.map (fun d => Out.interrupt d.msg)).reverse ++ s.out } ∧
      (∀ e ∈ t.caches.iec, e ∈ s.caches.iec ∧ g = true ∧ e.index.toNat / 2 ^ im.toNat ≠ iidx.toNat / 2 ^ im.toNat) ∧
      (s.choice.coarser = 0 → g = true → im.toNat ≤ s.caps.mhmv → ∀ e ∈ s.caches.iec,
        e.index.toNat / 2 ^ im.toNat ≠ iidx.toNat / 2 ^ im.toNat → e ∈ t.caches.iec) ∧
      flushed s t

/-- dev_tlb_inv_dsc and p_dev_tlb_inv_dsc send an invalidation request under a free ITag, or wait for one (40 R926, R927,
R935); which free ITag is the unit's choice (log 6). -/
def Obligations.DeviceTlbInvalidates : Prop :=
  (∀ (s : State) (sid : SourceId) (mip : BitVec 5) (pfsid : SourceId) (sz : Bool) (addr : BitVec 52),
    s.caps.dt = true → (s.caps.dit = true ∨ pfsid = 0) → s.onlySent →
    (∀ k, s.freeTag = some k →
      k < s.plat.numItag ∧ k < 32 ∧ (∀ x ∈ s.itags, x.tag ≠ k) ∧
      exec (.devTlbInvDsc sid mip pfsid sz addr) s = .next { s with
        iq := s.movedHead, iqPend := s.iqPend ++ [.sent k], itags := s.itags ++ [ITag.mk k sid 0]
        out := .invRequest { sid := sid, pasid := none, allPasids := false, sz := sz, addr := addr } k :: s.out }) ∧
    (s.freeTag = none →
      (∀ k, k < s.plat.numItag → k < 32 → ∃ x ∈ s.itags, x.tag = k) ∧
      exec (.devTlbInvDsc sid mip pfsid sz addr) s = .next { s with
        iq := s.movedHead
        iqPend := s.iqPend ++ [.unsent { sid := sid, pasid := none, allPasids := false, sz := sz, addr := addr }] })) ∧
  (∀ (s : State) (mip : BitVec 5) (pfsid sid : SourceId) (pasid : Pasid) (g sz : Bool) (addr : BitVec 52),
    s.caps.dt = true → s.latchedRt.ttm ≠ 0 → (s.caps.dit = true ∨ pfsid = 0) → s.onlySent →
    (∀ k, s.freeTag = some k →
      exec (.pDevTlbInvDsc mip pfsid sid pasid g sz addr) s = .next { s with
        iq := s.movedHead, iqPend := s.iqPend ++ [.sent k], itags := s.itags ++ [ITag.mk k sid 0]
        out := .invRequest { sid := sid, pasid := if g then none else some pasid, allPasids := g, sz := sz,
                             addr := addr } k :: s.out }) ∧
    (s.freeTag = none →
      exec (.pDevTlbInvDsc mip pfsid sid pasid g sz addr) s = .next { s with
        iq := s.movedHead
        iqPend := s.iqPend ++ [.unsent { sid := sid, pasid := if g then none else some pasid, allPasids := g, sz := sz,
                                         addr := addr }] }))

/-- An inv_wait_dsc with nothing ahead of it completes: status write, then IWC and its event; behind Device-TLB invalidations
that have been sent it waits and does nothing else; one whose status address is not memory is refused: undefined behaviour (40
R930, R940 e; the refusal: log 21; the write snoops: 20 R525; little-endian: log 9; that it goes behind the buffered software
stores, which it brings to memory: log 16). -/
def Obligations.WaitCompletesOrWaits : Prop :=
  (∀ (s : State) (iflag sw fn pd : Bool) (data : BitVec 32) (saddr : BitVec 62),
    s.iqPend = [] → s.fsts.ite = false → (pd = true → s.caps.pds = true) → s.quiet .inv → s.memoryForm →
    (sw = true → s.writable (4 * saddr.toNat) 4 = true) →
    ∃ t, exec (.invWaitDsc iflag sw fn pd data saddr) s = .next t ∧
      t = { s with
            iq := s.movedHead, iwc := s.iwc || iflag, invEv := t.invEv, mem := t.mem, wbuf := t.wbuf, out := t.out
            bus := (if sw then [{ kind := .write, addr := 4 * saddr.toNat, size := 4, snoop := true, mt := .wb }] else [])
                   ++ s.bus } ∧
      (if iflag = true then raised s t .inv s.iwc else t.invEv = s.invEv ∧ t.out = s.out) ∧
      (if sw = true then
        readNat t.mem (4 * saddr.toNat) 4 = data.toNat ∧ t.wbuf = [] ∧ sameOutside s t (4 * saddr.toNat) 4
      else t.wbuf = s.wbuf ∧ sameMemory s t)) ∧
  (∀ (s : State) (iflag sw fn pd : Bool) (data : BitVec 32) (saddr : BitVec 62),
    s.onlySent → s.iqPend ≠ [] → (pd = true → s.caps.pds = true) →
    (sw = true → rangeIsMemory s.plat (4 * saddr.toNat) 4 = true) →
    exec (.invWaitDsc iflag sw fn pd data saddr) s = .next { s with
      iq := s.movedHead, iqPend := s.iqPend ++ [.wait iflag sw fn pd data saddr] }) ∧
  (∀ (s : State) (iflag fn pd : Bool) (data : BitVec 32) (saddr : BitVec 62),
    (pd = true → s.caps.pds = true) → rangeIsMemory s.plat (4 * saddr.toNat) 4 = false →
    exec (.invWaitDsc iflag true fn pd data saddr) s = .refused .statusAddrNotMemory)

/-- page_grp_resp_dsc sends its message and changes nothing else (45 R1195). That a reserved Response Code, 2h to Eh, is sent on
unchanged is the spec's decision D36 (DEDUCED, log 40). -/
def Obligations.PageGroupResponse : Prop :=
  ∀ (s : State) (pp : Bool) (rc : BitVec 4) (rid : SourceId) (pasid : Pasid) (prgi : BitVec 9),
    s.latchedRt.ttm ≠ 0 → s.onlySent →
    exec (.pageGrpRespDsc pp rc rid pasid prgi) s = .next { s with
      iq := s.movedHead
      out := .pageResp { rid := rid, pp := pp, pasid := if pp then pasid else 0, prgi := prgi, rc := rc } :: s.out }

/-- A valid invalidation completion counts at every ITag it names, and the last one expected frees the ITag and completes its
descriptor; one that names an ITag not allocated to the device is dropped and sets ICE; with translation off it is an
Unsupported Request (43 R1085; 40 R915). It comes behind everything the device stored before it: these requests reach their
destinations first, in the order they were forwarded (70 R1491; 20 R572, the spec's decision D5, log 5). On a unit without
Device-TLBs ICE is reserved (11 R250), and that nothing at all happens there is the model's reading (DEDUCED, log 38). -/
def Obligations.InvalidationCompletions : Prop :=
  (∀ (s : State) (sid : SourceId) (vec : BitVec 32) (cc : BitVec 3),
    s.gsts.tes = true → s.storesNone sid → s.onlySent →
    (∀ k < 32, bitAt vec k = true → ∃ x ∈ s.itags, x.tag = k ∧ x.sid = sid) →
    ∃ t, exec (.invalidationCompletion sid vec cc) s = .next t ∧
      t = { s with itags := t.itags, iqPend := t.iqPend } ∧
      (∀ x, x ∈ t.itags ↔ ∃ y ∈ s.itags, (bitAt vec y.tag = false ∧ x = y) ∨
        (bitAt vec y.tag = true ∧ y.cnt + 1 ≠ (if cc = 0 then 8 else cc.toNat) ∧ x = { y with cnt := y.cnt + 1 })) ∧
      (∀ p, p ∈ t.iqPend ↔ p ∈ s.iqPend ∧ ¬ ∃ y ∈ s.itags, p = .sent y.tag ∧ bitAt vec y.tag = true ∧
        y.cnt + 1 = (if cc = 0 then 8 else cc.toNat))) ∧
  (∀ (s : State) (sid : SourceId) (vec : BitVec 32) (cc : BitVec 3),
    (s.gsts.tes = false → exec (.invalidationCompletion sid vec cc) s = .next { s with
      out := .respond sid .ur :: s.out }) ∧
    (s.gsts.tes = true → s.storesNone sid → s.quiet .fault →
      (∃ k < 32, bitAt vec k = true ∧ ∀ x ∈ s.itags, ¬ (x.tag = k ∧ x.sid = sid)) →
      (s.caps.dt = false → exec (.invalidationCompletion sid vec cc) s = .next s) ∧
      (s.caps.dt = true → ∃ t, exec (.invalidationCompletion sid vec cc) s = .next t ∧
        t = { s with
              iqercd := s.detail { s.iqercd with icesid := if s.fsts.ice = true then s.iqercd.icesid else sid }
              fsts := { s.fsts with ice := true }, faultEv := t.faultEv, out := t.out } ∧
        raised s t .fault s.faultStatusAny))) ∧
  (∀ (s : State) (sid : SourceId) (vec : BitVec 32) (cc : BitVec 3), s.gsts.tes = true →
    ∃ w t, observedAll (s.inFlight.filter (storedBy sid))
        { s with inFlight := s.inFlight.filter (fun f => !storedBy sid f) } w ∧
      exec (.invalidationCompletion sid vec cc) s = .next t ∧ exec (.invalidationCompletion sid vec cc) w = .next t)

/-- The completion of the last Device-TLB invalidation ahead of a wait completes the wait: its status write is made
(40 R930, R942; 43 R1085; 20 R525; little-endian: log 9; behind the buffered software stores: log 16). -/
def Obligations.CompletionReleasesWait : Prop :=
  ∀ (s : State) (sid : SourceId) (vec : BitVec 32) (cc : BitVec 3) (k n : Nat) (fn pd : Bool) (data : BitVec 32)
    (saddr : BitVec 62),
    s.gsts.tes = true → s.storesNone sid → s.fsts.ite = false → s.memoryForm →
    s.itags = [ITag.mk k sid n] → s.iqPend = [.sent k, .wait false true fn pd data saddr] →
    (∀ j < 32, bitAt vec j = true ↔ j = k) → k < 32 → n + 1 = (if cc = 0 then 8 else cc.toNat) →
    s.writable (4 * saddr.toNat) 4 = true →
    ∃ t, exec (.invalidationCompletion sid vec cc) s = .next t ∧
      t = { s with
            itags := [], iqPend := [], mem := t.mem, wbuf := []
            bus := { kind := .write, addr := 4 * saddr.toNat, size := 4, snoop := true, mt := .wb } :: s.bus } ∧
      readNat t.mem (4 * saddr.toNat) 4 = data.toNat ∧ sameOutside s t (4 * saddr.toNat) 4

/-- A descriptor with a reserved granularity, or with a field that is reserved on the unit, is a queue error 4 (the code for a
granularity: log 24); one whose type is not valid in the mode or on the unit is a queue error 3; the head stays (40 R906,
R907, R915). -/
def Obligations.DescriptorQueueErrors : Prop :=
  (∀ s : State, s.quiet .fault →
    (∀ did sid fm, ∃ t, exec (.ccInvDsc 0 did sid fm) s = .next t ∧ queueError s t 4) ∧
    (∀ g dw dr did am ih addr, (g = 0 ∨ (g = 3 ∧ s.caps.psi = false)) →
      ∃ t, exec (.iotlbInvDsc g dw dr did am ih addr) s = .next t ∧ queueError s t 4) ∧
    (∀ g did pasid am ih addr, s.latchedRt.ttm ≠ 0 → (g = 0 ∨ g = 1) →
      ∃ t, exec (.pIotlbInvDsc g did pasid am ih addr) s = .next t ∧ queueError s t 4) ∧
    (∀ did pasid, s.latchedRt.ttm ≠ 0 → ∃ t, exec (.pcInvDsc 2 did pasid) s = .next t ∧ queueError s t 4) ∧
    (∀ sid mip pfsid sz addr, s.caps.dt = true → s.caps.dit = false → pfsid ≠ 0 →
      ∃ t, exec (.devTlbInvDsc sid mip pfsid sz addr) s = .next t ∧ queueError s t 4) ∧
    (∀ mip pfsid sid pasid g sz addr, s.caps.dt = true → s.latchedRt.ttm ≠ 0 → s.caps.dit = false → pfsid ≠ 0 →
      ∃ t, exec (.pDevTlbInvDsc mip pfsid sid pasid g sz addr) s = .next t ∧ queueError s t 4) ∧
    (∀ iflag sw fn data saddr, s.caps.pds = false →
      ∃ t, exec (.invWaitDsc iflag sw fn true data saddr) s = .next t ∧ queueError s t 4)) ∧
  (∀ s : State, s.quiet .fault →
    (s.latchedRt.ttm = 0 →
      (∀ g did pasid am ih addr, ∃ t, exec (.pIotlbInvDsc g did pasid am ih addr) s = .next t ∧ queueError s t 3) ∧
      (∀ g did pasid, ∃ t, exec (.pcInvDsc g did pasid) s = .next t ∧ queueError s t 3) ∧
      (∀ mip pfsid sid pasid g sz addr,
        ∃ t, exec (.pDevTlbInvDsc mip pfsid sid pasid g sz addr) s = .next t ∧ queueError s t 3) ∧
      (∀ pp rc rid pasid prgi, ∃ t, exec (.pageGrpRespDsc pp rc rid pasid prgi) s = .next t ∧ queueError s t 3)) ∧
    (s.caps.dt = false →
      (∀ sid mip pfsid sz addr, ∃ t, exec (.devTlbInvDsc sid mip pfsid sz addr) s = .next t ∧ queueError s t 3) ∧
      (∀ mip pfsid sid pasid g sz addr,
        ∃ t, exec (.pDevTlbInvDsc mip pfsid sid pasid g sz addr) s = .next t ∧ queueError s t 3)))

/-- No descriptor is fetched while the queue is off or empty, an IQE or ITE is pending, or a fence waits (40 R902, R904, R940
f), the head of a queue of 256-bit descriptors being even (11 R280); the queue-level errors at a fetch come in their order (40
R905; the order: the spec's decision D23). A descriptor that cannot be read is a queue error 2 (40 R903); one of a type that the
latched mode or the unit does not know is a queue error 3 (40 R906), and one with a bit set that the layout of its type does not
assign a queue error 4 (40 R907; 30 R863: that every such bit is checked is the spec's decision D20, log 24). The read is
little-endian (decision D3, log 9) and comes behind the buffered software stores (log 16). -/
def Obligations.FetchConditions : Prop :=
  (∀ (s u : State) (c : Choice), s.nextEvent .iqTurn c u →
    (u.advance.gsts.qies = false ∨ u.advance.headUnit = u.advance.iq.qt.toNat ∨ u.advance.fsts.iqe = true ∨
      u.advance.fsts.ite = true ∨ ∃ p ∈ u.advance.iqPend, p.isFence = true) →
    step s = .next u.advance) ∧
  (∀ (s u : State) (c : Choice), s.nextEvent .iqTurn c u →
    u.iqPend = [] → u.gsts.qies = true → u.headUnit ≠ u.iq.qt.toNat → u.fsts.iqe = false → u.fsts.ite = false →
    u.quiet .fault →
    ((u.iq.dw = true ∧ bitAt u.iq.qt 0 = true) → ∃ t, step s = .next t ∧ queueError u t 6) ∧
    (¬ (u.iq.dw = true ∧ bitAt u.iq.qt 0 = true) →
      (2 ^ (u.iq.qs.toNat + 8) ≤ u.iq.qt.toNat → ∃ t, step s = .next t ∧ queueError u t 1) ∧
      (u.iq.qt.toNat < 2 ^ (u.iq.qs.toNat + 8) →
        ((u.latchedRt.ttm = 2 ∨ (u.latchedRt.ttm = 1 ∧ u.caps.smts = false) ∨
            (u.latchedRt.ttm = 3 ∧ u.caps.adms = false)) → ∃ t, step s = .next t ∧ queueError u t 7) ∧
        (((u.latchedRt.ttm = 1 ∧ u.caps.smts = true) ∨ (u.latchedRt.ttm = 3 ∧ u.caps.adms = true)) →
          u.iq.dw = false → ∃ t, step s = .next t ∧ queueError u t 5) ∧
        (u.latchedRt.ttm = 0 → u.iq.dw = true → u.caps.smts = false → u.caps.adms = false →
          ∃ t, step s = .next t ∧ queueError u t 5)))) ∧
  (∀ (s u : State) (c : Choice) (w : BitVec 256), s.nextEvent .iqTurn c u →
    u.iqPend = [] → u.canFetch = true → queueRegError u = none → u.quiet .fault → u.quiet .perf →
    w = BitVec.ofNat 256 (readNat u.flush.mem u.headAddr u.dscBytes) →
    ∃ v, onlyCounted { u with bus := busRead u.headAddr u.dscBytes true :: u.bus } v ∧
      (u.readable u.headAddr u.dscBytes = false → ∃ t, step s = .next t ∧ queueError v t 2) ∧
      (u.readable u.headAddr u.dscBytes = true →
        (u.unknownType (descriptorType w) → ∃ t, step s = .next t ∧ queueError v t 3) ∧
        (¬ u.unknownType (descriptorType w) → reservedBitSet (descriptorType w) w →
          ∃ t, step s = .next t ∧ queueError v t 4)))

/-- A time-out of an outstanding Device-TLB invalidation frees its ITag, sets ITE and aborts the waits (40 R915, R935; that
the waits are the only descriptors dropped here: no other is pending). -/
def Obligations.TimeoutAbortsWaits : Prop :=
  ∀ (s u : State) (c : Choice) (k : Nat) (sid : SourceId) (n : Nat), s.nextEvent (.devTlbTimeout k) c u →
    u.itags = [ITag.mk k sid n] → (∀ p ∈ u.iqPend, p = .sent k ∨ p.isWait = true) → u.quiet .fault →
    ∃ t, step s = .next t ∧
      t = { u with
            itags := [], iqPend := []
            iqercd := u.detail { u.iqercd with itesid := if u.fsts.ite = true then u.iqercd.itesid else sid }
            fsts := { u.fsts with ite := true }, faultEv := t.faultEv, out := t.out } ∧
      raised u t .fault u.faultStatusAny

/-! ## Register commands -/

/-- TE 0 to 1 drains every request in flight, so that each reaches its destination, then sets TES (41 R951; 70 R1485; in the order
they were forwarded: the model's choice, log 5); TE 1 to 0 clears TES, empties the DMA translation caches of a unit with SMTS, and
resets the fault index if IRES is clear (41 R952; that it drains nothing: log 15; that it completes ahead of other commands still
pending: DESIGN CHOICE, log 20). -/
def Obligations.TranslationEnableDisable : Prop :=
  (∀ s : State, s.atOnce → ∃ w, observedAll s.inFlight { s with inFlight := [] } w ∧
    exec .gcmdTeEnable s = .next { w with gsts := { w.gsts with tes := true } }) ∧
  (∀ s : State, s.atOnce → exec .gcmdTeDisable s = .next { s with
    gsts := { s.gsts with tes := false }
    caches := if s.caps.smts = true then { s.caches with ctx := [], pasid := [], iotlb := [], psc := [] } else s.caches
    faultIdx := if s.gsts.ires = true then s.faultIdx else 0 })

/-- SRTP latches RTADDR_REG, empties the DMA translation caches of a unit with ESRTPS, and sets RTPS; a change of mode the
source forbids is refused (41 R955; 70 R1483; the refusal: log 21). That it completes ahead of other commands still pending is
the model's choice (DESIGN CHOICE, log 20). -/
def Obligations.SetRootTablePointer : Prop :=
  ∀ s : State, s.atOnce →
    ((s.gsts.tes = false ∨ s.caps.esrtps = true ∨ s.rtaddr.ttm = s.latchedRt.ttm ∨
        (s.caches.ctx = [] ∧ s.caches.pasid = [] ∧ s.caches.iotlb = [] ∧ s.caches.psc = [])) →
      exec .gcmdSrtp s = .next { s with
        latchedRt := s.rtaddr, gsts := { s.gsts with rtps := true }
        caches := if s.caps.esrtps = true then { s.caches with ctx := [], pasid := [], iotlb := [], psc := [] }
                  else s.caches }) ∧
    (¬ (s.gsts.tes = false ∨ s.caps.esrtps = true ∨ s.rtaddr.ttm = s.latchedRt.ttm ∨
        (s.caches.ctx = [] ∧ s.caches.pasid = [] ∧ s.caches.iotlb = [] ∧ s.caches.psc = [])) →
      exec .gcmdSrtp s = .refused .ttmChangedWhileActive)

/-- QIE, IRE, SIRTP and CFI on a unit with the function (41 R958, R959, R960, R964). That QIE's disable drops the pending
descriptors and frees the ITags is the model's choice (decision U21, log 22), and so is that IRE's disable drains nothing and
its enable also the interrupts passed through in compatibility format (20 R569, 70 R1489, log 15), and that a command completes
ahead of others still pending (log 20). -/
def Obligations.QueueAndInterruptCommands : Prop :=
  (∀ s : State, s.atOnce → s.caps.qi = true →
    exec .gcmdQieEnable s = .next { s with gsts := { s.gsts with qies := true } } ∧
    exec .gcmdQieDisable s = .next { s with
      iq := { s.iq with qh := 0 }, iqPend := [], itags := [], gsts := { s.gsts with qies := false } }) ∧
  (∀ s : State, s.atOnce → s.caps.ir = true →
    exec .gcmdIreEnable s = .next { s with
      gsts := { s.gsts with ires := true }, intrFlight := []
      out := (s.intrFlight.map (fun d => Out.interrupt d.msg)).reverse ++ s.out } ∧
    exec .gcmdIreDisable s = .next { s with
      gsts := { s.gsts with ires := false }
      caches := if s.caps.esirtps = true then { s.caches with iec := [] } else s.caches
      faultIdx := if s.gsts.tes = true then s.faultIdx else 0 } ∧
    exec .gcmdSirtp s = .next { s with
      latchedIr := s.irta, gsts := { s.gsts with irtps := true }
      caches := if s.caps.esirtps = true then { s.caches with iec := [] } else s.caches } ∧
    exec .gcmdCfiSet s = .next { s with gsts := { s.gsts with cfis := true } } ∧
    exec .gcmdCfiClear s = .next { s with gsts := { s.gsts with cfis := false } })

/-- WBF brings every buffered software store to memory (41 R962; 20 R535), oldest first, so that of two stores to one byte the
younger stays: an order the rules do not state (DEDUCED, log 16). A store waits and goes in pieces: an aligned one of 64 or
128 bits is one piece, so that the unit reads an entry written so whole (20 R511), and a piece that goes changes its own bytes
alone. That WBF completes ahead of other commands still pending is the model's choice (DESIGN CHOICE, log 20). -/
def Obligations.WriteBufferFlush : Prop :=
  (∀ s : State, s.atOnce → s.caps.rwbf = true → ∃ t, exec .gcmdWbf s = .next t ∧
    t = { s with gsts := { s.gsts with wbfs := false }, mem := t.mem, wbuf := [] } ∧
    (∀ a, keepsByte s t a) ∧ (s.memoryForm → t.memoryForm)) ∧
  (∀ (s : State) (a : Nat) (bs : List Byte), s.caps.rwbf = true → s.choice.defer = true →
    rangeIsMemory s.plat a bs.length = true → bs.length = 8 ∨ bs.length = 16 → a % bs.length = 0 →
    s.process (.memStore a bs) = .next { s with wbuf := s.wbuf ++ [{ addr := a, data := bs }] }) ∧
  ∀ (s : State) (p : StorePiece) (r : List StorePiece), s.wbuf = p :: r → ∃ t, s.process .drainStore = .next t ∧
    t = { s with mem := t.mem, wbuf := r } ∧ (s.memoryForm → readBytes t.mem p.addr p.data.length = p.data) ∧
    ∀ a, ¬ p.names a → readByte t.mem a = readByte s.mem a

/-- A command bit whose function the unit does not support is ignored (41 R950, R980). -/
def Obligations.UnsupportedCommandIgnored : Prop :=
  ∀ s : State,
    (s.caps.rwbf = false → exec .gcmdWbf s = .next s) ∧
    (s.caps.qi = false → exec .gcmdQieEnable s = .next s ∧ exec .gcmdQieDisable s = .next s) ∧
    (s.caps.ir = false → exec .gcmdIreEnable s = .next s ∧ exec .gcmdIreDisable s = .next s ∧
      exec .gcmdSirtp s = .next s ∧ exec .gcmdCfiSet s = .next s ∧ exec .gcmdCfiClear s = .next s) ∧
    (s.caps.plmr = false → s.caps.phmr = false →
      exec .pmenEpmEnable s = .next s ∧ exec .pmenEpmDisable s = .next s)

/-- CCMD_REG.ICC invalidates at the requested or a coarser granularity and reports it; an incorrect request is ignored and
reported (41 R970; CIRG=00b and the latched mode as the test: the spec's decisions D6 and D15; a request while queued
invalidation is on: its decision D26, 41 R974; that it completes ahead of other commands still pending: DESIGN CHOICE, log 20). -/
def Obligations.ContextCommand : Prop :=
  ∀ (s : State) (cirg : BitVec 2) (sid : SourceId) (did : DomainId) (fm : BitVec 2), s.atOnce →
    ((6 ≤ s.caps.verMax ∨ s.latchedRt.ttm ≠ 0 ∨ cirg = 0 ∨ s.gsts.qies = true) →
      exec (.ccmdIcc cirg sid did fm) s = .next { s with
        ccmd := { icc := false, cirg := cirg, caig := 0, fm := fm, sid := sid, did := did } }) ∧
    (¬ (6 ≤ s.caps.verMax ∨ s.latchedRt.ttm ≠ 0 ∨ cirg = 0 ∨ s.gsts.qies = true) →
      ∃ t, exec (.ccmdIcc cirg sid did fm) s = .next t ∧
        t = { s with
              ccmd := { icc := false, cirg := cirg, caig := t.ccmd.caig, fm := fm, sid := sid, did := did }
              caches := { s.caches with ctx := t.caches.ctx }, mem := t.mem, wbuf := t.wbuf } ∧
        1 ≤ t.ccmd.caig.toNat ∧ t.ccmd.caig.toNat ≤ cirg.toNat ∧
        t.caches.ctx =
          s.caches.ctx.filter (fun e => !ctxMatches false t.ccmd.caig.toNat (s.caps.maskDid did) sid fm e) ∧
        flushed s t)

/-- IOTLB_REG.IVT flushes the write buffer of a unit that has one (41 R962), invalidates at the requested or a coarser
granularity, drains and reports; an incorrect request is ignored and reported (41 R972; IIRG=00b and the latched mode as the test:
the spec's decisions D6 and D15; a request while queued invalidation is on: its decision D26, 41 R974). The drained reads, writes
or both, as the unit supports it, reach their destinations, and Major Version 2 or higher drains both whether or not it is asked
to (70 R1485, R1486). That the drain takes every request of its kind at every granularity is the model's choice (log 15), and so
are their order (20 R572, the spec's decision D5, log 5) and that the command completes ahead of others still pending (log
20). -/
def Obligations.IotlbCommand : Prop :=
  ∀ (s : State) (iirg : BitVec 2) (dr dw : Bool) (did : DomainId) (reads writes : Bool), s.atOnce →
    reads = (decide (2 ≤ s.caps.verMax) || (dr && s.caps.drd)) →
    writes = (decide (2 ≤ s.caps.verMax) || (dw && s.caps.dwd)) →
    ((6 ≤ s.caps.verMax ∨ s.latchedRt.ttm ≠ 0 ∨ iirg = 0 ∨ s.gsts.qies = true ∨
        (iirg = 3 ∧ s.caps.psi = true ∧ s.caps.mamv < s.iva.am.toNat)) →
      exec (.iotlbIvt iirg dr dw did) s = .next { s with
        iotlbReg := { ivt := false, iirg := iirg, iaig := 0, dr := dr, dw := dw, did := did } }) ∧
    (¬ (6 ≤ s.caps.verMax ∨ s.latchedRt.ttm ≠ 0 ∨ iirg = 0 ∨ s.gsts.qies = true ∨
        (iirg = 3 ∧ s.caps.psi = true ∧ s.caps.mamv < s.iva.am.toNat)) →
      ∃ t u w, exec (.iotlbIvt iirg dr dw did) s = .next t ∧
        u = { s with
              iotlbReg := { ivt := true, iirg := iirg, iaig := s.iotlbReg.iaig, dr := dr, dw := dw, did := did }
              caches := { s.caches with iotlb := u.caches.iotlb, psc := u.caches.psc }
              inFlight := s.inFlight.filter (fun f => !drains reads writes f), mem := u.mem, wbuf := u.wbuf } ∧
        flushed s u ∧
        observedAll (s.inFlight.filter (drains reads writes)) u w ∧
        t = { w with
              iotlbReg := { ivt := false, iirg := iirg, iaig := t.iotlbReg.iaig, dr := dr, dw := dw, did := did } } ∧
        1 ≤ t.iotlbReg.iaig.toNat ∧
        t.iotlbReg.iaig.toNat ≤ (if s.caps.psi = true then iirg.toNat else min iirg.toNat 2) ∧
        u.caches.iotlb = s.caches.iotlb.filter (fun e => !iotlbMatches (s.caps.mgaw + 1) t.iotlbReg.iaig.toNat
          (s.caps.maskDid did) (pageAddr s.iva.addr).toNat s.iva.am.toNat e) ∧
        (∀ e ∈ u.caches.psc, e ∈ s.caches.psc ∧ pscMatches (s.caps.mgaw + 1) t.iotlbReg.iaig.toNat
          (s.caps.maskDid did) (pageAddr s.iva.addr).toNat s.iva.am.toNat s.iva.ih e = false))

/-- PMEN_REG.EPM: enabling drains every request in flight, so that each reaches its destination, and sets PRS; disabling clears
it (41 R980; 70 R1485; PRS as the state that makes the check effective is the spec's reading). A write of the value that PRS
already shows submits nothing (41 R965). That it completes ahead of other commands still pending is the model's choice (DESIGN
CHOICE, log 20). -/
def Obligations.ProtectedMemoryEnable : Prop :=
  ∀ s : State, (s.caps.plmr = true ∨ s.caps.phmr = true) →
    (s.atOnce → s.pmr.prs = false → ∃ w, exec .pmenEpmEnable s = .next { w with pmr := { w.pmr with prs := true } } ∧
      observedAll s.inFlight { s with inFlight := [], pmr := { s.pmr with epm := true } } w) ∧
    (s.pmr.prs = true → exec .pmenEpmEnable s = .next { s with pmr := { s.pmr with epm := true } }) ∧
    (s.atOnce → s.pmr.prs = true → exec .pmenEpmDisable s = .next { s with pmr := { s.pmr with epm := false, prs := false } }) ∧
    (s.pmr.prs = false → exec .pmenEpmDisable s = .next { s with pmr := { s.pmr with epm := false } })

/-- Command 240 enables a counter if the enable checks pass, else answers 16 (41 R986); 242 and 243 reset the configuration of
all counters, keeping their values, and the values, keeping the rest (41 R988, R989); 244 and 245 set and clear every freeze bit
(41 R990, R991). That they complete ahead of pending commands of registers other than GCMD_REG and PMEN_REG is the model's choice
(DESIGN CHOICE, log 20). -/
def Obligations.EnhancedCounterCommands : Prop :=
  (∀ (s : State) (c : BitVec 48), s.ecmdReady → bitAt s.caps.eccap1 112 = true →
    (perfEnableChecks s c.toNat = true → exec (.ecmdEnable c) s = .next { s with
      ecmd := s.ecmdAfter 240 c 0
      perf := { s.perf with counters := s.perf.counters.modify c.toNat (fun p => { p with en := true }) } }) ∧
    (perfEnableChecks s c.toNat = false → exec (.ecmdEnable c) s = .next { s with ecmd := s.ecmdAfter 240 c 16 })) ∧
  (∀ (s : State) (oa : BitVec 48), s.ecmdReady →
    (bitAt s.caps.eccap1 114 = true → exec (.ecmdResetConfig oa) s = .next { s with
      ecmd := s.ecmdAfter 242 oa 0
      perf := { s.perf with counters := s.perf.counters.map (fun p =>
        { es := 0, egi := 0, gfo := false, io := false, en := false, ridEn := false, rid := 0, didEn := false, did := 0,
          pasidEn := false, pfm := 0, pasid := 0, atEn := false, atBits := 0, ptlEn := false, ptl := 0,
          frozen := false, overflow := false, value := p.value }) } }) ∧
    (bitAt s.caps.eccap1 115 = true → exec (.ecmdResetValues oa) s = .next { s with
      ecmd := s.ecmdAfter 243 oa 0
      perf := { s.perf with counters := s.perf.counters.map (fun p => { p with value := 0 }) } })) ∧
  (∀ (s : State) (oa : BitVec 48), s.ecmdReady →
    (bitAt s.caps.eccap1 116 = true → exec (.ecmdFreeze oa) s = .next { s with
      ecmd := s.ecmdAfter 244 oa 0
      perf := { s.perf with counters := s.perf.counters.map (fun p => { p with frozen := true }) } }) ∧
    (bitAt s.caps.eccap1 117 = true → exec (.ecmdUnfreeze oa) s = .next { s with
      ecmd := s.ecmdAfter 245 oa 0
      perf := { s.perf with counters := s.perf.counters.map (fun p => { p with frozen := false }) } }))

/-- Command 241, with no other command pending (70 R1480), disables a counter and clears its freeze bit, or answers 16 for a
number that is no counter (41 R987). -/
def Obligations.EnhancedDisable : Prop :=
  ∀ (s : State) (c : BitVec 48), s.ecmdReady → s.pendCmds = [] → bitAt s.caps.eccap1 113 = true →
    (s.caps.ncntr ≤ c.toNat → exec (.ecmdDisable c) s = .next { s with ecmd := s.ecmdAfter 241 c 16 }) ∧
    (c.toNat < s.caps.ncntr → exec (.ecmdDisable c) s = .next { s with
      ecmd := s.ecmdAfter 241 c 0
      perf := { s.perf with
        counters := s.perf.counters.modify c.toNat (fun p => { p with en := false, frozen := false }) } })

/-- The reserved enhanced commands, and the defined ones that ECCAP_REG_1 does not report, complete with status 1 and no
other effect, with no other command pending (41 R992; 70 R1480). -/
def Obligations.EnhancedReserved : Prop :=
  ∀ (s : State) (oa : BitVec 48), s.ecmdReady → s.pendCmds = [] →
    (∀ cmd : BitVec 8, (cmd < 240 ∨ 245 < cmd) →
      exec (.ecmdReserved cmd oa) s = .next { s with ecmd := s.ecmdAfter cmd oa 1 }) ∧
    (bitAt s.caps.eccap1 112 = false → exec (.ecmdEnable oa) s = .next { s with ecmd := s.ecmdAfter 240 oa 1 }) ∧
    (bitAt s.caps.eccap1 113 = false → exec (.ecmdDisable oa) s = .next { s with ecmd := s.ecmdAfter 241 oa 1 }) ∧
    (bitAt s.caps.eccap1 114 = false → exec (.ecmdResetConfig oa) s = .next { s with ecmd := s.ecmdAfter 242 oa 1 }) ∧
    (bitAt s.caps.eccap1 115 = false → exec (.ecmdResetValues oa) s = .next { s with ecmd := s.ecmdAfter 243 oa 1 }) ∧
    (bitAt s.caps.eccap1 116 = false → exec (.ecmdFreeze oa) s = .next { s with ecmd := s.ecmdAfter 244 oa 1 }) ∧
    (bitAt s.caps.eccap1 117 = false → exec (.ecmdUnfreeze oa) s = .next { s with ecmd := s.ecmdAfter 245 oa 1 })

/-- The virtual commands (41 R994 to R996): Null answers 0; Allocate hands out a free PASID or answers 16; Free takes back a
PASID that was handed out, and answers 16 for any other (the spec's decision D28, log 29). Allocate and Free exist only on a
unit with PASIDs (12 R483). That they complete ahead of commands of other registers still pending is the model's choice (DESIGN
CHOICE, log 20). A write of a command code that the source reserves, 3 to 255, completes with status 1,
and its operand field reads back; deferred, it is in progress until its completion (R994; 70 R1500). -/
def Obligations.VirtualCommands : Prop :=
  (∀ (s : State) (oa : BitVec 48), s.caps.vcs = true → s.vcmd.ip = false → s.atOnce →
    (bitAt s.caps.vccap 0 = true → exec (.vcmdNull oa) s = .next { s with vcmd := s.vcmdAfter 0 oa 0 0 }) ∧
    (bitAt s.caps.vccap 1 = true → s.caps.pasids = true →
      (s.vcmd.free = [] → exec (.vcmdAllocate oa) s = .next { s with vcmd := s.vcmdAfter 1 oa 16 0 }) ∧
      (s.vcmd.free ≠ [] → ∃ (p : Pasid) (rest : List Pasid),
        s.vcmd.free.Perm (p :: rest) ∧ exec (.vcmdAllocate oa) s = .next { s with
          vcmd := { s.vcmdAfter 1 oa 0 (p.setWidth 48) with free := rest, allocated := p :: s.vcmd.allocated } })) ∧
    (bitAt s.caps.vccap 2 = true → s.caps.pasids = true →
      (field oa 0 20 ∉ s.vcmd.allocated → exec (.vcmdFree oa) s = .next { s with vcmd := s.vcmdAfter 2 oa 16 0 }) ∧
      (field oa 0 20 ∈ s.vcmd.allocated → exec (.vcmdFree oa) s = .next { s with
        vcmd := { s.vcmdAfter 2 oa 0 0 with
                  free := field oa 0 20 :: s.vcmd.free, allocated := s.vcmd.allocated.erase (field oa 0 20) } })) ∧
    (bitAt s.caps.vccap 0 = false → exec (.vcmdNull oa) s = .next { s with vcmd := s.vcmdAfter 0 oa 1 0 }) ∧
    ((bitAt s.caps.vccap 1 = false ∨ s.caps.pasids = false) →
      exec (.vcmdAllocate oa) s = .next { s with vcmd := s.vcmdAfter 1 oa 1 0 }) ∧
    ((bitAt s.caps.vccap 2 = false ∨ s.caps.pasids = false) →
      exec (.vcmdFree oa) s = .next { s with vcmd := s.vcmdAfter 2 oa 1 0 })) ∧
  ∀ (s u : State) (c : Choice) (n : Nat) (v w : BitVec 64), s.nextEvent (.softWrite 0xE00 n v) c u →
    ((n = 8 ∧ w = v) ∨ (n = 4 ∧ w = field u.vcmd.oa 16 32 ++ field v 0 32)) →
    0 < u.plat.regPages → u.iotlbReg.ivt = false → u.caps.vcs = true → u.vcmd.ip = false → 3 ≤ (field w 0 8).toNat →
    (u.atOnce → step s = .next { u with vcmd := u.vcmdAfter (field w 0 8) (field w 16 48) 1 0 }) ∧
    (u.choice.defer = true → step s = .next (State.pendedAny
      { u with vcmd := { u.vcmd with oa := field w 16 48, cmd := field w 0 8, rslt := 0, sc := 0, ip := true } }
      .reservedVirtual))

/-- While a register command stays pending its status bit is as the protocol says and nothing else has happened (41 R965; 12
R460, R480). Its completion does what the command would have done at once, a Set Pointer command with the pointer register as it
stood at Submit (41 R955, R960, R965), a reserved virtual command with status 1 (41 R994). That a GCMD_REG or PMEN_REG command
joins the list while others are pending, and that the oldest completes first, is the model's choice, and so for a command of any
other register (DESIGN CHOICE, log 20). -/
def Obligations.PendingCommand : Prop :=
  (∀ s : State, s.choice.defer = true →
    (∀ i, (i = .gcmdTeEnable ∨ i = .gcmdTeDisable ∨
        (s.caps.qi = true ∧ (i = .gcmdQieEnable ∨ i = .gcmdQieDisable)) ∨
        (s.caps.ir = true ∧ (i = .gcmdIreEnable ∨ i = .gcmdIreDisable ∨ i = .gcmdCfiSet ∨ i = .gcmdCfiClear))) →
      exec i s = .next (s.pended i)) ∧
    exec .gcmdSrtp s = .next (State.pended
        { s with gsts := { s.gsts with rtps := false } } .gcmdSrtp) ∧
    (s.caps.ir = true →
      exec .gcmdSirtp s = .next (State.pended
        { s with gsts := { s.gsts with irtps := false } } .gcmdSirtp)) ∧
    (s.caps.rwbf = true →
      exec .gcmdWbf s = .next (State.pended
        { s with gsts := { s.gsts with wbfs := true } } .gcmdWbf)) ∧
    ((s.caps.plmr = true ∨ s.caps.phmr = true) →
      (s.pmr.prs = false → exec .pmenEpmEnable s =
        .next (State.pended
        { s with pmr := { s.pmr with epm := true } } .pmenEpmEnable)) ∧
      (s.pmr.prs = true → exec .pmenEpmDisable s =
        .next (State.pended
        { s with pmr := { s.pmr with epm := false } } .pmenEpmDisable))) ∧
    (∀ cirg sid did fm, exec (.ccmdIcc cirg sid did fm) s = .next (State.pended
        { s with ccmd := { icc := true, cirg := cirg, caig := s.ccmd.caig, fm := fm, sid := sid, did := did } }
        (.ccmdIcc cirg sid did fm))) ∧
    (∀ iirg dr dw did, exec (.iotlbIvt iirg dr dw did) s = .next (State.pended
        { s with iotlbReg := { ivt := true, iirg := iirg, iaig := s.iotlbReg.iaig, dr := dr, dw := dw, did := did } }
        (.iotlbIvt iirg dr dw did))) ∧
    (∀ i w, encode i = .ecmd w → s.caps.ecmds = true → s.ecmd.ip = false → exec i s = .next (State.pended
        { s with ecmd := { s.ecmd with oa := field w 16 48, cmd := field w 0 8, rslt := 0, sc := 0, ip := true } } i)) ∧
    (∀ i w, encode i = .vcmd w → s.caps.vcs = true → s.vcmd.ip = false → exec i s = .next (State.pended
        { s with vcmd := { s.vcmd with oa := field w 16 48, cmd := field w 0 8, rslt := 0, sc := 0, ip := true } } i))) ∧
  (∀ (s u b : State) (c : Choice) (i : Instr) (p : PendCmd) (rest : List PendCmd), s.nextEvent .complete c u →
    u.pendCmds = p :: rest → p.cmd = .instr i → b = { u with pendCmds := rest, choice := { u.choice with defer := false } } →
    ((i = .gcmdTeEnable ∨ i = .gcmdTeDisable ∨ (u.caps.rwbf = true ∧ i = .gcmdWbf) ∨
        (u.caps.qi = true ∧ (i = .gcmdQieEnable ∨ i = .gcmdQieDisable)) ∨
        (u.caps.ir = true ∧ (i = .gcmdIreEnable ∨ i = .gcmdIreDisable ∨ i = .gcmdCfiSet ∨
          i = .gcmdCfiClear)) ∨
        ((u.caps.plmr = true ∨ u.caps.phmr = true) ∧
          ((i = .pmenEpmEnable ∧ u.pmr.epm = true ∧ u.pmr.prs = false) ∨
            (i = .pmenEpmDisable ∧ u.pmr.epm = false ∧ u.pmr.prs = true))) ∨
        (u.ccmd.icc = true ∧ i = .ccmdIcc u.ccmd.cirg u.ccmd.sid u.ccmd.did u.ccmd.fm) ∨
        (u.iotlbReg.ivt = true ∧ i = .iotlbIvt u.iotlbReg.iirg u.iotlbReg.dr u.iotlbReg.dw u.iotlbReg.did)) →
      ∃ t, exec i b = .next t ∧ step s = .next { t with choice := u.choice }) ∧
    (∀ w, encode i = .ecmd w → u.caps.ecmds = true → u.ecmd.ip = true →
      u.ecmd.oa = field w 16 48 → u.ecmd.cmd = field w 0 8 →
      ∃ t, exec i { b with ecmd := { b.ecmd with ip := false } } = .next t ∧
        step s = .next { t with choice := u.choice }) ∧
    (∀ w, encode i = .vcmd w → u.caps.vcs = true → u.vcmd.ip = true →
      u.vcmd.oa = field w 16 48 → u.vcmd.cmd = field w 0 8 →
      ∃ t, exec i { b with vcmd := { b.vcmd with ip := false } } = .next t ∧
        step s = .next { t with choice := u.choice }) ∧
    (i = .gcmdSrtp → (u.caps.esrtps = true ∨ u.gsts.tes = false ∨ p.root.ttm = u.latchedRt.ttm) →
      step s = .next { u with
        pendCmds := rest, latchedRt := p.root, gsts := { u.gsts with rtps := true }
        caches := if u.caps.esrtps = true then { u.caches with ctx := [], pasid := [], iotlb := [], psc := [] }
                  else u.caches }) ∧
    (i = .gcmdSirtp → step s = .next { u with
      pendCmds := rest, latchedIr := p.irt, gsts := { u.gsts with irtps := true }
      caches := if u.caps.esirtps = true then { u.caches with iec := [] } else u.caches })) ∧
  (∀ (s u : State) (c : Choice) (p : PendCmd) (rest : List PendCmd), s.nextEvent .complete c u →
    u.pendCmds = p :: rest → p.cmd = .reservedVirtual →
    step s = .next { u with pendCmds := rest, vcmd := { u.vcmd with rslt := 0, sc := 1, ip := false } })

/-! ## Inbound requests -/

/-- With translation off a request outside the interrupt range and the protected ranges goes to the address it names, of any
kind and of any length within a page (one that crosses a page is not well-formed: log 12): a write stores its data, a read, a
zero-length read and an AtomicOp are answered (42 R1001 to R1005, R1032), in this step or, deferred, in the one that commits it; a
posted write of the same source that was forwarded before it goes first (20 R572, as the spec's decision D5 reads it: log 5). That
it passes through is the spec's reading (decision D13: 22 R703, log 18); that it then has no memory type, and is snooped unless it
asks for No-Snoop, is the model's choice (DESIGN CHOICE, log 25); the AtomicOps are PCI Express's (log 11), their values
little-endian (log 9), and the stores go behind the buffered software stores (log 16). A target that is memory only in part counts
as a device (DESIGN CHOICE, log 42). -/
def Obligations.BypassedRequest : Prop :=
  (∀ (s : State) (r : MemReq), (Instr.untranslatedRequest r).wf = true → s.gsts.tes = false →
    inInterruptRange r.addr = false → pmrBlocks s .untranslated r r.addr true = false → s.quiet .perf →
    ∃ v t, exec (.untranslatedRequest r) s = .next t ∧ onlyCounted s v ∧
      passedOn v t { req := r, hpa := r.addr, snoop := !r.ns, mt := none }) ∧
  (∀ (s u : State) (c : Choice) (n : Nat), s.nextEvent (.commit n) c u →
    (∀ f, u.inFlight[n]? = some f → ∃ t, step s = .next t ∧
      observedAll ((u.inFlight.take n).filter (postedBy f.req.sid) ++ [f])
        { u with inFlight :=
            (u.inFlight.take n).filter (fun g => !postedBy f.req.sid g) ++ u.inFlight.drop (n + 1) } t) ∧
    (u.inFlight[n]? = none → step s = .next u))

/-- Protected memory blocks a request with translation off, and memory is untouched (42 R1010). That a write is dropped, any other
request is an Unsupported Request and nothing is recorded is not the rule's: it is the method that the spec chose (decision D7,
U32; DEDUCED, logs 17 and 39). -/
def Obligations.ProtectedMemoryBlocks : Prop :=
  ∀ (s : State) (r : MemReq), (Instr.untranslatedRequest r).wf = true → s.gsts.tes = false →
    inInterruptRange r.addr = false → s.pmr.prs = true → r.cxlCache = false → meetsPmr s r.addr.toNat r.len = true →
    s.quiet .perf →
    ∃ v, onlyCounted s v ∧ exec (.untranslatedRequest r) s = .next
      (if r.access = .write then v else { v with out := .respond r.sid .ur :: v.out })

/-- In legacy mode a request without PASID to a page that the second-stage tables map, of 3, 4 or 5 levels and of any page size,
goes to the address they give if they grant its access, whatever its kind (22 R705, R740 to R744; 42 R1032; 20 R526). The unit
reads each entry once, with snooping as ECAP_REG.C says and of type WB (20 R525; 22 R776). An IOTLB fill keeps the translation,
and one that is kept answers a request to its page without reading the tables, whatever they say now, until it is invalidated
(23 R802, R820 to R823); what an entry carries, and what of it is checked again at a hit, is the model's reading (DEDUCED, log
35). The values an AtomicOp stores and returns are PCI Express's (PRESUMED, log 11). A posted write of the same source that is
still in flight goes first (20 R572, as D5 reads it: log 5), and device stores go behind the buffered software stores (log 16).
A target that is memory only in part counts as a device (DESIGN CHOICE, log 42). -/
def Obligations.LegacyTranslation : Prop :=
  (∀ (s : State) (r : MemReq) (ca : Addr) (ce : BitVec 256) (l : List UsedEntry) (k : Nat) (hpa : Addr),
    (Instr.untranslatedRequest r).wf = true → r.pasid = none → s.legacyOn → s.choice.use = [] →
    (s.choice.fill = [] ∨ s.choice.fill = [.iotlb]) → inInterruptRange r.addr = false → s.legacyContext r.sid ca ce →
    (ceTt ce = 0 ∨ ceTt ce = 1) → s.legacyMapped ce r.addr l k → ssGrants s.caps r.access (allSet l 0) (allSet l 1) →
    hpa = s.outputOf (leafOf l) k r.addr → inInterruptRange hpa = false →
    pmrBlocks s .untranslated r hpa false = false → s.quiet .perf →
    ∃ v w x, onlyCounted s v ∧
      w = { v with caches := { s.caches with iotlb := w.caches.iotlb }
                   bus := walkReads l s.caps.c ++ s.legacyReads r.sid ca ++ s.bus } ∧
      (s.choice.fill = [] → w.caches.iotlb = s.caches.iotlb) ∧
      (s.choice.fill = [.iotlb] → ∃ e, (∀ y ∈ w.caches.iotlb, y = e ∨ y ∈ s.caches.iotlb) ∧ e ∈ w.caches.iotlb ∧
        e.serves s.plat.iotlbCrossHit false r.sid none r.addr = true ∧ e.fault = none ∧ e.did = ceDid ce ∧ e.ce = ce ∧
        e.page.r = allSet l 0 ∧ e.page.w = allSet l 1 ∧ e.page.output r.addr = hpa) ∧
      passedOn w x { req := r, hpa := hpa, snoop := !r.ns || (s.caps.sc && bitAt (leafOf l) 11),
                     mt := if r.coherent && s.caps.mts then some .wb else none } ∧
      exec (.untranslatedRequest r) s = .next { x with freeCtr := x.freeCtr + 1 }) ∧
  (∀ (s : State) (r : MemReq) (e : IotlbEntry), (Instr.untranslatedRequest r).wf = true → r.pasid = none → s.legacyOn →
    s.choice.use = [.iotlb] → s.choice.fill = [] → inInterruptRange r.addr = false →
    (∀ y, (y ∈ s.caches.iotlb ∧ y.serves s.plat.iotlbCrossHit false r.sid none r.addr = true) ↔ y = e) → e.fault = none →
    ceP e.ce = true → ctxRsvd s.caps s.plat.haw e.ce = false → s.caps.awOk (ceAw e.ce) = true →
    (ceTt e.ce = 0 ∨ (ceTt e.ce = 1 ∧ s.caps.dt = true)) → usesFs e.pgtt = false → peSsade e.pe = false →
    ssGrants s.caps r.access e.page.r e.page.w → inInterruptRange (e.page.output r.addr) = false →
    pmrBlocks s .untranslated r (e.page.output r.addr) false = false → s.quiet .perf →
    ∃ v x, onlyCounted s v ∧
      passedOn v x { req := r, hpa := e.page.output r.addr, snoop := !r.ns || (s.caps.sc && bitAt e.page.ssLeaf 11),
                     mt := if r.coherent && s.caps.mts then some .wb else none } ∧
      exec (.untranslatedRequest r) s = .next { x with freeCtr := x.freeCtr + 1 })

/-- In legacy mode a request without PASID, of any kind, with translation type pass-through goes to the address it names (22
R705, R760; 21 R612). The values an AtomicOp stores and returns are PCI Express's (PRESUMED, log 11). A posted write of the same
source that is still in flight goes first (20 R572, as D5 reads it: log 5), and device stores go behind the buffered software
stores (log 16). A target that is memory only in part counts as a device (DESIGN CHOICE, log 42). -/
def Obligations.LegacyPassThrough : Prop :=
  ∀ (s : State) (r : MemReq) (ca : Addr) (ce : BitVec 256), (Instr.untranslatedRequest r).wf = true → r.pasid = none →
    s.legacyOn → s.uncached → inInterruptRange r.addr = false → s.legacyContext r.sid ca ce → ceTt ce = 2 →
    r.addr.toNat < s.hpaEnd → pmrBlocks s .untranslated r r.addr true = false → s.quiet .perf →
    ∃ v x, onlyCounted s v ∧
      passedOn { v with bus := s.legacyReads r.sid ca ++ s.bus } x
        { req := r, hpa := r.addr, snoop := !r.ns, mt := if r.coherent && s.caps.mts then some .wb else none } ∧
      exec (.untranslatedRequest r) s = .next { x with freeCtr := x.freeCtr + 1 }

/-- With a latched mode that is no translation mode of the unit every request is blocked, and in legacy mode one with a PASID,
one whose root or context entry cannot be read, is not present, has reserved bits or bad programming, one beyond the width of
its tables or, as pass-through, of the unit, one whose paging entries cannot be read, are not present, have reserved bits or do
not grant the access, and one that comes out in the interrupt range: a write is dropped, any other request answered Unsupported
Request, the fault recorded, unless it is a qualified one and the context entry disables that (22 R704, R705, R740 to R744,
R762; 42 R1030; 60 R1331, R1346, R1350 to R1352, R1370). The method of blocking is the spec's choice (decision U32, log 39), the
width of FI the model's (log 13). That the codes 30h, 31h and 33h stand for the conditions named, whose texts are lost, is the
spec's decision D15 (log 19); which of several conditions comes first is its D12 (log 13). -/
def Obligations.LegacyRequestFaults : Prop :=
  ∀ (s : State) (r : MemReq), (Instr.untranslatedRequest r).wf = true → s.uncached → s.quiet .perf → s.quiet .fault →
    s.recordFree r.sid → s.gsts.tes = true → (r.pasid = none → inInterruptRange r.addr = false) →
    (∀ reason, s.modeRefuses reason → s.blocks r [] reason false) ∧
    (s.legacyOn → r.pasid ≠ none → s.blocks r [] 0x31 false) ∧
    (s.legacyOn → r.pasid = none →
      (∀ reads reason fpd, s.LegacyRefuses r.sid reads reason fpd → s.blocks r reads reason fpd) ∧
      (∀ ca ce, s.legacyContext r.sid ca ce →
        (ceTt ce = 2 → s.hpaEnd ≤ r.addr.toNat → s.blocks r (s.legacyReads r.sid ca) 0x04 (ceFpd ce)) ∧
        ((ceTt ce = 0 ∨ ceTt ce = 1) →
          (∀ reason l, s.legacyUnmapped ce r.access r.addr reason l →
            s.blocks r (entryReads l s.caps.c ++ s.legacyReads r.sid ca) reason (ceFpd ce)) ∧
          (∀ l k, s.legacyMapped ce r.addr l k →
            (¬ ssGrants s.caps r.access (allSet l 0) (allSet l 1) →
              s.blocks r (walkReads l s.caps.c ++ s.legacyReads r.sid ca)
                (if accessWrites r.access = true ∧ allSet l 1 = false then 0x05 else 0x06) (ceFpd ce)) ∧
            (ssGrants s.caps r.access (allSet l 0) (allSet l 1) →
              inInterruptRange (s.outputOf (leafOf l) k r.addr) = true →
              s.blocks r (walkReads l s.caps.c ++ s.legacyReads r.sid ca) 0x0E (ceFpd ce))))))

/-- In scalable mode a request is blocked and its fault recorded as its tables or its walk refuse it: root, context,
PASID-directory and PASID-table entries that cannot be read, are not present, have reserved bits or bad programming, a PASID
that is not allowed, execute and privilege requests that are not, first-stage and second-stage entries that cannot be read, are
not present, have reserved bits or do not grant the access, by U/S, R/W or the second stage's permissions, also where the second
stage places an entry of the first, an address out of range, a flag that cannot be set, and an output in the interrupt range (22
R710 to R715, R720 to R751, R760, R762; 42 R1030; 60 R1331, R1354 to R1361, R1370). A Fault Processing Disable bit that is met
suppresses the recording of a qualified fault. A request that is refused sets no flag, also none in entries it has passed, which
the source allows: the spec's decision D17 (log 14). The method of blocking is its decision U32 (log 39), the width of FI the
model's (log 13). That the codes 38h to 3Ah and 40h to 46h stand for the conditions named, whose texts are lost, is the spec's
decision D16 (log 19); which of several conditions comes first is its D12 (log 13). -/
def Obligations.ScalableRequestFaults : Prop :=
  ∀ (s : State) (r : MemReq), (Instr.untranslatedRequest r).wf = true → s.uncached → s.quiet .perf → s.quiet .fault →
    s.recordFree r.sid → (r.pasid = none → inInterruptRange r.addr = false) →
    (s.scalableOn → ∀ reads reason fpd, s.TablesRefuse r reads reason fpd → s.blocks r reads reason fpd) ∧
    (∀ (ca da pa : Addr) (ce : BitVec 256) (pasid : Pasid) (pe : BitVec 512) (reason : BitVec 8),
      (s.requestTables r ca da pa ce pasid pe → s.entryRefuses r ce pe reason →
        s.blocks r (s.tableReads r.sid ca da pa) reason (s.fpdMet ce da pe)) ∧
      (s.requestEntry r ca da pa ce pasid pe → s.WalkRefuses pe (s.requestPriv r ce) r.access r.addr reason →
        ∃ reads, (∀ y ∈ reads, y = busRead y.addr 8 (snoopedWalk s.caps pe)) ∧
          s.blocks r (reads ++ s.tableReads r.sid ca da pa) reason (s.fpdMet ce da pe)))

/-- A translation request for a page that legacy tables map, of any number of levels and any page size, is answered with the
page and its permissions, W only if the request did not ask for read-only, and with every field 0 but N if that leaves none (43
R1055, R1060; 22 R706). One for an address of the interrupt range gets U and W, or nothing if it asked for read-only (43 R1066).
One that its tables refuse is answered Unsupported Request, Completer Abort, or Success without permissions, as its fault asks
(43 R1055; 60 R1340, R1346, R1350 to R1352). With translation off it is an Unsupported Request (43 R1050). That one translation
is answered whatever the length asked for is the spec's decision D31 (43 R1068, log 31). That without any permission left every
field is 0 but N, which is the leaf's, and that N and ADDR are 0 in the interrupt range, is the model's reading (DEDUCED and
DESIGN CHOICE, log 31); that translation type 00b refuses a translation request, where two examples of the spec answer it, is a
choice between its rules (log 19); the width of FI is the model's (log 13). That the codes 30h, 31h and 33h stand for the
conditions named, whose texts are lost, is the spec's decision D15, and the answer where Table 26 has none for a translation
request the model's (log 19); which of several conditions comes first is decision D12 (log 13). -/
def Obligations.TranslationRequestAnswered : Prop :=
  ∀ (s : State) (r : MemReq), (Instr.translationRequest r).wf = true → s.quiet .perf →
    (s.gsts.tes = false → s.turnedAway (.translationRequest r) [.respond r.sid .ur] [] none) ∧
    (s.gsts.tes = true → s.uncached →
      (∀ (ca : Addr) (ce : BitVec 256), r.pasid = none → s.legacyOn → s.legacyContext r.sid ca ce → ceTt ce = 1 →
        (inInterruptRange r.addr = true → s.turnedAway (.translationRequest r)
          [.respond r.sid (.translation
            (if readOnlyRequest s.caps r then noRights r false else { noRights r false with w := true, u := true }))]
          (s.legacyReads r.sid ca) none) ∧
        (inInterruptRange r.addr = false → ∀ l k w, s.legacyMapped ce r.addr l k →
          w = (allSet l 1 && !readOnlyRequest s.caps r) →
          ((allSet l 0 || w) = true → regionMeetsInterruptRange (pgAddr s.plat.haw (leafOf l) k) k = false) →
          s.turnedAway (.translationRequest r)
            [.respond r.sid (.translation (pageAnswer r (pgAddr s.plat.haw (leafOf l) k) k (allSet l 0) w
              (s.caps.sc && bitAt (leafOf l) 11)))] (walkReads l s.caps.c ++ s.legacyReads r.sid ca) none)) ∧
      (s.quiet .fault → s.recordFree r.sid →
        (∀ reason, s.modeRefuses reason → s.answersFault r [] false reason false) ∧
        (s.legacyOn → r.pasid ≠ none → s.answersFault r [] false 0x31 false) ∧
        (s.legacyOn → r.pasid = none →
          (∀ reads reason fpd, s.LegacyRefuses r.sid reads reason fpd → s.answersFault r reads false reason fpd) ∧
          (∀ ca ce, s.legacyContext r.sid ca ce →
            (ceTt ce ≠ 1 → s.answersFault r (s.legacyReads r.sid ca) false 0x0D (ceFpd ce)) ∧
            (ceTt ce = 1 → inInterruptRange r.addr = false →
              (∀ reason l,
                s.legacyUnmapped ce (if readOnlyRequest s.caps r then .read else .atomic) r.addr reason l →
                s.answersFault r (entryReads l s.caps.c ++ s.legacyReads r.sid ca) false reason (ceFpd ce)) ∧
              (∀ l k, s.legacyMapped ce r.addr l k →
                (allSet l 0 || (allSet l 1 && !readOnlyRequest s.caps r)) = true →
                regionMeetsInterruptRange (pgAddr s.plat.haw (leafOf l) k) k = true →
                s.answersFault r (walkReads l s.caps.c ++ s.legacyReads r.sid ca) false 0x0E (ceFpd ce)))))))

/-- In scalable mode a translation request of a device that may use ATS, with a PASID or by RID_PASID, is answered with the page
that its PASID-table entry gives, by the first stage, the second stage, both nested or as a pass-through region, and with the
permissions they leave it, W only if the request did not ask for read-only; the flags owed are set, Dirty just where W is
answered (22 R706, R710, R735, R745; 43 R1055, R1060, R1062, R1064, R1070). One left no permission is answered with none and
sets no flag; one for an address of the interrupt range gets U and W, or nothing if it asked for read-only (43 R1066). One that
is refused is answered Unsupported Request, Completer Abort, or Success without permissions, as its fault asks (43 R1055; 60
R1340, R1354 to R1361). That a page that meets the interrupt range is refused before its flags are set, and that flags are set
at the end of the walk alone, is the spec's decision D17 (log 14); N and ADDR in the interrupt range, and N without permissions,
are the model's reading (log 31); the pass-through region depends on the platform (log 12); the width of FI is the model's (log
13). That the codes 38h to 3Ah and 40h to 46h stand for the conditions named, whose texts are lost, is the spec's decision D16,
and the answer where Table 26 has none for a translation request the model's (log 19); which of several conditions comes first
is decision D12 (log 13). -/
def Obligations.ScalableTranslationRequest : Prop :=
  ∀ (s : State) (r : MemReq), (Instr.translationRequest r).wf = true → s.uncached → s.quiet .perf → s.scalableOn →
    (s.quiet .fault → s.recordFree r.sid →
      (∀ reads reason fpd, s.TablesRefuse r reads reason fpd →
        (∀ ca ce, s.scalableContext r.sid ca ce → smDte ce = true) → s.answersFault r reads false reason fpd) ∧
      (∀ ca ce, s.scalableContext r.sid ca ce → smDte ce = false →
        (r.pasid = none → (smRidPasid s.caps ce).toNat < 2 ^ s.caps.pssBits) →
        s.answersFault r (s.contextReads r.sid ca) false 0x44 (ceFpd ce)) ∧
      (∀ (ca da pa : Addr) (ce : BitVec 256) (pasid : Pasid) (pe : BitVec 512) (reason : BitVec 8),
        s.requestTables r ca da pa ce pasid pe → smDte ce = true → s.entryRefuses r ce pe reason →
        s.answersFault r (s.tableReads r.sid ca da pa) (pePgsnp pe) reason (s.fpdMet ce da pe))) ∧
    (∀ (ca da pa : Addr) (ce : BitVec 256) (pasid : Pasid) (pe : BitVec 512) (pr ro withPasid : Bool),
      s.requestEntry r ca da pa ce pasid pe → smDte ce = true → pr = s.requestPriv r ce → ro = readOnlyRequest s.caps r →
      withPasid = r.pasid.isSome → s.memoryForm → s.wbuf = [] →
      (r.pasid = none → inInterruptRange r.addr = true → s.turnedAway (.translationRequest r)
        [.respond r.sid (.translation
          (if ro then noRights r (pePgsnp pe) else { noRights r (pePgsnp pe) with w := true, u := true }))]
        (s.tableReads r.sid ca da pa) none) ∧
      ((r.pasid = none → inInterruptRange r.addr = false) →
        (∀ page fs tab fin k rd w, s.pageGiven pe pr ro withPasid r.addr page fs tab fin k rd w → (rd || w) = true →
          s.canSetFlags pe (owedEntries pe fs tab fin) →
          (regionMeetsInterruptRange page k = false →
            ∃ v t l, onlyCounted s v ∧ exec (.translationRequest r) s = .next t ∧
              t = { v with
                    mem := t.mem, bus := l ++ s.tableReads r.sid ca da pa ++ s.bus
                    out := .respond r.sid (.translation (pageAnswer r page k rd w (s.completionN pe fin))) :: v.out } ∧
              flagsSet s t (owedEntries pe fs tab fin) ∧ ∀ y ∈ l, walkAccess (snoopedWalk s.caps pe) y) ∧
          (regionMeetsInterruptRange page k = true → s.quiet .fault → s.recordFree r.sid →
            ∃ reads, (∀ y ∈ reads, y = busRead y.addr 8 (snoopedWalk s.caps pe)) ∧
              s.answersFault r (reads ++ s.tableReads r.sid ca da pa) (s.completionN pe fin) 0x87 (s.fpdMet ce da pe))) ∧
        (∀ fs tab fin, s.nothingGiven pe pr ro r.addr fs tab fin → s.canSetFlags pe (owedEntries pe fs tab []) →
          ∃ reads, (∀ y ∈ reads, y = busRead y.addr 8 (snoopedWalk s.caps pe)) ∧
            s.turnedAway (.translationRequest r) [.respond r.sid (.translation (noRights r (s.completionN pe fin)))]
              (reads ++ s.tableReads r.sid ca da pa) none) ∧
        (∀ reason fin, s.TranslationRefused pe pr ro r.addr reason fin → s.quiet .fault → s.recordFree r.sid →
          ∃ reads, (∀ y ∈ reads, y = busRead y.addr 8 (snoopedWalk s.caps pe)) ∧
            s.answersFault r (reads ++ s.tableReads r.sid ca da pa) (s.completionN pe fin) reason (s.fpdMet ce da pe))))

/-- A translated request, of any kind, of a device that may use ATS, in legacy or in scalable mode, goes to the address it
names, as write-back on a coherent link (43 R1075; 22 R705, R710, R761; 30 R880); one on a CXL.cache link goes there unchecked
(22 R708, log 18). With translation off it is turned away: a write dropped, any other an Unsupported Request (22 R703; 43 R1050,
as log 18 reads them). So is one of a device whose tables refuse it or whose context entry does not let it use ATS, one to an
address beyond 2^HAW and one to the interrupt range, and the fault is recorded (22 R704, R705, R710, R761; 43 R1075; 60 R1331,
R1370; the method: log 39, the width of FI: log 13). The values an AtomicOp stores and returns are PCI Express's (PRESUMED, log
11). A posted write of the same source that is still in flight goes first (20 R572, as D5 reads it: log 5), and device stores go
behind the buffered software stores (log 16). A target that is memory only in part counts as a device (DESIGN CHOICE, log 42).
That the codes 30h, 33h, 38h to 3Ah and 40h to 44h stand for the conditions named, whose texts are lost, is the spec's decisions
D15 and D16 (log 19); which of several conditions comes first is its D12 (log 13). -/
def Obligations.TranslatedRequestForwarded : Prop :=
  ∀ (s : State) (r : MemReq) (f : Forwarded), (Instr.translatedRequest r).wf = true → s.quiet .perf →
    f = { req := r, hpa := r.addr, snoop := !r.ns, mt := if r.coherent && s.caps.mts then some .wb else none } →
    (r.cxlCache = true → ∃ v t, onlyCounted s v ∧ passedOn v t f ∧ exec (.translatedRequest r) s = .next t) ∧
    (r.cxlCache = false → s.gsts.tes = false → s.turnedAway (.translatedRequest r) (blockedAnswer r) [] none) ∧
    (∀ (ca : Addr) (ce : BitVec 256), r.cxlCache = false → s.uncached → r.addr.toNat < s.hpaEnd →
      inInterruptRange r.addr = false → pmrBlocks s .translated r r.addr false = false →
      (s.legacyOn → s.legacyContext r.sid ca ce → ceTt ce = 1 →
        ∃ v t, onlyCounted s v ∧ passedOn { v with bus := s.legacyReads r.sid ca ++ s.bus } t f ∧
          exec (.translatedRequest r) s = .next t) ∧
      (s.scalableOn → s.scalableContext r.sid ca ce → smDte ce = true → (smRidPasid s.caps ce).toNat < 2 ^ s.caps.pssBits →
        ∃ v t, onlyCounted s v ∧ passedOn { v with bus := s.contextReads r.sid ca ++ s.bus } t f ∧
          exec (.translatedRequest r) s = .next t)) ∧
    (r.cxlCache = false → s.gsts.tes = true → s.uncached → s.quiet .fault → s.recordFree r.sid →
      (∀ reason, s.modeRefuses reason → s.blocksTranslated r [] reason false) ∧
      (∀ reads reason fpd, s.legacyOn → s.LegacyRefuses r.sid reads reason fpd →
        s.blocksTranslated r reads reason fpd) ∧
      (∀ reads reason fpd, s.scalableOn → s.ContextRefuses r.sid reads reason fpd →
        s.blocksTranslated r reads reason fpd) ∧
      (∀ ca ce, s.legacyOn → s.legacyContext r.sid ca ce →
        (ceTt ce ≠ 1 → s.blocksTranslated r (s.legacyReads r.sid ca) 0x0D (ceFpd ce)) ∧
        (ceTt ce = 1 → s.hpaEnd ≤ r.addr.toNat → s.blocksTranslated r (s.legacyReads r.sid ca) 0x04 (ceFpd ce)) ∧
        (ceTt ce = 1 → r.addr.toNat < s.hpaEnd → inInterruptRange r.addr = true →
          s.blocksTranslated r (s.legacyReads r.sid ca) 0x0E (ceFpd ce))) ∧
      (∀ ca ce, s.scalableOn → s.scalableContext r.sid ca ce →
        (2 ^ s.caps.pssBits ≤ (smRidPasid s.caps ce).toNat →
          s.blocksTranslated r (s.contextReads r.sid ca) 0x43 (ceFpd ce)) ∧
        ((smRidPasid s.caps ce).toNat < 2 ^ s.caps.pssBits →
          (smDte ce = false → s.blocksTranslated r (s.contextReads r.sid ca) 0x44 (ceFpd ce)) ∧
          (smDte ce = true → s.hpaEnd ≤ r.addr.toNat →
            s.blocksTranslated r (s.contextReads r.sid ca) 0x83 (ceFpd ce)) ∧
          (smDte ce = true → r.addr.toNat < s.hpaEnd → inInterruptRange r.addr = true →
            s.blocksTranslated r (s.contextReads r.sid ca) 0x87 (ceFpd ce)))))

/-- A zero-length read without PASID of the interrupt range completes with undefined data, and nothing else happens (42
R1022). -/
def Obligations.ZeroLengthReadOfInterruptRange : Prop :=
  ∀ (s : State) (r : MemReq), (Instr.untranslatedRequest r).wf = true → r.pasid = none → r.access = .zlr →
    inInterruptRange r.addr = true → s.quiet .perf →
    ∃ (v : State) (bs : List Byte), onlyCounted s v ∧ bs.length = 4 ∧ exec (.untranslatedRequest r) s = .next { v with
      freeCtr := s.freeCtr + 4, out := .respond r.sid (.data bs) :: v.out }

/-! ## Interrupt requests -/

/-- With interrupt remapping off an interrupt request passes unchanged (44 R1100); with it on a compatibility-format request
passes with CFIS set and EIME clear, else fault 25h is recorded (44 R1105; its FI is free: log 8). -/
def Obligations.InterruptNotRemapped : Prop :=
  (∀ (s : State) (sid : SourceId) (addr data : BitVec 32), s.gsts.ires = false →
    (∀ f ∈ s.inFlight, f.req.access ≠ .write) → s.quiet .perf →
    ∃ v t, onlyCounted s v ∧ delivered v t sid (.compat sid addr data) ∧
      exec (.interruptRequest sid addr data) s = .next t) ∧
  (∀ (s : State) (sid : SourceId) (addr data : BitVec 32), s.gsts.ires = true → bitAt addr 4 = false →
    (∀ f ∈ s.inFlight, f.req.access ≠ .write) → s.quiet .perf →
    (s.latchedIr.eime = false → s.gsts.cfis = true →
      ∃ v t, onlyCounted s v ∧ delivered v t sid (.compat sid addr data) ∧
        exec (.interruptRequest sid addr data) s = .next t) ∧
    ((s.latchedIr.eime = true ∨ s.gsts.cfis = false) → s.recordFree sid → s.quiet .fault →
      ∃ v t fi, exec (.interruptRequest sid addr data) s = .next t ∧ onlyCounted s v ∧
        onlyReported { v with freeCtr := s.freeCtr + 1 } t ∧ recorded v t (intRecord sid 0x25 fi)))

/-- A remappable request to a present and well-programmed entry becomes the interrupt the entry describes, its trigger mode
level asserted (44 R1110, R1115, R1120, R1125, R1130; the read of the entry: 20 R525, 22 R776). That the delivery modes 011b and
110b, which the source does not define, are no fault and are passed on unchanged is the spec's own treatment U36 (DEDUCED, log
32). -/
def Obligations.InterruptRemapped : Prop :=
  ∀ (s : State) (sid : SourceId) (addr data : BitVec 32) (idx : Nat) (e : BitVec 128),
    s.remapsTo addr data idx e → irteFault s sid e = none → irteIm e = false →
    (∀ f ∈ s.inFlight, f.req.access ≠ .write) → s.quiet .perf →
    ∃ v t, onlyCounted s v ∧ exec (.interruptRequest sid addr data) s = .next t ∧
      delivered { v with bus := s.irteAccesses idx e false ++ s.bus } t sid (.remapped
        { dst := if s.latchedIr.eime then field e 32 32 else (field e 40 8).setWidth 32, vector := field e 16 8
          dlm := field e 5 3, rh := bitAt e 3, dm := bitAt e 2, tm := bitAt e 4, asserted := true })

/-- A remappable request to an entry in posted mode sets its bit of the posted-interrupt descriptor, behind every earlier
interrupt (44 R1137), and notifies, in Fixed mode, edge-triggered, asserted and physical, unless a notification is outstanding
or suppressed (44 R1135; little-endian: log 9; that the update goes behind the buffered software stores: log 16). With HAW below
32 which address bits of the entry are reserved is the model's choice (DESIGN CHOICE, log 45). -/
def Obligations.InterruptPosted : Prop :=
  ∀ (s : State) (sid : SourceId) (addr data : BitVec 32) (idx : Nat) (e : BitVec 128) (a : Nat) (d : BitVec 512) (x : Bool),
    s.remapsTo addr data idx e → irteFault s sid e = none → irteIm e = true → a = (irtePid e).toNat →
    s.readable a 64 = true → s.writable a 64 = true → d = BitVec.ofNat 512 (readNat s.flush.mem a 64) →
    pidRsvd s.latchedIr.eime d = false → s.memoryForm →
    x = decide (bitAt d 256 = false ∧ (bitAt e 14 = true ∨ bitAt d 257 = false)) →
    (∀ f ∈ s.inFlight, f.req.access ≠ .write) → s.quiet .perf →
    ∃ v w t, exec (.interruptRequest sid addr data) s = .next t ∧ onlyCounted s v ∧
      w = { v with
            mem := t.mem, wbuf := [], intrFlight := [], bus := s.irteAccesses idx e true ++ s.bus
            out := (s.intrFlight.map (fun d => Out.interrupt d.msg)).reverse ++ v.out } ∧
      (if x = true then delivered w t sid (.notification
          { dst := if s.latchedIr.eime then field d 288 32 else (field d 296 8).setWidth 32, vector := field d 272 8
            dlm := 0, rh := false, dm := false, tm := false, asserted := true })
       else t = w) ∧
      (∀ k < 512, bitAt (BitVec.ofNat 512 (readNat t.mem a 64)) k =
        (bitAt d k || decide (k = (field e 16 8).toNat) || (decide (k = 256) && x))) ∧
      sameOutside s t a 64

/-- Interrupt requests that fault are dropped and recorded: 20h for a reserved field set (its FI is free: log 8), 21h for an
index beyond the table or an entry beyond 2^HAW, 23h for an entry that cannot be read, and 22h, 24h, 26h, 27h, 28h for what the
entry or its posted-interrupt descriptor says, these unless the entry disables the recording (44 R1100, R1110 to R1135; 60
R1365, R1370). The order of the checks, with 24h for SVT=11b before the requester is verified, is the spec's decision D32
(DEDUCED, log 32). The descriptor is read little-endian (log 9), behind the buffered software stores (log 16). The index is
compared untruncated and recorded by its low 16 bits: the spec's decision D33 (44 R1110, log 32). Any other request without
PASID to the interrupt range but a zero-length read is blocked (42 R1023); that this is recorded as Eh or 87h whatever FPD says,
and not at all with translation off, and that a blocked write is dropped and any other request answered Unsupported Request, are
the spec's decisions D29 and U32 (DEDUCED, log 39); the width of FI is log 13's (DEDUCED). Which address bits of a posted entry
are reserved with HAW below 32 is the model's choice (DESIGN CHOICE, log 45). -/
def Obligations.InterruptFaults : Prop :=
  (∀ (s : State) (sid : SourceId) (addr data : BitVec 32), (∀ f ∈ s.inFlight, f.req.access ≠ .write) → s.quiet .perf →
    s.quiet .fault → s.recordFree sid → s.gsts.ires = true → bitAt addr 4 = true →
    ((intShv addr = true ∧ field data 16 16 ≠ 0) →
      ∃ (v t : State) (fi : BitVec 16), exec (.interruptRequest sid addr data) s = .next t ∧ onlyCounted s v ∧
        onlyReported { v with freeCtr := s.freeCtr + 1 } t ∧ recorded v t (intRecord sid 0x20 (fi ++ 0#36))) ∧
    (∀ idx, (intShv addr = true → field data 16 16 = 0) → idx = interruptIndex addr data → s.uncached →
      (2 ^ (s.latchedIr.size.toNat + 1) ≤ idx ∨ s.hpaEnd ≤ s.pageBase s.latchedIr.irta + 16 * idx →
        ∃ v t, exec (.interruptRequest sid addr data) s = .next t ∧ onlyCounted s v ∧ onlyReported v t ∧
          recorded v t (intRecord sid 0x21 (indexInfo idx))) ∧
      (idx < 2 ^ (s.latchedIr.size.toNat + 1) → s.pageBase s.latchedIr.irta + 16 * idx < s.hpaEnd →
        s.readable (s.pageBase s.latchedIr.irta + 16 * idx) 16 = false →
        ∃ v t, exec (.interruptRequest sid addr data) s = .next t ∧ onlyCounted s v ∧
          onlyReported { v with bus := s.irteAccesses idx 0 false ++ s.bus } t ∧
          recorded v t (intRecord sid 0x23 (indexInfo idx)))) ∧
    (∀ idx e reason, s.remapsTo addr data idx e → s.irteRefuses sid e reason →
      ∃ v w t, exec (.interruptRequest sid addr data) s = .next t ∧ onlyCounted s v ∧
        w = { v with bus := s.irteAccesses idx e (reason == 0x27 || reason == 0x28) ++ s.bus } ∧
        (if irteFpd e = true then t = w
         else onlyReported w t ∧ recorded w t (intRecord sid reason (indexInfo idx))))) ∧
  (∀ (s : State) (r : MemReq), (Instr.untranslatedRequest r).wf = true → r.pasid = none → inInterruptRange r.addr = true →
    r.access ≠ .zlr → s.quiet .perf →
    ∃ v w, onlyCounted s v ∧
      w = { v with out := (if r.access = .write then [] else [.respond r.sid .ur]) ++ v.out } ∧
      (s.gsts.tes = false → exec (.untranslatedRequest r) s = .next w) ∧
      (s.gsts.tes = true → s.quiet .fault → s.recordFree r.sid →
        ∃ t, exec (.untranslatedRequest r) s = .next t ∧ onlyReported w t ∧
          recorded w t
            { f := true, t1 := (accessType r.access).1, t2 := (accessType r.access).2, atf := 0, pv := 0
              fr := if s.latchedRt.ttm = 0 then 0x0E else 0x87
              pp := false, exe := false, priv := false, sid := r.sid, fi := faultInfo s.caps r.addr }))

/-! ## Page requests -/

/-- A page request that its tables admit is written to the tail of the page request queue, which moves on; PPR is set and the
event follows (45 R1170, R1175, R1185; 30 R881; little-endian: log 9; that the write goes behind the buffered software stores:
log 16). First the translations of its page are dropped from the caches, in the scope its translation type asks for (45
R1180); that exactly the scope goes, where a unit may drop more, and that nothing in flight is drained for it, is the model's
(DEDUCED and DESIGN CHOICE, log 41). -/
def Obligations.PageRequestQueued : Prop :=
  ∀ (s : State) (m : PageMsg) (ca da pa : Addr) (pasid : Pasid) (pe : BitVec 512), s.pageLookup m ca da pa pasid pe →
    s.prq.pro = false → s.prqFull = false → s.writable s.prqAddr 32 = true → s.quiet .perf → s.quiet .page →
    s.memoryForm →
    ∃ (v w t : State) (d : PageMsg), onlyCounted s v ∧
      w = { v with
            bus := s.tableReads m.rid ca da pa ++ s.bus
            caches := { s.caches with iotlb := w.caches.iotlb, psc := w.caches.psc } } ∧
      (if pePgtt pe = 1 then
        w.caches.iotlb = s.caches.iotlb.filter (fun x =>
          !pIotlbMatches 3 (s.caps.maskDid (peDid pe)) pasid (pageAddr m.addr).toNat 0 x) ∧
        w.caches.psc = s.caches.psc.filter (fun x =>
          !pPscMatches 3 (s.caps.maskDid (peDid pe)) pasid (pageAddr m.addr).toNat 0 false x)
       else
        w.caches.iotlb = s.caches.iotlb.filter (fun x => !iotlbMatches (s.caps.mgaw + 1) (if pePgtt pe = 3 then 2 else 3)
          (s.caps.maskDid (peDid pe)) (pageAddr m.addr).toNat 0 x) ∧
        w.caches.psc = s.caches.psc.filter (fun x => !pscMatches (s.caps.mgaw + 1) (if pePgtt pe = 3 then 2 else 3)
          (s.caps.maskDid (peDid pe)) (pageAddr m.addr).toNat 0 false x)) ∧
      d = { m with pasid := if m.pp then m.pasid else d.pasid, prgi := if m.rdr || m.wrr then m.prgi else d.prgi } ∧
      prqWritten w t d ∧ exec (.pageRequest m) s = .next { t with freeCtr := t.freeCtr + 1 }

/-- A page request that meets a full queue sets PRO, and while PRO is set every page request is dropped: the last of a group
gets a Success response (45 R1170, R1185; 60 R1415); with translation off it gets Invalid Request, which is the spec's decision
D34 (45 R1172, log 18). One that the mode or its tables refuse, in legacy mode, with a device that may make none or a PASID that
is not allowed, or at a root, context, PASID-directory or PASID-table entry that cannot be used, is reported as its fault asks
and gets Invalid Request (45 R1170, R1175; 60 R1331, R1340, R1370); whether a Stop Marker's fault is reported is the unit's
choice (93 U37, log 6), the width of FI the model's (log 13). That a Stop Marker is dropped without a response is the model's
reading (45 R1178, PRESUMED: log 33). That a table fault comes before a full queue is its decision D35, and what the record of a
page request holds, where 45 R1175 leaves it, the model's (log 41). That the codes 30h, 32h, 33h, 38h to 3Ah and 40h to 47h
stand for the conditions named, whose texts are lost, is the spec's decisions D15 and D16 (log 19); which of several conditions
comes first is its D12 (log 13). -/
def Obligations.PageRequestDropped : Prop :=
  (∀ (s : State) (m : PageMsg) (ca da pa : Addr) (pasid : Pasid) (pe : BitVec 512), s.pageLookup m ca da pa pasid pe →
    s.quiet .perf →
    ∃ v z, onlyCounted s v ∧ z = { v with bus := s.tableReads m.rid ca da pa ++ s.bus } ∧
      (s.prq.pro = false → s.prqFull = true → s.quiet .page →
        ∃ w t, exec (.pageRequest m) s = .next t ∧ raised z w .page s.prq.ppr ∧
          w = { z with prq := { s.prq with pro := true }, pageEv := w.pageEv, out := w.out } ∧
          t = { w with out := droppedResponse m 0 ++ w.out }) ∧
      (s.prq.pro = true → exec (.pageRequest m) s = .next { z with out := droppedResponse m 0 ++ z.out })) ∧
  (∀ (s : State) (m : PageMsg), s.gsts.tes = false →
    exec (.pageRequest m) s = .next { s with out := droppedResponse m 1 ++ s.out }) ∧
  (∀ (s : State) (m : PageMsg) (reads : List UnitAccess) (reason : BitVec 8) (fpd : Bool), s.gsts.tes = true →
    s.uncached → s.quiet .perf → s.quiet .fault → s.recordFree m.rid →
    ((reads = [] ∧ fpd = false ∧ (s.modeRefuses reason ∨ (reason = 0x32 ∧ s.latchedRt.ttm = 0))) ∨
      (s.scalableOn ∧ s.PageRefuses m reads reason fpd)) →
    ∃ v w t, onlyCounted s v ∧ w = { v with bus := reads ++ s.bus } ∧
      (if fpd = true ∨ (isStopMarker m = true ∧ s.choice.stopRecord = false) then t = w
       else onlyReported w t ∧ recorded w t (pageRecord s.caps m reason)) ∧
      exec (.pageRequest m) s = .next { t with out := droppedResponse m 1 ++ t.out })

/-- page_req_dsc: the unit writes its 32 bytes at the tail, moves the tail, sets PPR and raises the event (45 R1185; 30 R862;
little-endian: log 9; behind the buffered software stores: log 16). That it does so in any state is the model's choice (log 7),
and that a write that fails loses it (log 34). -/
def Obligations.PageDescriptorWritten : Prop :=
  ∀ (s : State) (m : PageMsg), s.quiet .perf → s.quiet .page →
    (s.writable s.prqAddr 32 = true → s.memoryForm → ∃ t, exec (.pageReqDsc m) s = .next t ∧ prqWritten s t m) ∧
    (s.writable s.prqAddr 32 = false → exec (.pageReqDsc m) s = .next { s with bus := s.prqAccess :: s.bus })

/-! ## Events, fault records, counters, registers, reset -/

/-- Raising an event: nothing if its condition was pending, IP if masked, else the message (60 R1400, R1402; held by a transient
condition: log 6), which to an address that is no interrupt address stores its DWORD in memory (60 R1400 as log 26 reads it;
little-endian: log 9; a store that fails is lost: DESIGN CHOICE, log 26). Software that clears IM while a
message is held releases it; any other write of the control register
changes IM alone (60 R1402; 11 R255). -/
def Obligations.EventRaised : Prop :=
  (∀ (s : State) (e : EventName) (was : Bool),
    raised s (s.raiseEvent e was) e was ∧
    s.raiseEvent e was = { s.setEvRegs e ((s.raiseEvent e was).evRegs e) with
      mem := (s.raiseEvent e was).mem, wbuf := (s.raiseEvent e was).wbuf, out := (s.raiseEvent e was).out } ∧
    ((was = true ∨ s.choice.hold = true ∨ s.quiet e) →
      (s.raiseEvent e was).mem = s.mem ∧ (s.raiseEvent e was).wbuf = s.wbuf) ∧
    (was = false → s.choice.hold = false → ¬ s.quiet e → s.memoryForm →
      readNat (s.raiseEvent e was).mem (s.evRegs e).msgAddr.toNat 4 = (s.evRegs e).imd.toNat ∧
      sameOutside s (s.raiseEvent e was) (s.evRegs e).msgAddr.toNat 4)) ∧
  (∀ (s u : State) (c : Choice) (e : EventName) (v : BitVec 64), s.nextEvent (.softWrite e.controlOffset 4 v) c u →
    0 < u.plat.regPages → u.iotlbReg.ivt = false → fixedAt u e.controlOffset = true →
    ∃ t, step s = .next t ∧
      (((u.evRegs e).im = true ∧ bitAt v 31 = false ∧ (u.evRegs e).ip = true ∧ u.choice.hold = false) →
        t = { u.setEvRegs e { u.evRegs e with im := false, ip := false } with
              mem := t.mem, wbuf := t.wbuf, out := .interrupt ((u.evRegs e).message e) :: u.out } ∧
        (((u.evRegs e).isInterrupt = true ∨ u.writable (u.evRegs e).msgAddr.toNat 4 = false) →
          t.mem = u.mem ∧ t.wbuf = u.wbuf) ∧
        ((u.evRegs e).isInterrupt = false → u.writable (u.evRegs e).msgAddr.toNat 4 = true → u.memoryForm →
          readNat t.mem (u.evRegs e).msgAddr.toNat 4 = (u.evRegs e).imd.toNat ∧
          sameOutside u t (u.evRegs e).msgAddr.toNat 4)) ∧
      (¬ ((u.evRegs e).im = true ∧ bitAt v 31 = false ∧ (u.evRegs e).ip = true ∧ u.choice.hold = false) →
        t = u.setEvRegs e { u.evRegs e with im := bitAt v 31 }))

/-- Reporting a fault: suppressed by FPD when qualified, by a pending overflow, by compression; an occupied record sets PFO;
else it is recorded (60 R1331, R1370). -/
def Obligations.FaultReported : Prop :=
  ∀ (s : State) (r : FaultReport), s.quiet .fault →
    ((r.qualified = true ∧ r.fpd = true) ∨ s.fsts.pfo = true ∨
      (s.plat.faultCompression = true ∧ ∃ x ∈ s.frcd, x.f = true ∧ x.sid = r.sid) → s.reportFault r = s) ∧
    (¬ ((r.qualified = true ∧ r.fpd = true) ∨ s.fsts.pfo = true ∨
        (s.plat.faultCompression = true ∧ ∃ x ∈ s.frcd, x.f = true ∧ x.sid = r.sid)) →
      (∀ old, s.frcd[s.faultIdx]? = some old → old.f = true →
        s.reportFault r = { s with fsts := { s.fsts with pfo := true } }) ∧
      (∀ old, s.frcd[s.faultIdx]? = some old → old.f = false →
        onlyReported s (s.reportFault r) ∧ recorded s (s.reportFault r) (r.record s.caps)))

/-- Writing 1 to status bits of FSTS_REG clears them, and IP of the fault event drops once none is set (11 R250; 60 R1402);
writing 1 to F of a fault record clears it, and PPF reads 0 once no record is left (11 R262; 60 R1370); a quadword write to
RTADDR_REG only stores (11 R220; 41 R955, R998; 10 R113); a read changes no state of the unit, and GSTS_REG reads as its status
bits (41 R999; 11 R210). A write to MTRRDEF_REG on a unit with MTS sets the memory type of every address that no other MTRR
names, UC while the MTRRs are off (12 R401; 22 R772), and a valid variable-range pair gives its own to the addresses that match
it (12 R404); that an address matches a pair by its mask is general knowledge, not the source's (12 R405; PRESUMED, log 25). -/
def Obligations.RegisterAccesses : Prop :=
  (∀ (s u : State) (c : Choice) (v : BitVec 64), s.nextEvent (.softWrite 0x34 4 v) c u → 0 < u.plat.regPages →
    u.iotlbReg.ivt = false →
    ∃ t, step s = .next t ∧ t = { u with fsts := t.fsts, faultEv := t.faultEv } ∧
      t.fsts = { u.fsts with
        ite := u.fsts.ite && !bitAt v 6, ice := u.fsts.ice && !bitAt v 5, iqe := u.fsts.iqe && !bitAt v 4
        pfo := u.fsts.pfo && !bitAt v 0 } ∧
      t.faultEv = (if t.faultStatusAny = true then u.faultEv else { u.faultEv with ip := false })) ∧
  (∀ (s u : State) (c : Choice) (n off : Nat) (v : BitVec 64), s.nextEvent (.softWrite off 4 v) c u →
    off = 16 * u.caps.fro + 16 * n + 12 → n < u.frcd.length → off < u.plat.regBytes → fixedAt u (off - 4) = false →
    u.caps.iro ≠ u.caps.fro + n →
    (bitAt v 31 = false → step s = .next u) ∧
    (bitAt v 31 = true → ∃ t, step s = .next t ∧ t = { u with frcd := t.frcd, faultEv := t.faultEv } ∧
      (∀ k x, t.frcd[k]? = some x ↔ ∃ y, u.frcd[k]? = some y ∧ x = (if k = n then { y with f := false } else y)) ∧
      (bitAt (fstsWord t) 1 = true ↔ ∃ k x, k ≠ n ∧ u.frcd[k]? = some x ∧ x.f = true) ∧
      t.faultEv = (if t.faultStatusAny = true then u.faultEv else { u.faultEv with ip := false }))) ∧
  (∀ (s u : State) (c : Choice) (v : BitVec 64), s.nextEvent (.softWrite 0x20 8 v) c u → 0 < u.plat.regPages →
    u.iotlbReg.ivt = false →
    step s = .next { u with rtaddr := { rta := field v 12 52, ttm := field v 10 2 } }) ∧
  (∀ (s u : State) (c : Choice) (off w : Nat), s.nextEvent (.softRead off w) c u →
    ((w = 4 ∧ off % 4 = 0) ∨ (w = 8 ∧ off % 8 = 0)) →
    (∃ val, step s = .next { u with out := .regRead off w val :: u.out, freeCtr := u.freeCtr + 1 }) ∧
    (off = 0x1C → w = 4 → 0 < u.plat.regPages → ∀ t, step s = .next t → ∃ val : BitVec 64,
      t.out = .regRead off w val :: u.out ∧ bitAt val 31 = u.gsts.tes ∧ bitAt val 30 = u.gsts.rtps ∧
      bitAt val 27 = u.gsts.wbfs ∧ bitAt val 26 = u.gsts.qies ∧ bitAt val 25 = u.gsts.ires ∧
      bitAt val 24 = u.gsts.irtps ∧ bitAt val 23 = u.gsts.cfis ∧
      ∀ k, k < 64 → k ≠ 31 → k ≠ 30 → k ≠ 27 → k ≠ 26 → k ≠ 25 → k ≠ 24 → k ≠ 23 → bitAt val k = false)) ∧
  (∀ (s u : State) (c : Choice) (v : BitVec 64), s.nextEvent (.softWrite 0x108 8 v) c u → 0 < u.plat.regPages →
    u.caps.mts = true → u.iotlbReg.ivt = false → u.caps.iro ≠ 16 →
    ∃ t, step s = .next t ∧
      t = { u with mtrr := { u.mtrr with e := bitAt v 11, fe := bitAt v 10, type := field v 0 8 } } ∧
      ∀ pa : Addr,
        (bitAt v 11 = false → mtrrType t pa = .uc) ∧
        (bitAt v 11 = true → (0x100000 ≤ pa.toNat ∨ bitAt v 10 = false) →
          ((∀ m ∈ u.mtrr.var.take u.caps.vcnt, ¬ m.covers pa) →
            (field v 0 8 = 0 → mtrrType t pa = .uc) ∧ (field v 0 8 = 1 → mtrrType t pa = .wc) ∧
            (field v 0 8 = 4 → mtrrType t pa = .wt) ∧ (field v 0 8 = 5 → mtrrType t pa = .wp) ∧
            (field v 0 8 = 6 → mtrrType t pa = .wb)) ∧
          (∀ m ∈ u.mtrr.var.take u.caps.vcnt, m.covers pa → m.type = 0 → mtrrType t pa = .uc) ∧
          (∀ m ∈ u.mtrr.var.take u.caps.vcnt, m.covers pa → m.type = 6 →
            (∀ n ∈ u.mtrr.var.take u.caps.vcnt, n.covers pa → n.type = 6) → mtrrType t pa = .wb) ∧
          (∀ m ∈ u.mtrr.var.take u.caps.vcnt, m.covers pa → m.type = 4 →
            (∀ n ∈ u.mtrr.var.take u.caps.vcnt, n.covers pa → n.type = 4 ∨ n.type = 6) → mtrrType t pa = .wt)))

/-- A counted occurrence: the counter wraps at its width and latches the overflow, which raises the perfmon event or freezes the
counters if the counter asks for it (46 R1244, R1255; 60 R1418). That no new message is sent while PIS is set is the spec's
decision D39 (60 R1418, log 27). -/
def Obligations.CounterCounts : Prop :=
  ∀ (s : State) (o : Occurrence) (k : Nat) (p : PerfCounter), s.perf.counters[k]? = some p → p.en = true →
    p.frozen = false → p.egi.toNat = o.group → bitAt p.es o.event = true → filterPass p o = true → s.quiet .perf →
    (p.value.toNat + o.amount < 2 ^ s.caps.counterWidth k → s.countAt o k = { s with perf := { s.perf with
      counters := s.perf.counters.set k { p with value := BitVec.ofNat 64 (p.value.toNat + o.amount) } } }) ∧
    (2 ^ s.caps.counterWidth k ≤ p.value.toNat + o.amount →
      ∃ t, s.countAt o k = t ∧
        t = { s with perf := t.perf, perfEv := t.perfEv, out := t.out } ∧
        t.perf.counters = (s.perf.counters.set k { p with
          value := BitVec.ofNat 64 ((p.value.toNat + o.amount) % 2 ^ s.caps.counterWidth k), overflow := true }).map
            (fun q => if p.gfo then { q with frozen := true } else q) ∧
        (if p.io = true then t.perf.pis = true ∧ raised s t .perf s.perf.pis
         else t.perf.pis = s.perf.pis ∧ t.perfEv = s.perfEv ∧ t.out = s.out))

/-- A reset that is no Power Good Reset keeps the sticky fields and clears every other; Power Good Reset clears all (70 R1451).
What the reset leaves of memory and that it is a step of its own is the spec's decision D40, the hidden state after it (caches,
pending work, latched pointers, requests in flight) its decision D41 (70 R1452, log 30). The capability registers and the
platform stay; the PASIDs handed out are free again (log 29). -/
def Obligations.StickyFieldsSurvive : Prop :=
  ∀ (s u : State) (c : Choice) (pg : Bool), s.nextEvent (.reset pg) c u →
    ∃ t, step s = .next t ∧ t.caps = u.caps ∧ t.plat = u.plat ∧ t.mem = u.mem ∧
      t.gsts = State.reset.gsts ∧ t.rtaddr = State.reset.rtaddr ∧ t.latchedRt = State.reset.latchedRt ∧
      t.ccmd = State.reset.ccmd ∧ t.iotlbReg = State.reset.iotlbReg ∧ t.iva = State.reset.iva ∧ t.iq = State.reset.iq ∧
      t.pmr = State.reset.pmr ∧ t.irta = State.reset.irta ∧ t.latchedIr = State.reset.latchedIr ∧
      (∀ e, t.evRegs e = State.reset.evRegs e) ∧ t.prq = { State.reset.prq with pro := t.prq.pro, ppr := t.prq.ppr } ∧
      t.mtrr = { e := false, fe := false, type := 0, fixed := List.replicate 11 0
                 var := List.replicate u.mtrr.var.length MtrrVar.reset } ∧
      t.perf = { pis := false, counters := List.replicate u.perf.counters.length PerfCounter.reset } ∧
      t.ecmd = State.reset.ecmd ∧ t.vcmd = { State.reset.vcmd with free := u.vcmd.allocated ++ u.vcmd.free } ∧
      t.caches = { ctx := [], pasid := [], iotlb := [], psc := [], iec := [] } ∧ t.iqPend = [] ∧ t.itags = [] ∧
      t.wbuf = [] ∧ t.inFlight = [] ∧ t.intrFlight = [] ∧ t.pendCmds = [] ∧ t.faultIdx = 0 ∧
      (pg = false → t.fsts = u.fsts ∧ t.frcd = u.frcd ∧ t.iwc = u.iwc ∧ t.iqercd = u.iqercd ∧ t.prq.pro = u.prq.pro ∧
        t.prq.ppr = u.prq.ppr) ∧
      (pg = true → t.fsts = State.reset.fsts ∧ t.frcd = List.replicate u.frcd.length Frcd.reset ∧ t.iwc = false ∧
        t.iqercd = State.reset.iqercd ∧ t.prq.pro = false ∧ t.prq.ppr = false)

/-! ## Scalable mode -/

/-- In scalable mode a request, with a PASID or by RID_PASID, of any kind, whose PASID-table entry and tables map it (first
stage, second stage, both nested, or pass-through) goes to the address they give, with the snoop attribute and memory type
they give (22 R710 to R715, R720 to R735, R740 to R751, R760, R770 to R776; 20 R525, R526). On the way the unit sets in memory
the Accessed, Extended Accessed and Dirty flags that it owes, and nothing else (22 R735, R745; 20 R531). The tables are read
with snooping as ECAP_REG.C says, paging structures as PWSNP says, flags are set with snooping. A unit with scalable mode has
no write buffer (10 R123). Four points are the model's and not the rules': the flags of a walk are set at its end (decision
D17, log 14), the values an AtomicOp stores and returns are PCI Express's (PRESUMED, log 11), a variable-range MTRR matches by
its mask (PRESUMED, log 25), and a reserved PAT value types as UC (decision D11, DEDUCED, log 26). A target that is memory only in
part counts as a device (DESIGN CHOICE, log 42). Little-endian: log 9. A posted write of the same source that is still in flight
goes first (20 R572, as D5 reads it: log 5). -/
def Obligations.ScalableTranslation : Prop :=
  ∀ (s : State) (r : MemReq) (ca da pa hpa : Addr) (ce : BitVec 256) (pasid : Pasid) (pe : BitVec 512)
    (fs tab fin : List UsedEntry) (k : Nat),
    (Instr.untranslatedRequest r).wf = true → s.requestEntry r ca da pa ce pasid pe → s.uncached →
    (r.pasid = none → inInterruptRange r.addr = false) →
    s.scalableMapped pe (s.requestPriv r ce) r.access r.addr hpa fs tab fin k →
    s.canSetFlags pe (owedEntries pe fs tab fin) → inInterruptRange hpa = false →
    pmrBlocks s .untranslated r hpa (pePgtt pe == 4) = false → s.quiet .perf → s.memoryForm →
    s.wbuf = [] →
    ∃ v w x l, onlyCounted s v ∧ w = { v with mem := w.mem, bus := l ++ s.tableReads r.sid ca da pa ++ s.bus } ∧
      flagsSet s w (owedEntries pe fs tab fin) ∧
      (∀ y ∈ l, walkAccess (snoopedWalk s.caps pe) y) ∧
      passedOn w x { req := r, hpa := hpa
                     snoop := !r.ns || pePgsnp pe || (usesSs (pePgtt pe) && s.caps.sc && bitAt (leafOf fin) 11)
                     mt := if r.coherent && s.caps.mts then some (s.scalableType pe hpa fs fin k) else none } ∧
      exec (.untranslatedRequest r) s = .next { x with freeCtr := x.freeCtr + 1 }
end

