-- ==== Sys2Proof/Laws/Bits.lean ====
section
/-! SUPPORT. Lemmas about the bit-field and byte-order helpers: a field of a concatenation, a value and its bytes. -/

namespace Sys2Proof

/-- Bit `i` of a field is bit `lo + i` of the word. -/
theorem getLsbD_field {w : Nat} (x : BitVec w) (lo n i : Nat) :
    (field x lo n).getLsbD i = (decide (i < n) && x.getLsbD (lo + i)) := by
  simp [field]

/-- A field that lies in the low part of a concatenation. -/
theorem field_append_low {v w : Nat} (x : BitVec v) (y : BitVec w) (lo n : Nat) (h : lo + n ≤ w) :
    field (x ++ y) lo n = field y lo n := by
  ext i hi
  have : lo + i < w := by omega
  simp [field, BitVec.getElem_extractLsb', BitVec.getLsbD_append, this]

/-- A field that lies in the high part of a concatenation. -/
theorem field_append_high {v w : Nat} (x : BitVec v) (y : BitVec w) (lo n : Nat) (h : w ≤ lo) :
    field (x ++ y) lo n = field x (lo - w) n := by
  ext i hi
  have h1 : ¬ lo + i < w := by omega
  have h2 : lo + i - w = lo - w + i := by omega
  simp [field, BitVec.getElem_extractLsb', BitVec.getLsbD_append, h1, h2]

/-- The whole of a word as a field. -/
theorem field_all {w : Nat} (x : BitVec w) : field x 0 w = x := by
  ext i hi
  simp [field]

/-- A field of a word of zeros. -/
theorem field_zero (w lo n : Nat) : field (0#w) lo n = 0#n := by
  ext i hi
  simp [field]

/-- A bit that lies in the low part of a concatenation. -/
theorem bitAt_append_low {v w : Nat} (x : BitVec v) (y : BitVec w) (i : Nat) (h : i < w) :
    bitAt (x ++ y) i = bitAt y i := by
  simp [bitAt, BitVec.getLsbD_append, h]

/-- A bit that lies in the high part of a concatenation. -/
theorem bitAt_append_high {v w : Nat} (x : BitVec v) (y : BitVec w) (i : Nat) (h : w ≤ i) :
    bitAt (x ++ y) i = bitAt x (i - w) := by
  have : ¬ i < w := by omega
  simp [bitAt, BitVec.getLsbD_append, this]

/-- The bit of a flag. -/
theorem bitAt_bit (b : Bool) : bitAt (bit b) 0 = b := by
  cases b <;> decide

/-- Two words are equal when their low `k` bits and the bits above are. -/
theorem eq_of_fields {w k : Nat} (x y : BitVec w) (hlo : field x 0 k = field y 0 k)
    (hhi : field x k (w - k) = field y k (w - k)) : x = y := by
  apply BitVec.eq_of_getLsbD_eq
  intro i hi
  by_cases h : i < k
  · have e : (field x 0 k).getLsbD i = (field y 0 k).getLsbD i := by rw [hlo]
    rw [getLsbD_field, getLsbD_field] at e
    simpa [h] using e
  · have e : (field x k (w - k)).getLsbD (i - k) = (field y k (w - k)).getLsbD (i - k) := by rw [hhi]
    rw [getLsbD_field, getLsbD_field] at e
    have h1 : i - k < w - k := by omega
    have h2 : k + (i - k) = i := by omega
    simpa [h1, h2] using e

/-- The bytes of a value are as many as asked for. -/
@[simp] theorem length_toBytes (n v : Nat) : (toBytes n v).length = n := by
  induction n generalizing v with
  | zero => rfl
  | succ n ih => simp [toBytes, ih]

/-- The value of the bytes of a value. -/
theorem ofBytes_toBytes (n v : Nat) : ofBytes (toBytes n v) = v % 256 ^ n := by
  induction n generalizing v with
  | zero => simp [toBytes, ofBytes, Nat.mod_one]
  | succ n ih =>
    have h : v % 256 ^ (n + 1) = v % 256 + 256 * (v / 256 % 256 ^ n) := by
      rw [Nat.pow_succ', Nat.mod_mul]
    rw [toBytes, ofBytes, ih, BitVec.toNat_ofNat, h]

/-- A list of bytes is below the bound its length gives. -/
theorem ofBytes_lt (bs : List Byte) : ofBytes bs < 256 ^ bs.length := by
  induction bs with
  | nil => simp [ofBytes]
  | cons b bs ih =>
    have hb := b.isLt
    rw [ofBytes, List.length_cons, Nat.pow_succ]
    omega

/-- The bytes of the value of a list of bytes. -/
theorem toBytes_ofBytes (bs : List Byte) : toBytes bs.length (ofBytes bs) = bs := by
  induction bs with
  | nil => rfl
  | cons b bs ih =>
    have hb := b.isLt
    have h1 : (b.toNat + 256 * ofBytes bs) / 256 = ofBytes bs := by omega
    have h2 : BitVec.ofNat 8 (b.toNat + 256 * ofBytes bs) = b := by
      apply BitVec.eq_of_toNat_eq
      rw [BitVec.toNat_ofNat]
      omega
    simp [toBytes, ofBytes, h1, h2, ih]

end Sys2Proof
end

