-- ==== Sys2Proof/Laws/State.lean ====
section
/-! SUPPORT. One lemma per field per update of `State`, true by rfl: what each elementary operation leaves unchanged, and
the field it writes. -/

namespace Sys2Proof.Machine

/-! ## `State.emit` -/

@[simp] theorem State.emit_caps (s : State) (o : Out) : (s.emit o).caps = s.caps := rfl
@[simp] theorem State.emit_plat (s : State) (o : Out) : (s.emit o).plat = s.plat := rfl
@[simp] theorem State.emit_gsts (s : State) (o : Out) : (s.emit o).gsts = s.gsts := rfl
@[simp] theorem State.emit_rtaddr (s : State) (o : Out) : (s.emit o).rtaddr = s.rtaddr := rfl
@[simp] theorem State.emit_latchedRt (s : State) (o : Out) : (s.emit o).latchedRt = s.latchedRt := rfl
@[simp] theorem State.emit_ccmd (s : State) (o : Out) : (s.emit o).ccmd = s.ccmd := rfl
@[simp] theorem State.emit_iotlbReg (s : State) (o : Out) : (s.emit o).iotlbReg = s.iotlbReg := rfl
@[simp] theorem State.emit_iva (s : State) (o : Out) : (s.emit o).iva = s.iva := rfl
@[simp] theorem State.emit_fsts (s : State) (o : Out) : (s.emit o).fsts = s.fsts := rfl
@[simp] theorem State.emit_frcd (s : State) (o : Out) : (s.emit o).frcd = s.frcd := rfl
@[simp] theorem State.emit_faultIdx (s : State) (o : Out) : (s.emit o).faultIdx = s.faultIdx := rfl
@[simp] theorem State.emit_faultEv (s : State) (o : Out) : (s.emit o).faultEv = s.faultEv := rfl
@[simp] theorem State.emit_invEv (s : State) (o : Out) : (s.emit o).invEv = s.invEv := rfl
@[simp] theorem State.emit_pageEv (s : State) (o : Out) : (s.emit o).pageEv = s.pageEv := rfl
@[simp] theorem State.emit_perfEv (s : State) (o : Out) : (s.emit o).perfEv = s.perfEv := rfl
@[simp] theorem State.emit_pmr (s : State) (o : Out) : (s.emit o).pmr = s.pmr := rfl
@[simp] theorem State.emit_iq (s : State) (o : Out) : (s.emit o).iq = s.iq := rfl
@[simp] theorem State.emit_iwc (s : State) (o : Out) : (s.emit o).iwc = s.iwc := rfl
@[simp] theorem State.emit_iqercd (s : State) (o : Out) : (s.emit o).iqercd = s.iqercd := rfl
@[simp] theorem State.emit_irta (s : State) (o : Out) : (s.emit o).irta = s.irta := rfl
@[simp] theorem State.emit_latchedIr (s : State) (o : Out) : (s.emit o).latchedIr = s.latchedIr := rfl
@[simp] theorem State.emit_prq (s : State) (o : Out) : (s.emit o).prq = s.prq := rfl
@[simp] theorem State.emit_mtrr (s : State) (o : Out) : (s.emit o).mtrr = s.mtrr := rfl
@[simp] theorem State.emit_perf (s : State) (o : Out) : (s.emit o).perf = s.perf := rfl
@[simp] theorem State.emit_ecmd (s : State) (o : Out) : (s.emit o).ecmd = s.ecmd := rfl
@[simp] theorem State.emit_vcmd (s : State) (o : Out) : (s.emit o).vcmd = s.vcmd := rfl
@[simp] theorem State.emit_caches (s : State) (o : Out) : (s.emit o).caches = s.caches := rfl
@[simp] theorem State.emit_iqPend (s : State) (o : Out) : (s.emit o).iqPend = s.iqPend := rfl
@[simp] theorem State.emit_itags (s : State) (o : Out) : (s.emit o).itags = s.itags := rfl
@[simp] theorem State.emit_wbuf (s : State) (o : Out) : (s.emit o).wbuf = s.wbuf := rfl
@[simp] theorem State.emit_inFlight (s : State) (o : Out) : (s.emit o).inFlight = s.inFlight := rfl
@[simp] theorem State.emit_intrFlight (s : State) (o : Out) : (s.emit o).intrFlight = s.intrFlight := rfl
@[simp] theorem State.emit_pendCmds (s : State) (o : Out) : (s.emit o).pendCmds = s.pendCmds := rfl
@[simp] theorem State.emit_mem (s : State) (o : Out) : (s.emit o).mem = s.mem := rfl
@[simp] theorem State.emit_bus (s : State) (o : Out) : (s.emit o).bus = s.bus := rfl
@[simp] theorem State.emit_inputs (s : State) (o : Out) : (s.emit o).inputs = s.inputs := rfl
@[simp] theorem State.emit_choice (s : State) (o : Out) : (s.emit o).choice = s.choice := rfl
@[simp] theorem State.emit_freeCtr (s : State) (o : Out) : (s.emit o).freeCtr = s.freeCtr := rfl

/-! ## `State.respond` -/

@[simp] theorem State.respond_caps (s : State) (sid : SourceId) (r : Response) : (s.respond sid r).caps = s.caps := rfl
@[simp] theorem State.respond_plat (s : State) (sid : SourceId) (r : Response) : (s.respond sid r).plat = s.plat := rfl
@[simp] theorem State.respond_gsts (s : State) (sid : SourceId) (r : Response) : (s.respond sid r).gsts = s.gsts := rfl
@[simp] theorem State.respond_rtaddr (s : State) (sid : SourceId) (r : Response) : (s.respond sid r).rtaddr = s.rtaddr := rfl
@[simp] theorem State.respond_latchedRt (s : State) (sid : SourceId) (r : Response) : (s.respond sid r).latchedRt = s.latchedRt := rfl
@[simp] theorem State.respond_ccmd (s : State) (sid : SourceId) (r : Response) : (s.respond sid r).ccmd = s.ccmd := rfl
@[simp] theorem State.respond_iotlbReg (s : State) (sid : SourceId) (r : Response) : (s.respond sid r).iotlbReg = s.iotlbReg := rfl
@[simp] theorem State.respond_iva (s : State) (sid : SourceId) (r : Response) : (s.respond sid r).iva = s.iva := rfl
@[simp] theorem State.respond_fsts (s : State) (sid : SourceId) (r : Response) : (s.respond sid r).fsts = s.fsts := rfl
@[simp] theorem State.respond_frcd (s : State) (sid : SourceId) (r : Response) : (s.respond sid r).frcd = s.frcd := rfl
@[simp] theorem State.respond_faultIdx (s : State) (sid : SourceId) (r : Response) : (s.respond sid r).faultIdx = s.faultIdx := rfl
@[simp] theorem State.respond_faultEv (s : State) (sid : SourceId) (r : Response) : (s.respond sid r).faultEv = s.faultEv := rfl
@[simp] theorem State.respond_invEv (s : State) (sid : SourceId) (r : Response) : (s.respond sid r).invEv = s.invEv := rfl
@[simp] theorem State.respond_pageEv (s : State) (sid : SourceId) (r : Response) : (s.respond sid r).pageEv = s.pageEv := rfl
@[simp] theorem State.respond_perfEv (s : State) (sid : SourceId) (r : Response) : (s.respond sid r).perfEv = s.perfEv := rfl
@[simp] theorem State.respond_pmr (s : State) (sid : SourceId) (r : Response) : (s.respond sid r).pmr = s.pmr := rfl
@[simp] theorem State.respond_iq (s : State) (sid : SourceId) (r : Response) : (s.respond sid r).iq = s.iq := rfl
@[simp] theorem State.respond_iwc (s : State) (sid : SourceId) (r : Response) : (s.respond sid r).iwc = s.iwc := rfl
@[simp] theorem State.respond_iqercd (s : State) (sid : SourceId) (r : Response) : (s.respond sid r).iqercd = s.iqercd := rfl
@[simp] theorem State.respond_irta (s : State) (sid : SourceId) (r : Response) : (s.respond sid r).irta = s.irta := rfl
@[simp] theorem State.respond_latchedIr (s : State) (sid : SourceId) (r : Response) : (s.respond sid r).latchedIr = s.latchedIr := rfl
@[simp] theorem State.respond_prq (s : State) (sid : SourceId) (r : Response) : (s.respond sid r).prq = s.prq := rfl
@[simp] theorem State.respond_mtrr (s : State) (sid : SourceId) (r : Response) : (s.respond sid r).mtrr = s.mtrr := rfl
@[simp] theorem State.respond_perf (s : State) (sid : SourceId) (r : Response) : (s.respond sid r).perf = s.perf := rfl
@[simp] theorem State.respond_ecmd (s : State) (sid : SourceId) (r : Response) : (s.respond sid r).ecmd = s.ecmd := rfl
@[simp] theorem State.respond_vcmd (s : State) (sid : SourceId) (r : Response) : (s.respond sid r).vcmd = s.vcmd := rfl
@[simp] theorem State.respond_caches (s : State) (sid : SourceId) (r : Response) : (s.respond sid r).caches = s.caches := rfl
@[simp] theorem State.respond_iqPend (s : State) (sid : SourceId) (r : Response) : (s.respond sid r).iqPend = s.iqPend := rfl
@[simp] theorem State.respond_itags (s : State) (sid : SourceId) (r : Response) : (s.respond sid r).itags = s.itags := rfl
@[simp] theorem State.respond_wbuf (s : State) (sid : SourceId) (r : Response) : (s.respond sid r).wbuf = s.wbuf := rfl
@[simp] theorem State.respond_inFlight (s : State) (sid : SourceId) (r : Response) : (s.respond sid r).inFlight = s.inFlight := rfl
@[simp] theorem State.respond_intrFlight (s : State) (sid : SourceId) (r : Response) : (s.respond sid r).intrFlight = s.intrFlight := rfl
@[simp] theorem State.respond_pendCmds (s : State) (sid : SourceId) (r : Response) : (s.respond sid r).pendCmds = s.pendCmds := rfl
@[simp] theorem State.respond_mem (s : State) (sid : SourceId) (r : Response) : (s.respond sid r).mem = s.mem := rfl
@[simp] theorem State.respond_bus (s : State) (sid : SourceId) (r : Response) : (s.respond sid r).bus = s.bus := rfl
@[simp] theorem State.respond_inputs (s : State) (sid : SourceId) (r : Response) : (s.respond sid r).inputs = s.inputs := rfl
@[simp] theorem State.respond_choice (s : State) (sid : SourceId) (r : Response) : (s.respond sid r).choice = s.choice := rfl
@[simp] theorem State.respond_freeCtr (s : State) (sid : SourceId) (r : Response) : (s.respond sid r).freeCtr = s.freeCtr := rfl

/-! ## `State.access` -/

@[simp] theorem State.access_caps (s : State) (k : BusKind) (a n : Nat) (b : Bool) : (s.access k a n b).caps = s.caps := rfl
@[simp] theorem State.access_plat (s : State) (k : BusKind) (a n : Nat) (b : Bool) : (s.access k a n b).plat = s.plat := rfl
@[simp] theorem State.access_gsts (s : State) (k : BusKind) (a n : Nat) (b : Bool) : (s.access k a n b).gsts = s.gsts := rfl
@[simp] theorem State.access_rtaddr (s : State) (k : BusKind) (a n : Nat) (b : Bool) : (s.access k a n b).rtaddr = s.rtaddr := rfl
@[simp] theorem State.access_latchedRt (s : State) (k : BusKind) (a n : Nat) (b : Bool) : (s.access k a n b).latchedRt = s.latchedRt := rfl
@[simp] theorem State.access_ccmd (s : State) (k : BusKind) (a n : Nat) (b : Bool) : (s.access k a n b).ccmd = s.ccmd := rfl
@[simp] theorem State.access_iotlbReg (s : State) (k : BusKind) (a n : Nat) (b : Bool) : (s.access k a n b).iotlbReg = s.iotlbReg := rfl
@[simp] theorem State.access_iva (s : State) (k : BusKind) (a n : Nat) (b : Bool) : (s.access k a n b).iva = s.iva := rfl
@[simp] theorem State.access_fsts (s : State) (k : BusKind) (a n : Nat) (b : Bool) : (s.access k a n b).fsts = s.fsts := rfl
@[simp] theorem State.access_frcd (s : State) (k : BusKind) (a n : Nat) (b : Bool) : (s.access k a n b).frcd = s.frcd := rfl
@[simp] theorem State.access_faultIdx (s : State) (k : BusKind) (a n : Nat) (b : Bool) : (s.access k a n b).faultIdx = s.faultIdx := rfl
@[simp] theorem State.access_faultEv (s : State) (k : BusKind) (a n : Nat) (b : Bool) : (s.access k a n b).faultEv = s.faultEv := rfl
@[simp] theorem State.access_invEv (s : State) (k : BusKind) (a n : Nat) (b : Bool) : (s.access k a n b).invEv = s.invEv := rfl
@[simp] theorem State.access_pageEv (s : State) (k : BusKind) (a n : Nat) (b : Bool) : (s.access k a n b).pageEv = s.pageEv := rfl
@[simp] theorem State.access_perfEv (s : State) (k : BusKind) (a n : Nat) (b : Bool) : (s.access k a n b).perfEv = s.perfEv := rfl
@[simp] theorem State.access_pmr (s : State) (k : BusKind) (a n : Nat) (b : Bool) : (s.access k a n b).pmr = s.pmr := rfl
@[simp] theorem State.access_iq (s : State) (k : BusKind) (a n : Nat) (b : Bool) : (s.access k a n b).iq = s.iq := rfl
@[simp] theorem State.access_iwc (s : State) (k : BusKind) (a n : Nat) (b : Bool) : (s.access k a n b).iwc = s.iwc := rfl
@[simp] theorem State.access_iqercd (s : State) (k : BusKind) (a n : Nat) (b : Bool) : (s.access k a n b).iqercd = s.iqercd := rfl
@[simp] theorem State.access_irta (s : State) (k : BusKind) (a n : Nat) (b : Bool) : (s.access k a n b).irta = s.irta := rfl
@[simp] theorem State.access_latchedIr (s : State) (k : BusKind) (a n : Nat) (b : Bool) : (s.access k a n b).latchedIr = s.latchedIr := rfl
@[simp] theorem State.access_prq (s : State) (k : BusKind) (a n : Nat) (b : Bool) : (s.access k a n b).prq = s.prq := rfl
@[simp] theorem State.access_mtrr (s : State) (k : BusKind) (a n : Nat) (b : Bool) : (s.access k a n b).mtrr = s.mtrr := rfl
@[simp] theorem State.access_perf (s : State) (k : BusKind) (a n : Nat) (b : Bool) : (s.access k a n b).perf = s.perf := rfl
@[simp] theorem State.access_ecmd (s : State) (k : BusKind) (a n : Nat) (b : Bool) : (s.access k a n b).ecmd = s.ecmd := rfl
@[simp] theorem State.access_vcmd (s : State) (k : BusKind) (a n : Nat) (b : Bool) : (s.access k a n b).vcmd = s.vcmd := rfl
@[simp] theorem State.access_caches (s : State) (k : BusKind) (a n : Nat) (b : Bool) : (s.access k a n b).caches = s.caches := rfl
@[simp] theorem State.access_iqPend (s : State) (k : BusKind) (a n : Nat) (b : Bool) : (s.access k a n b).iqPend = s.iqPend := rfl
@[simp] theorem State.access_itags (s : State) (k : BusKind) (a n : Nat) (b : Bool) : (s.access k a n b).itags = s.itags := rfl
@[simp] theorem State.access_wbuf (s : State) (k : BusKind) (a n : Nat) (b : Bool) : (s.access k a n b).wbuf = s.wbuf := rfl
@[simp] theorem State.access_inFlight (s : State) (k : BusKind) (a n : Nat) (b : Bool) : (s.access k a n b).inFlight = s.inFlight := rfl
@[simp] theorem State.access_intrFlight (s : State) (k : BusKind) (a n : Nat) (b : Bool) : (s.access k a n b).intrFlight = s.intrFlight := rfl
@[simp] theorem State.access_pendCmds (s : State) (k : BusKind) (a n : Nat) (b : Bool) : (s.access k a n b).pendCmds = s.pendCmds := rfl
@[simp] theorem State.access_mem (s : State) (k : BusKind) (a n : Nat) (b : Bool) : (s.access k a n b).mem = s.mem := rfl
@[simp] theorem State.access_out (s : State) (k : BusKind) (a n : Nat) (b : Bool) : (s.access k a n b).out = s.out := rfl
@[simp] theorem State.access_inputs (s : State) (k : BusKind) (a n : Nat) (b : Bool) : (s.access k a n b).inputs = s.inputs := rfl
@[simp] theorem State.access_choice (s : State) (k : BusKind) (a n : Nat) (b : Bool) : (s.access k a n b).choice = s.choice := rfl
@[simp] theorem State.access_freeCtr (s : State) (k : BusKind) (a n : Nat) (b : Bool) : (s.access k a n b).freeCtr = s.freeCtr := rfl

/-! ## `State.accessAll` -/

@[simp] theorem State.accessAll_caps (s : State) (t : Trail) : (s.accessAll t).caps = s.caps := rfl
@[simp] theorem State.accessAll_plat (s : State) (t : Trail) : (s.accessAll t).plat = s.plat := rfl
@[simp] theorem State.accessAll_gsts (s : State) (t : Trail) : (s.accessAll t).gsts = s.gsts := rfl
@[simp] theorem State.accessAll_rtaddr (s : State) (t : Trail) : (s.accessAll t).rtaddr = s.rtaddr := rfl
@[simp] theorem State.accessAll_latchedRt (s : State) (t : Trail) : (s.accessAll t).latchedRt = s.latchedRt := rfl
@[simp] theorem State.accessAll_ccmd (s : State) (t : Trail) : (s.accessAll t).ccmd = s.ccmd := rfl
@[simp] theorem State.accessAll_iotlbReg (s : State) (t : Trail) : (s.accessAll t).iotlbReg = s.iotlbReg := rfl
@[simp] theorem State.accessAll_iva (s : State) (t : Trail) : (s.accessAll t).iva = s.iva := rfl
@[simp] theorem State.accessAll_fsts (s : State) (t : Trail) : (s.accessAll t).fsts = s.fsts := rfl
@[simp] theorem State.accessAll_frcd (s : State) (t : Trail) : (s.accessAll t).frcd = s.frcd := rfl
@[simp] theorem State.accessAll_faultIdx (s : State) (t : Trail) : (s.accessAll t).faultIdx = s.faultIdx := rfl
@[simp] theorem State.accessAll_faultEv (s : State) (t : Trail) : (s.accessAll t).faultEv = s.faultEv := rfl
@[simp] theorem State.accessAll_invEv (s : State) (t : Trail) : (s.accessAll t).invEv = s.invEv := rfl
@[simp] theorem State.accessAll_pageEv (s : State) (t : Trail) : (s.accessAll t).pageEv = s.pageEv := rfl
@[simp] theorem State.accessAll_perfEv (s : State) (t : Trail) : (s.accessAll t).perfEv = s.perfEv := rfl
@[simp] theorem State.accessAll_pmr (s : State) (t : Trail) : (s.accessAll t).pmr = s.pmr := rfl
@[simp] theorem State.accessAll_iq (s : State) (t : Trail) : (s.accessAll t).iq = s.iq := rfl
@[simp] theorem State.accessAll_iwc (s : State) (t : Trail) : (s.accessAll t).iwc = s.iwc := rfl
@[simp] theorem State.accessAll_iqercd (s : State) (t : Trail) : (s.accessAll t).iqercd = s.iqercd := rfl
@[simp] theorem State.accessAll_irta (s : State) (t : Trail) : (s.accessAll t).irta = s.irta := rfl
@[simp] theorem State.accessAll_latchedIr (s : State) (t : Trail) : (s.accessAll t).latchedIr = s.latchedIr := rfl
@[simp] theorem State.accessAll_prq (s : State) (t : Trail) : (s.accessAll t).prq = s.prq := rfl
@[simp] theorem State.accessAll_mtrr (s : State) (t : Trail) : (s.accessAll t).mtrr = s.mtrr := rfl
@[simp] theorem State.accessAll_perf (s : State) (t : Trail) : (s.accessAll t).perf = s.perf := rfl
@[simp] theorem State.accessAll_ecmd (s : State) (t : Trail) : (s.accessAll t).ecmd = s.ecmd := rfl
@[simp] theorem State.accessAll_vcmd (s : State) (t : Trail) : (s.accessAll t).vcmd = s.vcmd := rfl
@[simp] theorem State.accessAll_caches (s : State) (t : Trail) : (s.accessAll t).caches = s.caches := rfl
@[simp] theorem State.accessAll_iqPend (s : State) (t : Trail) : (s.accessAll t).iqPend = s.iqPend := rfl
@[simp] theorem State.accessAll_itags (s : State) (t : Trail) : (s.accessAll t).itags = s.itags := rfl
@[simp] theorem State.accessAll_wbuf (s : State) (t : Trail) : (s.accessAll t).wbuf = s.wbuf := rfl
@[simp] theorem State.accessAll_inFlight (s : State) (t : Trail) : (s.accessAll t).inFlight = s.inFlight := rfl
@[simp] theorem State.accessAll_intrFlight (s : State) (t : Trail) : (s.accessAll t).intrFlight = s.intrFlight := rfl
@[simp] theorem State.accessAll_pendCmds (s : State) (t : Trail) : (s.accessAll t).pendCmds = s.pendCmds := rfl
@[simp] theorem State.accessAll_mem (s : State) (t : Trail) : (s.accessAll t).mem = s.mem := rfl
@[simp] theorem State.accessAll_out (s : State) (t : Trail) : (s.accessAll t).out = s.out := rfl
@[simp] theorem State.accessAll_inputs (s : State) (t : Trail) : (s.accessAll t).inputs = s.inputs := rfl
@[simp] theorem State.accessAll_choice (s : State) (t : Trail) : (s.accessAll t).choice = s.choice := rfl
@[simp] theorem State.accessAll_freeCtr (s : State) (t : Trail) : (s.accessAll t).freeCtr = s.freeCtr := rfl

/-! ## `State.fresh` -/

@[simp] theorem State.fresh_caps (s : State) : (s.fresh).caps = s.caps := rfl
@[simp] theorem State.fresh_plat (s : State) : (s.fresh).plat = s.plat := rfl
@[simp] theorem State.fresh_gsts (s : State) : (s.fresh).gsts = s.gsts := rfl
@[simp] theorem State.fresh_rtaddr (s : State) : (s.fresh).rtaddr = s.rtaddr := rfl
@[simp] theorem State.fresh_latchedRt (s : State) : (s.fresh).latchedRt = s.latchedRt := rfl
@[simp] theorem State.fresh_ccmd (s : State) : (s.fresh).ccmd = s.ccmd := rfl
@[simp] theorem State.fresh_iotlbReg (s : State) : (s.fresh).iotlbReg = s.iotlbReg := rfl
@[simp] theorem State.fresh_iva (s : State) : (s.fresh).iva = s.iva := rfl
@[simp] theorem State.fresh_fsts (s : State) : (s.fresh).fsts = s.fsts := rfl
@[simp] theorem State.fresh_frcd (s : State) : (s.fresh).frcd = s.frcd := rfl
@[simp] theorem State.fresh_faultIdx (s : State) : (s.fresh).faultIdx = s.faultIdx := rfl
@[simp] theorem State.fresh_faultEv (s : State) : (s.fresh).faultEv = s.faultEv := rfl
@[simp] theorem State.fresh_invEv (s : State) : (s.fresh).invEv = s.invEv := rfl
@[simp] theorem State.fresh_pageEv (s : State) : (s.fresh).pageEv = s.pageEv := rfl
@[simp] theorem State.fresh_perfEv (s : State) : (s.fresh).perfEv = s.perfEv := rfl
@[simp] theorem State.fresh_pmr (s : State) : (s.fresh).pmr = s.pmr := rfl
@[simp] theorem State.fresh_iq (s : State) : (s.fresh).iq = s.iq := rfl
@[simp] theorem State.fresh_iwc (s : State) : (s.fresh).iwc = s.iwc := rfl
@[simp] theorem State.fresh_iqercd (s : State) : (s.fresh).iqercd = s.iqercd := rfl
@[simp] theorem State.fresh_irta (s : State) : (s.fresh).irta = s.irta := rfl
@[simp] theorem State.fresh_latchedIr (s : State) : (s.fresh).latchedIr = s.latchedIr := rfl
@[simp] theorem State.fresh_prq (s : State) : (s.fresh).prq = s.prq := rfl
@[simp] theorem State.fresh_mtrr (s : State) : (s.fresh).mtrr = s.mtrr := rfl
@[simp] theorem State.fresh_perf (s : State) : (s.fresh).perf = s.perf := rfl
@[simp] theorem State.fresh_ecmd (s : State) : (s.fresh).ecmd = s.ecmd := rfl
@[simp] theorem State.fresh_vcmd (s : State) : (s.fresh).vcmd = s.vcmd := rfl
@[simp] theorem State.fresh_caches (s : State) : (s.fresh).caches = s.caches := rfl
@[simp] theorem State.fresh_iqPend (s : State) : (s.fresh).iqPend = s.iqPend := rfl
@[simp] theorem State.fresh_itags (s : State) : (s.fresh).itags = s.itags := rfl
@[simp] theorem State.fresh_wbuf (s : State) : (s.fresh).wbuf = s.wbuf := rfl
@[simp] theorem State.fresh_inFlight (s : State) : (s.fresh).inFlight = s.inFlight := rfl
@[simp] theorem State.fresh_intrFlight (s : State) : (s.fresh).intrFlight = s.intrFlight := rfl
@[simp] theorem State.fresh_pendCmds (s : State) : (s.fresh).pendCmds = s.pendCmds := rfl
@[simp] theorem State.fresh_mem (s : State) : (s.fresh).mem = s.mem := rfl
@[simp] theorem State.fresh_out (s : State) : (s.fresh).out = s.out := rfl
@[simp] theorem State.fresh_bus (s : State) : (s.fresh).bus = s.bus := rfl
@[simp] theorem State.fresh_inputs (s : State) : (s.fresh).inputs = s.inputs := rfl
@[simp] theorem State.fresh_choice (s : State) : (s.fresh).choice = s.choice := rfl

/-! ## `State.flush` -/

@[simp] theorem State.flush_caps (s : State) : (s.flush).caps = s.caps := rfl
@[simp] theorem State.flush_plat (s : State) : (s.flush).plat = s.plat := rfl
@[simp] theorem State.flush_gsts (s : State) : (s.flush).gsts = s.gsts := rfl
@[simp] theorem State.flush_rtaddr (s : State) : (s.flush).rtaddr = s.rtaddr := rfl
@[simp] theorem State.flush_latchedRt (s : State) : (s.flush).latchedRt = s.latchedRt := rfl
@[simp] theorem State.flush_ccmd (s : State) : (s.flush).ccmd = s.ccmd := rfl
@[simp] theorem State.flush_iotlbReg (s : State) : (s.flush).iotlbReg = s.iotlbReg := rfl
@[simp] theorem State.flush_iva (s : State) : (s.flush).iva = s.iva := rfl
@[simp] theorem State.flush_fsts (s : State) : (s.flush).fsts = s.fsts := rfl
@[simp] theorem State.flush_frcd (s : State) : (s.flush).frcd = s.frcd := rfl
@[simp] theorem State.flush_faultIdx (s : State) : (s.flush).faultIdx = s.faultIdx := rfl
@[simp] theorem State.flush_faultEv (s : State) : (s.flush).faultEv = s.faultEv := rfl
@[simp] theorem State.flush_invEv (s : State) : (s.flush).invEv = s.invEv := rfl
@[simp] theorem State.flush_pageEv (s : State) : (s.flush).pageEv = s.pageEv := rfl
@[simp] theorem State.flush_perfEv (s : State) : (s.flush).perfEv = s.perfEv := rfl
@[simp] theorem State.flush_pmr (s : State) : (s.flush).pmr = s.pmr := rfl
@[simp] theorem State.flush_iq (s : State) : (s.flush).iq = s.iq := rfl
@[simp] theorem State.flush_iwc (s : State) : (s.flush).iwc = s.iwc := rfl
@[simp] theorem State.flush_iqercd (s : State) : (s.flush).iqercd = s.iqercd := rfl
@[simp] theorem State.flush_irta (s : State) : (s.flush).irta = s.irta := rfl
@[simp] theorem State.flush_latchedIr (s : State) : (s.flush).latchedIr = s.latchedIr := rfl
@[simp] theorem State.flush_prq (s : State) : (s.flush).prq = s.prq := rfl
@[simp] theorem State.flush_mtrr (s : State) : (s.flush).mtrr = s.mtrr := rfl
@[simp] theorem State.flush_perf (s : State) : (s.flush).perf = s.perf := rfl
@[simp] theorem State.flush_ecmd (s : State) : (s.flush).ecmd = s.ecmd := rfl
@[simp] theorem State.flush_vcmd (s : State) : (s.flush).vcmd = s.vcmd := rfl
@[simp] theorem State.flush_caches (s : State) : (s.flush).caches = s.caches := rfl
@[simp] theorem State.flush_iqPend (s : State) : (s.flush).iqPend = s.iqPend := rfl
@[simp] theorem State.flush_itags (s : State) : (s.flush).itags = s.itags := rfl
@[simp] theorem State.flush_inFlight (s : State) : (s.flush).inFlight = s.inFlight := rfl
@[simp] theorem State.flush_intrFlight (s : State) : (s.flush).intrFlight = s.intrFlight := rfl
@[simp] theorem State.flush_pendCmds (s : State) : (s.flush).pendCmds = s.pendCmds := rfl
@[simp] theorem State.flush_out (s : State) : (s.flush).out = s.out := rfl
@[simp] theorem State.flush_bus (s : State) : (s.flush).bus = s.bus := rfl
@[simp] theorem State.flush_inputs (s : State) : (s.flush).inputs = s.inputs := rfl
@[simp] theorem State.flush_choice (s : State) : (s.flush).choice = s.choice := rfl
@[simp] theorem State.flush_freeCtr (s : State) : (s.flush).freeCtr = s.freeCtr := rfl

/-! ## `State.memWrite` -/

@[simp] theorem State.memWrite_caps (s : State) (a n v : Nat) : (s.memWrite a n v).caps = s.caps := rfl
@[simp] theorem State.memWrite_plat (s : State) (a n v : Nat) : (s.memWrite a n v).plat = s.plat := rfl
@[simp] theorem State.memWrite_gsts (s : State) (a n v : Nat) : (s.memWrite a n v).gsts = s.gsts := rfl
@[simp] theorem State.memWrite_rtaddr (s : State) (a n v : Nat) : (s.memWrite a n v).rtaddr = s.rtaddr := rfl
@[simp] theorem State.memWrite_latchedRt (s : State) (a n v : Nat) : (s.memWrite a n v).latchedRt = s.latchedRt := rfl
@[simp] theorem State.memWrite_ccmd (s : State) (a n v : Nat) : (s.memWrite a n v).ccmd = s.ccmd := rfl
@[simp] theorem State.memWrite_iotlbReg (s : State) (a n v : Nat) : (s.memWrite a n v).iotlbReg = s.iotlbReg := rfl
@[simp] theorem State.memWrite_iva (s : State) (a n v : Nat) : (s.memWrite a n v).iva = s.iva := rfl
@[simp] theorem State.memWrite_fsts (s : State) (a n v : Nat) : (s.memWrite a n v).fsts = s.fsts := rfl
@[simp] theorem State.memWrite_frcd (s : State) (a n v : Nat) : (s.memWrite a n v).frcd = s.frcd := rfl
@[simp] theorem State.memWrite_faultIdx (s : State) (a n v : Nat) : (s.memWrite a n v).faultIdx = s.faultIdx := rfl
@[simp] theorem State.memWrite_faultEv (s : State) (a n v : Nat) : (s.memWrite a n v).faultEv = s.faultEv := rfl
@[simp] theorem State.memWrite_invEv (s : State) (a n v : Nat) : (s.memWrite a n v).invEv = s.invEv := rfl
@[simp] theorem State.memWrite_pageEv (s : State) (a n v : Nat) : (s.memWrite a n v).pageEv = s.pageEv := rfl
@[simp] theorem State.memWrite_perfEv (s : State) (a n v : Nat) : (s.memWrite a n v).perfEv = s.perfEv := rfl
@[simp] theorem State.memWrite_pmr (s : State) (a n v : Nat) : (s.memWrite a n v).pmr = s.pmr := rfl
@[simp] theorem State.memWrite_iq (s : State) (a n v : Nat) : (s.memWrite a n v).iq = s.iq := rfl
@[simp] theorem State.memWrite_iwc (s : State) (a n v : Nat) : (s.memWrite a n v).iwc = s.iwc := rfl
@[simp] theorem State.memWrite_iqercd (s : State) (a n v : Nat) : (s.memWrite a n v).iqercd = s.iqercd := rfl
@[simp] theorem State.memWrite_irta (s : State) (a n v : Nat) : (s.memWrite a n v).irta = s.irta := rfl
@[simp] theorem State.memWrite_latchedIr (s : State) (a n v : Nat) : (s.memWrite a n v).latchedIr = s.latchedIr := rfl
@[simp] theorem State.memWrite_prq (s : State) (a n v : Nat) : (s.memWrite a n v).prq = s.prq := rfl
@[simp] theorem State.memWrite_mtrr (s : State) (a n v : Nat) : (s.memWrite a n v).mtrr = s.mtrr := rfl
@[simp] theorem State.memWrite_perf (s : State) (a n v : Nat) : (s.memWrite a n v).perf = s.perf := rfl
@[simp] theorem State.memWrite_ecmd (s : State) (a n v : Nat) : (s.memWrite a n v).ecmd = s.ecmd := rfl
@[simp] theorem State.memWrite_vcmd (s : State) (a n v : Nat) : (s.memWrite a n v).vcmd = s.vcmd := rfl
@[simp] theorem State.memWrite_caches (s : State) (a n v : Nat) : (s.memWrite a n v).caches = s.caches := rfl
@[simp] theorem State.memWrite_iqPend (s : State) (a n v : Nat) : (s.memWrite a n v).iqPend = s.iqPend := rfl
@[simp] theorem State.memWrite_itags (s : State) (a n v : Nat) : (s.memWrite a n v).itags = s.itags := rfl
@[simp] theorem State.memWrite_inFlight (s : State) (a n v : Nat) : (s.memWrite a n v).inFlight = s.inFlight := rfl
@[simp] theorem State.memWrite_intrFlight (s : State) (a n v : Nat) : (s.memWrite a n v).intrFlight = s.intrFlight := rfl
@[simp] theorem State.memWrite_pendCmds (s : State) (a n v : Nat) : (s.memWrite a n v).pendCmds = s.pendCmds := rfl
@[simp] theorem State.memWrite_out (s : State) (a n v : Nat) : (s.memWrite a n v).out = s.out := rfl
@[simp] theorem State.memWrite_bus (s : State) (a n v : Nat) : (s.memWrite a n v).bus = s.bus := rfl
@[simp] theorem State.memWrite_inputs (s : State) (a n v : Nat) : (s.memWrite a n v).inputs = s.inputs := rfl
@[simp] theorem State.memWrite_choice (s : State) (a n v : Nat) : (s.memWrite a n v).choice = s.choice := rfl
@[simp] theorem State.memWrite_freeCtr (s : State) (a n v : Nat) : (s.memWrite a n v).freeCtr = s.freeCtr := rfl

/-! ## `State.memWriteBytes` -/

@[simp] theorem State.memWriteBytes_caps (s : State) (a : Nat) (bs : List Byte) : (s.memWriteBytes a bs).caps = s.caps := rfl
@[simp] theorem State.memWriteBytes_plat (s : State) (a : Nat) (bs : List Byte) : (s.memWriteBytes a bs).plat = s.plat := rfl
@[simp] theorem State.memWriteBytes_gsts (s : State) (a : Nat) (bs : List Byte) : (s.memWriteBytes a bs).gsts = s.gsts := rfl
@[simp] theorem State.memWriteBytes_rtaddr (s : State) (a : Nat) (bs : List Byte) : (s.memWriteBytes a bs).rtaddr = s.rtaddr := rfl
@[simp] theorem State.memWriteBytes_latchedRt (s : State) (a : Nat) (bs : List Byte) : (s.memWriteBytes a bs).latchedRt = s.latchedRt := rfl
@[simp] theorem State.memWriteBytes_ccmd (s : State) (a : Nat) (bs : List Byte) : (s.memWriteBytes a bs).ccmd = s.ccmd := rfl
@[simp] theorem State.memWriteBytes_iotlbReg (s : State) (a : Nat) (bs : List Byte) : (s.memWriteBytes a bs).iotlbReg = s.iotlbReg := rfl
@[simp] theorem State.memWriteBytes_iva (s : State) (a : Nat) (bs : List Byte) : (s.memWriteBytes a bs).iva = s.iva := rfl
@[simp] theorem State.memWriteBytes_fsts (s : State) (a : Nat) (bs : List Byte) : (s.memWriteBytes a bs).fsts = s.fsts := rfl
@[simp] theorem State.memWriteBytes_frcd (s : State) (a : Nat) (bs : List Byte) : (s.memWriteBytes a bs).frcd = s.frcd := rfl
@[simp] theorem State.memWriteBytes_faultIdx (s : State) (a : Nat) (bs : List Byte) : (s.memWriteBytes a bs).faultIdx = s.faultIdx := rfl
@[simp] theorem State.memWriteBytes_faultEv (s : State) (a : Nat) (bs : List Byte) : (s.memWriteBytes a bs).faultEv = s.faultEv := rfl
@[simp] theorem State.memWriteBytes_invEv (s : State) (a : Nat) (bs : List Byte) : (s.memWriteBytes a bs).invEv = s.invEv := rfl
@[simp] theorem State.memWriteBytes_pageEv (s : State) (a : Nat) (bs : List Byte) : (s.memWriteBytes a bs).pageEv = s.pageEv := rfl
@[simp] theorem State.memWriteBytes_perfEv (s : State) (a : Nat) (bs : List Byte) : (s.memWriteBytes a bs).perfEv = s.perfEv := rfl
@[simp] theorem State.memWriteBytes_pmr (s : State) (a : Nat) (bs : List Byte) : (s.memWriteBytes a bs).pmr = s.pmr := rfl
@[simp] theorem State.memWriteBytes_iq (s : State) (a : Nat) (bs : List Byte) : (s.memWriteBytes a bs).iq = s.iq := rfl
@[simp] theorem State.memWriteBytes_iwc (s : State) (a : Nat) (bs : List Byte) : (s.memWriteBytes a bs).iwc = s.iwc := rfl
@[simp] theorem State.memWriteBytes_iqercd (s : State) (a : Nat) (bs : List Byte) : (s.memWriteBytes a bs).iqercd = s.iqercd := rfl
@[simp] theorem State.memWriteBytes_irta (s : State) (a : Nat) (bs : List Byte) : (s.memWriteBytes a bs).irta = s.irta := rfl
@[simp] theorem State.memWriteBytes_latchedIr (s : State) (a : Nat) (bs : List Byte) : (s.memWriteBytes a bs).latchedIr = s.latchedIr := rfl
@[simp] theorem State.memWriteBytes_prq (s : State) (a : Nat) (bs : List Byte) : (s.memWriteBytes a bs).prq = s.prq := rfl
@[simp] theorem State.memWriteBytes_mtrr (s : State) (a : Nat) (bs : List Byte) : (s.memWriteBytes a bs).mtrr = s.mtrr := rfl
@[simp] theorem State.memWriteBytes_perf (s : State) (a : Nat) (bs : List Byte) : (s.memWriteBytes a bs).perf = s.perf := rfl
@[simp] theorem State.memWriteBytes_ecmd (s : State) (a : Nat) (bs : List Byte) : (s.memWriteBytes a bs).ecmd = s.ecmd := rfl
@[simp] theorem State.memWriteBytes_vcmd (s : State) (a : Nat) (bs : List Byte) : (s.memWriteBytes a bs).vcmd = s.vcmd := rfl
@[simp] theorem State.memWriteBytes_caches (s : State) (a : Nat) (bs : List Byte) : (s.memWriteBytes a bs).caches = s.caches := rfl
@[simp] theorem State.memWriteBytes_iqPend (s : State) (a : Nat) (bs : List Byte) : (s.memWriteBytes a bs).iqPend = s.iqPend := rfl
@[simp] theorem State.memWriteBytes_itags (s : State) (a : Nat) (bs : List Byte) : (s.memWriteBytes a bs).itags = s.itags := rfl
@[simp] theorem State.memWriteBytes_inFlight (s : State) (a : Nat) (bs : List Byte) : (s.memWriteBytes a bs).inFlight = s.inFlight := rfl
@[simp] theorem State.memWriteBytes_intrFlight (s : State) (a : Nat) (bs : List Byte) : (s.memWriteBytes a bs).intrFlight = s.intrFlight := rfl
@[simp] theorem State.memWriteBytes_pendCmds (s : State) (a : Nat) (bs : List Byte) : (s.memWriteBytes a bs).pendCmds = s.pendCmds := rfl
@[simp] theorem State.memWriteBytes_out (s : State) (a : Nat) (bs : List Byte) : (s.memWriteBytes a bs).out = s.out := rfl
@[simp] theorem State.memWriteBytes_bus (s : State) (a : Nat) (bs : List Byte) : (s.memWriteBytes a bs).bus = s.bus := rfl
@[simp] theorem State.memWriteBytes_inputs (s : State) (a : Nat) (bs : List Byte) : (s.memWriteBytes a bs).inputs = s.inputs := rfl
@[simp] theorem State.memWriteBytes_choice (s : State) (a : Nat) (bs : List Byte) : (s.memWriteBytes a bs).choice = s.choice := rfl
@[simp] theorem State.memWriteBytes_freeCtr (s : State) (a : Nat) (bs : List Byte) : (s.memWriteBytes a bs).freeCtr = s.freeCtr := rfl

/-! ## `State.advanceHead` -/

@[simp] theorem State.advanceHead_caps (s : State) : (s.advanceHead).caps = s.caps := rfl
@[simp] theorem State.advanceHead_plat (s : State) : (s.advanceHead).plat = s.plat := rfl
@[simp] theorem State.advanceHead_gsts (s : State) : (s.advanceHead).gsts = s.gsts := rfl
@[simp] theorem State.advanceHead_rtaddr (s : State) : (s.advanceHead).rtaddr = s.rtaddr := rfl
@[simp] theorem State.advanceHead_latchedRt (s : State) : (s.advanceHead).latchedRt = s.latchedRt := rfl
@[simp] theorem State.advanceHead_ccmd (s : State) : (s.advanceHead).ccmd = s.ccmd := rfl
@[simp] theorem State.advanceHead_iotlbReg (s : State) : (s.advanceHead).iotlbReg = s.iotlbReg := rfl
@[simp] theorem State.advanceHead_iva (s : State) : (s.advanceHead).iva = s.iva := rfl
@[simp] theorem State.advanceHead_fsts (s : State) : (s.advanceHead).fsts = s.fsts := rfl
@[simp] theorem State.advanceHead_frcd (s : State) : (s.advanceHead).frcd = s.frcd := rfl
@[simp] theorem State.advanceHead_faultIdx (s : State) : (s.advanceHead).faultIdx = s.faultIdx := rfl
@[simp] theorem State.advanceHead_faultEv (s : State) : (s.advanceHead).faultEv = s.faultEv := rfl
@[simp] theorem State.advanceHead_invEv (s : State) : (s.advanceHead).invEv = s.invEv := rfl
@[simp] theorem State.advanceHead_pageEv (s : State) : (s.advanceHead).pageEv = s.pageEv := rfl
@[simp] theorem State.advanceHead_perfEv (s : State) : (s.advanceHead).perfEv = s.perfEv := rfl
@[simp] theorem State.advanceHead_pmr (s : State) : (s.advanceHead).pmr = s.pmr := rfl
@[simp] theorem State.advanceHead_iwc (s : State) : (s.advanceHead).iwc = s.iwc := rfl
@[simp] theorem State.advanceHead_iqercd (s : State) : (s.advanceHead).iqercd = s.iqercd := rfl
@[simp] theorem State.advanceHead_irta (s : State) : (s.advanceHead).irta = s.irta := rfl
@[simp] theorem State.advanceHead_latchedIr (s : State) : (s.advanceHead).latchedIr = s.latchedIr := rfl
@[simp] theorem State.advanceHead_prq (s : State) : (s.advanceHead).prq = s.prq := rfl
@[simp] theorem State.advanceHead_mtrr (s : State) : (s.advanceHead).mtrr = s.mtrr := rfl
@[simp] theorem State.advanceHead_perf (s : State) : (s.advanceHead).perf = s.perf := rfl
@[simp] theorem State.advanceHead_ecmd (s : State) : (s.advanceHead).ecmd = s.ecmd := rfl
@[simp] theorem State.advanceHead_vcmd (s : State) : (s.advanceHead).vcmd = s.vcmd := rfl
@[simp] theorem State.advanceHead_caches (s : State) : (s.advanceHead).caches = s.caches := rfl
@[simp] theorem State.advanceHead_iqPend (s : State) : (s.advanceHead).iqPend = s.iqPend := rfl
@[simp] theorem State.advanceHead_itags (s : State) : (s.advanceHead).itags = s.itags := rfl
@[simp] theorem State.advanceHead_wbuf (s : State) : (s.advanceHead).wbuf = s.wbuf := rfl
@[simp] theorem State.advanceHead_inFlight (s : State) : (s.advanceHead).inFlight = s.inFlight := rfl
@[simp] theorem State.advanceHead_intrFlight (s : State) : (s.advanceHead).intrFlight = s.intrFlight := rfl
@[simp] theorem State.advanceHead_pendCmds (s : State) : (s.advanceHead).pendCmds = s.pendCmds := rfl
@[simp] theorem State.advanceHead_mem (s : State) : (s.advanceHead).mem = s.mem := rfl
@[simp] theorem State.advanceHead_out (s : State) : (s.advanceHead).out = s.out := rfl
@[simp] theorem State.advanceHead_bus (s : State) : (s.advanceHead).bus = s.bus := rfl
@[simp] theorem State.advanceHead_inputs (s : State) : (s.advanceHead).inputs = s.inputs := rfl
@[simp] theorem State.advanceHead_choice (s : State) : (s.advanceHead).choice = s.choice := rfl
@[simp] theorem State.advanceHead_freeCtr (s : State) : (s.advanceHead).freeCtr = s.freeCtr := rfl

/-! ## `State.invalidateCtx` -/

@[simp] theorem State.invalidateCtx_caps (s : State) (g : Nat) (did : DomainId) (sid : SourceId) (fm : BitVec 2) : (s.invalidateCtx g did sid fm).caps = s.caps := rfl
@[simp] theorem State.invalidateCtx_plat (s : State) (g : Nat) (did : DomainId) (sid : SourceId) (fm : BitVec 2) : (s.invalidateCtx g did sid fm).plat = s.plat := rfl
@[simp] theorem State.invalidateCtx_gsts (s : State) (g : Nat) (did : DomainId) (sid : SourceId) (fm : BitVec 2) : (s.invalidateCtx g did sid fm).gsts = s.gsts := rfl
@[simp] theorem State.invalidateCtx_rtaddr (s : State) (g : Nat) (did : DomainId) (sid : SourceId) (fm : BitVec 2) : (s.invalidateCtx g did sid fm).rtaddr = s.rtaddr := rfl
@[simp] theorem State.invalidateCtx_latchedRt (s : State) (g : Nat) (did : DomainId) (sid : SourceId) (fm : BitVec 2) : (s.invalidateCtx g did sid fm).latchedRt = s.latchedRt := rfl
@[simp] theorem State.invalidateCtx_ccmd (s : State) (g : Nat) (did : DomainId) (sid : SourceId) (fm : BitVec 2) : (s.invalidateCtx g did sid fm).ccmd = s.ccmd := rfl
@[simp] theorem State.invalidateCtx_iotlbReg (s : State) (g : Nat) (did : DomainId) (sid : SourceId) (fm : BitVec 2) : (s.invalidateCtx g did sid fm).iotlbReg = s.iotlbReg := rfl
@[simp] theorem State.invalidateCtx_iva (s : State) (g : Nat) (did : DomainId) (sid : SourceId) (fm : BitVec 2) : (s.invalidateCtx g did sid fm).iva = s.iva := rfl
@[simp] theorem State.invalidateCtx_fsts (s : State) (g : Nat) (did : DomainId) (sid : SourceId) (fm : BitVec 2) : (s.invalidateCtx g did sid fm).fsts = s.fsts := rfl
@[simp] theorem State.invalidateCtx_frcd (s : State) (g : Nat) (did : DomainId) (sid : SourceId) (fm : BitVec 2) : (s.invalidateCtx g did sid fm).frcd = s.frcd := rfl
@[simp] theorem State.invalidateCtx_faultIdx (s : State) (g : Nat) (did : DomainId) (sid : SourceId) (fm : BitVec 2) : (s.invalidateCtx g did sid fm).faultIdx = s.faultIdx := rfl
@[simp] theorem State.invalidateCtx_faultEv (s : State) (g : Nat) (did : DomainId) (sid : SourceId) (fm : BitVec 2) : (s.invalidateCtx g did sid fm).faultEv = s.faultEv := rfl
@[simp] theorem State.invalidateCtx_invEv (s : State) (g : Nat) (did : DomainId) (sid : SourceId) (fm : BitVec 2) : (s.invalidateCtx g did sid fm).invEv = s.invEv := rfl
@[simp] theorem State.invalidateCtx_pageEv (s : State) (g : Nat) (did : DomainId) (sid : SourceId) (fm : BitVec 2) : (s.invalidateCtx g did sid fm).pageEv = s.pageEv := rfl
@[simp] theorem State.invalidateCtx_perfEv (s : State) (g : Nat) (did : DomainId) (sid : SourceId) (fm : BitVec 2) : (s.invalidateCtx g did sid fm).perfEv = s.perfEv := rfl
@[simp] theorem State.invalidateCtx_pmr (s : State) (g : Nat) (did : DomainId) (sid : SourceId) (fm : BitVec 2) : (s.invalidateCtx g did sid fm).pmr = s.pmr := rfl
@[simp] theorem State.invalidateCtx_iq (s : State) (g : Nat) (did : DomainId) (sid : SourceId) (fm : BitVec 2) : (s.invalidateCtx g did sid fm).iq = s.iq := rfl
@[simp] theorem State.invalidateCtx_iwc (s : State) (g : Nat) (did : DomainId) (sid : SourceId) (fm : BitVec 2) : (s.invalidateCtx g did sid fm).iwc = s.iwc := rfl
@[simp] theorem State.invalidateCtx_iqercd (s : State) (g : Nat) (did : DomainId) (sid : SourceId) (fm : BitVec 2) : (s.invalidateCtx g did sid fm).iqercd = s.iqercd := rfl
@[simp] theorem State.invalidateCtx_irta (s : State) (g : Nat) (did : DomainId) (sid : SourceId) (fm : BitVec 2) : (s.invalidateCtx g did sid fm).irta = s.irta := rfl
@[simp] theorem State.invalidateCtx_latchedIr (s : State) (g : Nat) (did : DomainId) (sid : SourceId) (fm : BitVec 2) : (s.invalidateCtx g did sid fm).latchedIr = s.latchedIr := rfl
@[simp] theorem State.invalidateCtx_prq (s : State) (g : Nat) (did : DomainId) (sid : SourceId) (fm : BitVec 2) : (s.invalidateCtx g did sid fm).prq = s.prq := rfl
@[simp] theorem State.invalidateCtx_mtrr (s : State) (g : Nat) (did : DomainId) (sid : SourceId) (fm : BitVec 2) : (s.invalidateCtx g did sid fm).mtrr = s.mtrr := rfl
@[simp] theorem State.invalidateCtx_perf (s : State) (g : Nat) (did : DomainId) (sid : SourceId) (fm : BitVec 2) : (s.invalidateCtx g did sid fm).perf = s.perf := rfl
@[simp] theorem State.invalidateCtx_ecmd (s : State) (g : Nat) (did : DomainId) (sid : SourceId) (fm : BitVec 2) : (s.invalidateCtx g did sid fm).ecmd = s.ecmd := rfl
@[simp] theorem State.invalidateCtx_vcmd (s : State) (g : Nat) (did : DomainId) (sid : SourceId) (fm : BitVec 2) : (s.invalidateCtx g did sid fm).vcmd = s.vcmd := rfl
@[simp] theorem State.invalidateCtx_iqPend (s : State) (g : Nat) (did : DomainId) (sid : SourceId) (fm : BitVec 2) : (s.invalidateCtx g did sid fm).iqPend = s.iqPend := rfl
@[simp] theorem State.invalidateCtx_itags (s : State) (g : Nat) (did : DomainId) (sid : SourceId) (fm : BitVec 2) : (s.invalidateCtx g did sid fm).itags = s.itags := rfl
@[simp] theorem State.invalidateCtx_wbuf (s : State) (g : Nat) (did : DomainId) (sid : SourceId) (fm : BitVec 2) : (s.invalidateCtx g did sid fm).wbuf = s.wbuf := rfl
@[simp] theorem State.invalidateCtx_inFlight (s : State) (g : Nat) (did : DomainId) (sid : SourceId) (fm : BitVec 2) : (s.invalidateCtx g did sid fm).inFlight = s.inFlight := rfl
@[simp] theorem State.invalidateCtx_intrFlight (s : State) (g : Nat) (did : DomainId) (sid : SourceId) (fm : BitVec 2) : (s.invalidateCtx g did sid fm).intrFlight = s.intrFlight := rfl
@[simp] theorem State.invalidateCtx_pendCmds (s : State) (g : Nat) (did : DomainId) (sid : SourceId) (fm : BitVec 2) : (s.invalidateCtx g did sid fm).pendCmds = s.pendCmds := rfl
@[simp] theorem State.invalidateCtx_mem (s : State) (g : Nat) (did : DomainId) (sid : SourceId) (fm : BitVec 2) : (s.invalidateCtx g did sid fm).mem = s.mem := rfl
@[simp] theorem State.invalidateCtx_out (s : State) (g : Nat) (did : DomainId) (sid : SourceId) (fm : BitVec 2) : (s.invalidateCtx g did sid fm).out = s.out := rfl
@[simp] theorem State.invalidateCtx_bus (s : State) (g : Nat) (did : DomainId) (sid : SourceId) (fm : BitVec 2) : (s.invalidateCtx g did sid fm).bus = s.bus := rfl
@[simp] theorem State.invalidateCtx_inputs (s : State) (g : Nat) (did : DomainId) (sid : SourceId) (fm : BitVec 2) : (s.invalidateCtx g did sid fm).inputs = s.inputs := rfl
@[simp] theorem State.invalidateCtx_choice (s : State) (g : Nat) (did : DomainId) (sid : SourceId) (fm : BitVec 2) : (s.invalidateCtx g did sid fm).choice = s.choice := rfl
@[simp] theorem State.invalidateCtx_freeCtr (s : State) (g : Nat) (did : DomainId) (sid : SourceId) (fm : BitVec 2) : (s.invalidateCtx g did sid fm).freeCtr = s.freeCtr := rfl

/-! ## `State.invalidatePasid` -/

@[simp] theorem State.invalidatePasid_caps (s : State) (g : Nat) (did : DomainId) (p : Pasid) : (s.invalidatePasid g did p).caps = s.caps := rfl
@[simp] theorem State.invalidatePasid_plat (s : State) (g : Nat) (did : DomainId) (p : Pasid) : (s.invalidatePasid g did p).plat = s.plat := rfl
@[simp] theorem State.invalidatePasid_gsts (s : State) (g : Nat) (did : DomainId) (p : Pasid) : (s.invalidatePasid g did p).gsts = s.gsts := rfl
@[simp] theorem State.invalidatePasid_rtaddr (s : State) (g : Nat) (did : DomainId) (p : Pasid) : (s.invalidatePasid g did p).rtaddr = s.rtaddr := rfl
@[simp] theorem State.invalidatePasid_latchedRt (s : State) (g : Nat) (did : DomainId) (p : Pasid) : (s.invalidatePasid g did p).latchedRt = s.latchedRt := rfl
@[simp] theorem State.invalidatePasid_ccmd (s : State) (g : Nat) (did : DomainId) (p : Pasid) : (s.invalidatePasid g did p).ccmd = s.ccmd := rfl
@[simp] theorem State.invalidatePasid_iotlbReg (s : State) (g : Nat) (did : DomainId) (p : Pasid) : (s.invalidatePasid g did p).iotlbReg = s.iotlbReg := rfl
@[simp] theorem State.invalidatePasid_iva (s : State) (g : Nat) (did : DomainId) (p : Pasid) : (s.invalidatePasid g did p).iva = s.iva := rfl
@[simp] theorem State.invalidatePasid_fsts (s : State) (g : Nat) (did : DomainId) (p : Pasid) : (s.invalidatePasid g did p).fsts = s.fsts := rfl
@[simp] theorem State.invalidatePasid_frcd (s : State) (g : Nat) (did : DomainId) (p : Pasid) : (s.invalidatePasid g did p).frcd = s.frcd := rfl
@[simp] theorem State.invalidatePasid_faultIdx (s : State) (g : Nat) (did : DomainId) (p : Pasid) : (s.invalidatePasid g did p).faultIdx = s.faultIdx := rfl
@[simp] theorem State.invalidatePasid_faultEv (s : State) (g : Nat) (did : DomainId) (p : Pasid) : (s.invalidatePasid g did p).faultEv = s.faultEv := rfl
@[simp] theorem State.invalidatePasid_invEv (s : State) (g : Nat) (did : DomainId) (p : Pasid) : (s.invalidatePasid g did p).invEv = s.invEv := rfl
@[simp] theorem State.invalidatePasid_pageEv (s : State) (g : Nat) (did : DomainId) (p : Pasid) : (s.invalidatePasid g did p).pageEv = s.pageEv := rfl
@[simp] theorem State.invalidatePasid_perfEv (s : State) (g : Nat) (did : DomainId) (p : Pasid) : (s.invalidatePasid g did p).perfEv = s.perfEv := rfl
@[simp] theorem State.invalidatePasid_pmr (s : State) (g : Nat) (did : DomainId) (p : Pasid) : (s.invalidatePasid g did p).pmr = s.pmr := rfl
@[simp] theorem State.invalidatePasid_iq (s : State) (g : Nat) (did : DomainId) (p : Pasid) : (s.invalidatePasid g did p).iq = s.iq := rfl
@[simp] theorem State.invalidatePasid_iwc (s : State) (g : Nat) (did : DomainId) (p : Pasid) : (s.invalidatePasid g did p).iwc = s.iwc := rfl
@[simp] theorem State.invalidatePasid_iqercd (s : State) (g : Nat) (did : DomainId) (p : Pasid) : (s.invalidatePasid g did p).iqercd = s.iqercd := rfl
@[simp] theorem State.invalidatePasid_irta (s : State) (g : Nat) (did : DomainId) (p : Pasid) : (s.invalidatePasid g did p).irta = s.irta := rfl
@[simp] theorem State.invalidatePasid_latchedIr (s : State) (g : Nat) (did : DomainId) (p : Pasid) : (s.invalidatePasid g did p).latchedIr = s.latchedIr := rfl
@[simp] theorem State.invalidatePasid_prq (s : State) (g : Nat) (did : DomainId) (p : Pasid) : (s.invalidatePasid g did p).prq = s.prq := rfl
@[simp] theorem State.invalidatePasid_mtrr (s : State) (g : Nat) (did : DomainId) (p : Pasid) : (s.invalidatePasid g did p).mtrr = s.mtrr := rfl
@[simp] theorem State.invalidatePasid_perf (s : State) (g : Nat) (did : DomainId) (p : Pasid) : (s.invalidatePasid g did p).perf = s.perf := rfl
@[simp] theorem State.invalidatePasid_ecmd (s : State) (g : Nat) (did : DomainId) (p : Pasid) : (s.invalidatePasid g did p).ecmd = s.ecmd := rfl
@[simp] theorem State.invalidatePasid_vcmd (s : State) (g : Nat) (did : DomainId) (p : Pasid) : (s.invalidatePasid g did p).vcmd = s.vcmd := rfl
@[simp] theorem State.invalidatePasid_iqPend (s : State) (g : Nat) (did : DomainId) (p : Pasid) : (s.invalidatePasid g did p).iqPend = s.iqPend := rfl
@[simp] theorem State.invalidatePasid_itags (s : State) (g : Nat) (did : DomainId) (p : Pasid) : (s.invalidatePasid g did p).itags = s.itags := rfl
@[simp] theorem State.invalidatePasid_wbuf (s : State) (g : Nat) (did : DomainId) (p : Pasid) : (s.invalidatePasid g did p).wbuf = s.wbuf := rfl
@[simp] theorem State.invalidatePasid_inFlight (s : State) (g : Nat) (did : DomainId) (p : Pasid) : (s.invalidatePasid g did p).inFlight = s.inFlight := rfl
@[simp] theorem State.invalidatePasid_intrFlight (s : State) (g : Nat) (did : DomainId) (p : Pasid) : (s.invalidatePasid g did p).intrFlight = s.intrFlight := rfl
@[simp] theorem State.invalidatePasid_pendCmds (s : State) (g : Nat) (did : DomainId) (p : Pasid) : (s.invalidatePasid g did p).pendCmds = s.pendCmds := rfl
@[simp] theorem State.invalidatePasid_mem (s : State) (g : Nat) (did : DomainId) (p : Pasid) : (s.invalidatePasid g did p).mem = s.mem := rfl
@[simp] theorem State.invalidatePasid_out (s : State) (g : Nat) (did : DomainId) (p : Pasid) : (s.invalidatePasid g did p).out = s.out := rfl
@[simp] theorem State.invalidatePasid_bus (s : State) (g : Nat) (did : DomainId) (p : Pasid) : (s.invalidatePasid g did p).bus = s.bus := rfl
@[simp] theorem State.invalidatePasid_inputs (s : State) (g : Nat) (did : DomainId) (p : Pasid) : (s.invalidatePasid g did p).inputs = s.inputs := rfl
@[simp] theorem State.invalidatePasid_choice (s : State) (g : Nat) (did : DomainId) (p : Pasid) : (s.invalidatePasid g did p).choice = s.choice := rfl
@[simp] theorem State.invalidatePasid_freeCtr (s : State) (g : Nat) (did : DomainId) (p : Pasid) : (s.invalidatePasid g did p).freeCtr = s.freeCtr := rfl

/-! ## `State.invalidateIotlb` -/

@[simp] theorem State.invalidateIotlb_caps (s : State) (g : Nat) (did : DomainId) (x : BitVec 52) (am : Nat) (ih : Bool) : (s.invalidateIotlb g did x am ih).caps = s.caps := rfl
@[simp] theorem State.invalidateIotlb_plat (s : State) (g : Nat) (did : DomainId) (x : BitVec 52) (am : Nat) (ih : Bool) : (s.invalidateIotlb g did x am ih).plat = s.plat := rfl
@[simp] theorem State.invalidateIotlb_gsts (s : State) (g : Nat) (did : DomainId) (x : BitVec 52) (am : Nat) (ih : Bool) : (s.invalidateIotlb g did x am ih).gsts = s.gsts := rfl
@[simp] theorem State.invalidateIotlb_rtaddr (s : State) (g : Nat) (did : DomainId) (x : BitVec 52) (am : Nat) (ih : Bool) : (s.invalidateIotlb g did x am ih).rtaddr = s.rtaddr := rfl
@[simp] theorem State.invalidateIotlb_latchedRt (s : State) (g : Nat) (did : DomainId) (x : BitVec 52) (am : Nat) (ih : Bool) : (s.invalidateIotlb g did x am ih).latchedRt = s.latchedRt := rfl
@[simp] theorem State.invalidateIotlb_ccmd (s : State) (g : Nat) (did : DomainId) (x : BitVec 52) (am : Nat) (ih : Bool) : (s.invalidateIotlb g did x am ih).ccmd = s.ccmd := rfl
@[simp] theorem State.invalidateIotlb_iotlbReg (s : State) (g : Nat) (did : DomainId) (x : BitVec 52) (am : Nat) (ih : Bool) : (s.invalidateIotlb g did x am ih).iotlbReg = s.iotlbReg := rfl
@[simp] theorem State.invalidateIotlb_iva (s : State) (g : Nat) (did : DomainId) (x : BitVec 52) (am : Nat) (ih : Bool) : (s.invalidateIotlb g did x am ih).iva = s.iva := rfl
@[simp] theorem State.invalidateIotlb_fsts (s : State) (g : Nat) (did : DomainId) (x : BitVec 52) (am : Nat) (ih : Bool) : (s.invalidateIotlb g did x am ih).fsts = s.fsts := rfl
@[simp] theorem State.invalidateIotlb_frcd (s : State) (g : Nat) (did : DomainId) (x : BitVec 52) (am : Nat) (ih : Bool) : (s.invalidateIotlb g did x am ih).frcd = s.frcd := rfl
@[simp] theorem State.invalidateIotlb_faultIdx (s : State) (g : Nat) (did : DomainId) (x : BitVec 52) (am : Nat) (ih : Bool) : (s.invalidateIotlb g did x am ih).faultIdx = s.faultIdx := rfl
@[simp] theorem State.invalidateIotlb_faultEv (s : State) (g : Nat) (did : DomainId) (x : BitVec 52) (am : Nat) (ih : Bool) : (s.invalidateIotlb g did x am ih).faultEv = s.faultEv := rfl
@[simp] theorem State.invalidateIotlb_invEv (s : State) (g : Nat) (did : DomainId) (x : BitVec 52) (am : Nat) (ih : Bool) : (s.invalidateIotlb g did x am ih).invEv = s.invEv := rfl
@[simp] theorem State.invalidateIotlb_pageEv (s : State) (g : Nat) (did : DomainId) (x : BitVec 52) (am : Nat) (ih : Bool) : (s.invalidateIotlb g did x am ih).pageEv = s.pageEv := rfl
@[simp] theorem State.invalidateIotlb_perfEv (s : State) (g : Nat) (did : DomainId) (x : BitVec 52) (am : Nat) (ih : Bool) : (s.invalidateIotlb g did x am ih).perfEv = s.perfEv := rfl
@[simp] theorem State.invalidateIotlb_pmr (s : State) (g : Nat) (did : DomainId) (x : BitVec 52) (am : Nat) (ih : Bool) : (s.invalidateIotlb g did x am ih).pmr = s.pmr := rfl
@[simp] theorem State.invalidateIotlb_iq (s : State) (g : Nat) (did : DomainId) (x : BitVec 52) (am : Nat) (ih : Bool) : (s.invalidateIotlb g did x am ih).iq = s.iq := rfl
@[simp] theorem State.invalidateIotlb_iwc (s : State) (g : Nat) (did : DomainId) (x : BitVec 52) (am : Nat) (ih : Bool) : (s.invalidateIotlb g did x am ih).iwc = s.iwc := rfl
@[simp] theorem State.invalidateIotlb_iqercd (s : State) (g : Nat) (did : DomainId) (x : BitVec 52) (am : Nat) (ih : Bool) : (s.invalidateIotlb g did x am ih).iqercd = s.iqercd := rfl
@[simp] theorem State.invalidateIotlb_irta (s : State) (g : Nat) (did : DomainId) (x : BitVec 52) (am : Nat) (ih : Bool) : (s.invalidateIotlb g did x am ih).irta = s.irta := rfl
@[simp] theorem State.invalidateIotlb_latchedIr (s : State) (g : Nat) (did : DomainId) (x : BitVec 52) (am : Nat) (ih : Bool) : (s.invalidateIotlb g did x am ih).latchedIr = s.latchedIr := rfl
@[simp] theorem State.invalidateIotlb_prq (s : State) (g : Nat) (did : DomainId) (x : BitVec 52) (am : Nat) (ih : Bool) : (s.invalidateIotlb g did x am ih).prq = s.prq := rfl
@[simp] theorem State.invalidateIotlb_mtrr (s : State) (g : Nat) (did : DomainId) (x : BitVec 52) (am : Nat) (ih : Bool) : (s.invalidateIotlb g did x am ih).mtrr = s.mtrr := rfl
@[simp] theorem State.invalidateIotlb_perf (s : State) (g : Nat) (did : DomainId) (x : BitVec 52) (am : Nat) (ih : Bool) : (s.invalidateIotlb g did x am ih).perf = s.perf := rfl
@[simp] theorem State.invalidateIotlb_ecmd (s : State) (g : Nat) (did : DomainId) (x : BitVec 52) (am : Nat) (ih : Bool) : (s.invalidateIotlb g did x am ih).ecmd = s.ecmd := rfl
@[simp] theorem State.invalidateIotlb_vcmd (s : State) (g : Nat) (did : DomainId) (x : BitVec 52) (am : Nat) (ih : Bool) : (s.invalidateIotlb g did x am ih).vcmd = s.vcmd := rfl
@[simp] theorem State.invalidateIotlb_iqPend (s : State) (g : Nat) (did : DomainId) (x : BitVec 52) (am : Nat) (ih : Bool) : (s.invalidateIotlb g did x am ih).iqPend = s.iqPend := rfl
@[simp] theorem State.invalidateIotlb_itags (s : State) (g : Nat) (did : DomainId) (x : BitVec 52) (am : Nat) (ih : Bool) : (s.invalidateIotlb g did x am ih).itags = s.itags := rfl
@[simp] theorem State.invalidateIotlb_wbuf (s : State) (g : Nat) (did : DomainId) (x : BitVec 52) (am : Nat) (ih : Bool) : (s.invalidateIotlb g did x am ih).wbuf = s.wbuf := rfl
@[simp] theorem State.invalidateIotlb_inFlight (s : State) (g : Nat) (did : DomainId) (x : BitVec 52) (am : Nat) (ih : Bool) : (s.invalidateIotlb g did x am ih).inFlight = s.inFlight := rfl
@[simp] theorem State.invalidateIotlb_intrFlight (s : State) (g : Nat) (did : DomainId) (x : BitVec 52) (am : Nat) (ih : Bool) : (s.invalidateIotlb g did x am ih).intrFlight = s.intrFlight := rfl
@[simp] theorem State.invalidateIotlb_pendCmds (s : State) (g : Nat) (did : DomainId) (x : BitVec 52) (am : Nat) (ih : Bool) : (s.invalidateIotlb g did x am ih).pendCmds = s.pendCmds := rfl
@[simp] theorem State.invalidateIotlb_mem (s : State) (g : Nat) (did : DomainId) (x : BitVec 52) (am : Nat) (ih : Bool) : (s.invalidateIotlb g did x am ih).mem = s.mem := rfl
@[simp] theorem State.invalidateIotlb_out (s : State) (g : Nat) (did : DomainId) (x : BitVec 52) (am : Nat) (ih : Bool) : (s.invalidateIotlb g did x am ih).out = s.out := rfl
@[simp] theorem State.invalidateIotlb_bus (s : State) (g : Nat) (did : DomainId) (x : BitVec 52) (am : Nat) (ih : Bool) : (s.invalidateIotlb g did x am ih).bus = s.bus := rfl
@[simp] theorem State.invalidateIotlb_inputs (s : State) (g : Nat) (did : DomainId) (x : BitVec 52) (am : Nat) (ih : Bool) : (s.invalidateIotlb g did x am ih).inputs = s.inputs := rfl
@[simp] theorem State.invalidateIotlb_choice (s : State) (g : Nat) (did : DomainId) (x : BitVec 52) (am : Nat) (ih : Bool) : (s.invalidateIotlb g did x am ih).choice = s.choice := rfl
@[simp] theorem State.invalidateIotlb_freeCtr (s : State) (g : Nat) (did : DomainId) (x : BitVec 52) (am : Nat) (ih : Bool) : (s.invalidateIotlb g did x am ih).freeCtr = s.freeCtr := rfl

/-! ## `State.invalidatePIotlb` -/

@[simp] theorem State.invalidatePIotlb_caps (s : State) (g : Nat) (did : DomainId) (p : Pasid) (x : BitVec 52) (am : Nat) (ih : Bool) : (s.invalidatePIotlb g did p x am ih).caps = s.caps := rfl
@[simp] theorem State.invalidatePIotlb_plat (s : State) (g : Nat) (did : DomainId) (p : Pasid) (x : BitVec 52) (am : Nat) (ih : Bool) : (s.invalidatePIotlb g did p x am ih).plat = s.plat := rfl
@[simp] theorem State.invalidatePIotlb_gsts (s : State) (g : Nat) (did : DomainId) (p : Pasid) (x : BitVec 52) (am : Nat) (ih : Bool) : (s.invalidatePIotlb g did p x am ih).gsts = s.gsts := rfl
@[simp] theorem State.invalidatePIotlb_rtaddr (s : State) (g : Nat) (did : DomainId) (p : Pasid) (x : BitVec 52) (am : Nat) (ih : Bool) : (s.invalidatePIotlb g did p x am ih).rtaddr = s.rtaddr := rfl
@[simp] theorem State.invalidatePIotlb_latchedRt (s : State) (g : Nat) (did : DomainId) (p : Pasid) (x : BitVec 52) (am : Nat) (ih : Bool) : (s.invalidatePIotlb g did p x am ih).latchedRt = s.latchedRt := rfl
@[simp] theorem State.invalidatePIotlb_ccmd (s : State) (g : Nat) (did : DomainId) (p : Pasid) (x : BitVec 52) (am : Nat) (ih : Bool) : (s.invalidatePIotlb g did p x am ih).ccmd = s.ccmd := rfl
@[simp] theorem State.invalidatePIotlb_iotlbReg (s : State) (g : Nat) (did : DomainId) (p : Pasid) (x : BitVec 52) (am : Nat) (ih : Bool) : (s.invalidatePIotlb g did p x am ih).iotlbReg = s.iotlbReg := rfl
@[simp] theorem State.invalidatePIotlb_iva (s : State) (g : Nat) (did : DomainId) (p : Pasid) (x : BitVec 52) (am : Nat) (ih : Bool) : (s.invalidatePIotlb g did p x am ih).iva = s.iva := rfl
@[simp] theorem State.invalidatePIotlb_fsts (s : State) (g : Nat) (did : DomainId) (p : Pasid) (x : BitVec 52) (am : Nat) (ih : Bool) : (s.invalidatePIotlb g did p x am ih).fsts = s.fsts := rfl
@[simp] theorem State.invalidatePIotlb_frcd (s : State) (g : Nat) (did : DomainId) (p : Pasid) (x : BitVec 52) (am : Nat) (ih : Bool) : (s.invalidatePIotlb g did p x am ih).frcd = s.frcd := rfl
@[simp] theorem State.invalidatePIotlb_faultIdx (s : State) (g : Nat) (did : DomainId) (p : Pasid) (x : BitVec 52) (am : Nat) (ih : Bool) : (s.invalidatePIotlb g did p x am ih).faultIdx = s.faultIdx := rfl
@[simp] theorem State.invalidatePIotlb_faultEv (s : State) (g : Nat) (did : DomainId) (p : Pasid) (x : BitVec 52) (am : Nat) (ih : Bool) : (s.invalidatePIotlb g did p x am ih).faultEv = s.faultEv := rfl
@[simp] theorem State.invalidatePIotlb_invEv (s : State) (g : Nat) (did : DomainId) (p : Pasid) (x : BitVec 52) (am : Nat) (ih : Bool) : (s.invalidatePIotlb g did p x am ih).invEv = s.invEv := rfl
@[simp] theorem State.invalidatePIotlb_pageEv (s : State) (g : Nat) (did : DomainId) (p : Pasid) (x : BitVec 52) (am : Nat) (ih : Bool) : (s.invalidatePIotlb g did p x am ih).pageEv = s.pageEv := rfl
@[simp] theorem State.invalidatePIotlb_perfEv (s : State) (g : Nat) (did : DomainId) (p : Pasid) (x : BitVec 52) (am : Nat) (ih : Bool) : (s.invalidatePIotlb g did p x am ih).perfEv = s.perfEv := rfl
@[simp] theorem State.invalidatePIotlb_pmr (s : State) (g : Nat) (did : DomainId) (p : Pasid) (x : BitVec 52) (am : Nat) (ih : Bool) : (s.invalidatePIotlb g did p x am ih).pmr = s.pmr := rfl
@[simp] theorem State.invalidatePIotlb_iq (s : State) (g : Nat) (did : DomainId) (p : Pasid) (x : BitVec 52) (am : Nat) (ih : Bool) : (s.invalidatePIotlb g did p x am ih).iq = s.iq := rfl
@[simp] theorem State.invalidatePIotlb_iwc (s : State) (g : Nat) (did : DomainId) (p : Pasid) (x : BitVec 52) (am : Nat) (ih : Bool) : (s.invalidatePIotlb g did p x am ih).iwc = s.iwc := rfl
@[simp] theorem State.invalidatePIotlb_iqercd (s : State) (g : Nat) (did : DomainId) (p : Pasid) (x : BitVec 52) (am : Nat) (ih : Bool) : (s.invalidatePIotlb g did p x am ih).iqercd = s.iqercd := rfl
@[simp] theorem State.invalidatePIotlb_irta (s : State) (g : Nat) (did : DomainId) (p : Pasid) (x : BitVec 52) (am : Nat) (ih : Bool) : (s.invalidatePIotlb g did p x am ih).irta = s.irta := rfl
@[simp] theorem State.invalidatePIotlb_latchedIr (s : State) (g : Nat) (did : DomainId) (p : Pasid) (x : BitVec 52) (am : Nat) (ih : Bool) : (s.invalidatePIotlb g did p x am ih).latchedIr = s.latchedIr := rfl
@[simp] theorem State.invalidatePIotlb_prq (s : State) (g : Nat) (did : DomainId) (p : Pasid) (x : BitVec 52) (am : Nat) (ih : Bool) : (s.invalidatePIotlb g did p x am ih).prq = s.prq := rfl
@[simp] theorem State.invalidatePIotlb_mtrr (s : State) (g : Nat) (did : DomainId) (p : Pasid) (x : BitVec 52) (am : Nat) (ih : Bool) : (s.invalidatePIotlb g did p x am ih).mtrr = s.mtrr := rfl
@[simp] theorem State.invalidatePIotlb_perf (s : State) (g : Nat) (did : DomainId) (p : Pasid) (x : BitVec 52) (am : Nat) (ih : Bool) : (s.invalidatePIotlb g did p x am ih).perf = s.perf := rfl
@[simp] theorem State.invalidatePIotlb_ecmd (s : State) (g : Nat) (did : DomainId) (p : Pasid) (x : BitVec 52) (am : Nat) (ih : Bool) : (s.invalidatePIotlb g did p x am ih).ecmd = s.ecmd := rfl
@[simp] theorem State.invalidatePIotlb_vcmd (s : State) (g : Nat) (did : DomainId) (p : Pasid) (x : BitVec 52) (am : Nat) (ih : Bool) : (s.invalidatePIotlb g did p x am ih).vcmd = s.vcmd := rfl
@[simp] theorem State.invalidatePIotlb_iqPend (s : State) (g : Nat) (did : DomainId) (p : Pasid) (x : BitVec 52) (am : Nat) (ih : Bool) : (s.invalidatePIotlb g did p x am ih).iqPend = s.iqPend := rfl
@[simp] theorem State.invalidatePIotlb_itags (s : State) (g : Nat) (did : DomainId) (p : Pasid) (x : BitVec 52) (am : Nat) (ih : Bool) : (s.invalidatePIotlb g did p x am ih).itags = s.itags := rfl
@[simp] theorem State.invalidatePIotlb_wbuf (s : State) (g : Nat) (did : DomainId) (p : Pasid) (x : BitVec 52) (am : Nat) (ih : Bool) : (s.invalidatePIotlb g did p x am ih).wbuf = s.wbuf := rfl
@[simp] theorem State.invalidatePIotlb_inFlight (s : State) (g : Nat) (did : DomainId) (p : Pasid) (x : BitVec 52) (am : Nat) (ih : Bool) : (s.invalidatePIotlb g did p x am ih).inFlight = s.inFlight := rfl
@[simp] theorem State.invalidatePIotlb_intrFlight (s : State) (g : Nat) (did : DomainId) (p : Pasid) (x : BitVec 52) (am : Nat) (ih : Bool) : (s.invalidatePIotlb g did p x am ih).intrFlight = s.intrFlight := rfl
@[simp] theorem State.invalidatePIotlb_pendCmds (s : State) (g : Nat) (did : DomainId) (p : Pasid) (x : BitVec 52) (am : Nat) (ih : Bool) : (s.invalidatePIotlb g did p x am ih).pendCmds = s.pendCmds := rfl
@[simp] theorem State.invalidatePIotlb_mem (s : State) (g : Nat) (did : DomainId) (p : Pasid) (x : BitVec 52) (am : Nat) (ih : Bool) : (s.invalidatePIotlb g did p x am ih).mem = s.mem := rfl
@[simp] theorem State.invalidatePIotlb_out (s : State) (g : Nat) (did : DomainId) (p : Pasid) (x : BitVec 52) (am : Nat) (ih : Bool) : (s.invalidatePIotlb g did p x am ih).out = s.out := rfl
@[simp] theorem State.invalidatePIotlb_bus (s : State) (g : Nat) (did : DomainId) (p : Pasid) (x : BitVec 52) (am : Nat) (ih : Bool) : (s.invalidatePIotlb g did p x am ih).bus = s.bus := rfl
@[simp] theorem State.invalidatePIotlb_inputs (s : State) (g : Nat) (did : DomainId) (p : Pasid) (x : BitVec 52) (am : Nat) (ih : Bool) : (s.invalidatePIotlb g did p x am ih).inputs = s.inputs := rfl
@[simp] theorem State.invalidatePIotlb_choice (s : State) (g : Nat) (did : DomainId) (p : Pasid) (x : BitVec 52) (am : Nat) (ih : Bool) : (s.invalidatePIotlb g did p x am ih).choice = s.choice := rfl
@[simp] theorem State.invalidatePIotlb_freeCtr (s : State) (g : Nat) (did : DomainId) (p : Pasid) (x : BitVec 52) (am : Nat) (ih : Bool) : (s.invalidatePIotlb g did p x am ih).freeCtr = s.freeCtr := rfl

/-! ## `State.invalidateIec` -/

@[simp] theorem State.invalidateIec_caps (s : State) (sel : Bool) (i : BitVec 16) (im : Nat) : (s.invalidateIec sel i im).caps = s.caps := rfl
@[simp] theorem State.invalidateIec_plat (s : State) (sel : Bool) (i : BitVec 16) (im : Nat) : (s.invalidateIec sel i im).plat = s.plat := rfl
@[simp] theorem State.invalidateIec_gsts (s : State) (sel : Bool) (i : BitVec 16) (im : Nat) : (s.invalidateIec sel i im).gsts = s.gsts := rfl
@[simp] theorem State.invalidateIec_rtaddr (s : State) (sel : Bool) (i : BitVec 16) (im : Nat) : (s.invalidateIec sel i im).rtaddr = s.rtaddr := rfl
@[simp] theorem State.invalidateIec_latchedRt (s : State) (sel : Bool) (i : BitVec 16) (im : Nat) : (s.invalidateIec sel i im).latchedRt = s.latchedRt := rfl
@[simp] theorem State.invalidateIec_ccmd (s : State) (sel : Bool) (i : BitVec 16) (im : Nat) : (s.invalidateIec sel i im).ccmd = s.ccmd := rfl
@[simp] theorem State.invalidateIec_iotlbReg (s : State) (sel : Bool) (i : BitVec 16) (im : Nat) : (s.invalidateIec sel i im).iotlbReg = s.iotlbReg := rfl
@[simp] theorem State.invalidateIec_iva (s : State) (sel : Bool) (i : BitVec 16) (im : Nat) : (s.invalidateIec sel i im).iva = s.iva := rfl
@[simp] theorem State.invalidateIec_fsts (s : State) (sel : Bool) (i : BitVec 16) (im : Nat) : (s.invalidateIec sel i im).fsts = s.fsts := rfl
@[simp] theorem State.invalidateIec_frcd (s : State) (sel : Bool) (i : BitVec 16) (im : Nat) : (s.invalidateIec sel i im).frcd = s.frcd := rfl
@[simp] theorem State.invalidateIec_faultIdx (s : State) (sel : Bool) (i : BitVec 16) (im : Nat) : (s.invalidateIec sel i im).faultIdx = s.faultIdx := rfl
@[simp] theorem State.invalidateIec_faultEv (s : State) (sel : Bool) (i : BitVec 16) (im : Nat) : (s.invalidateIec sel i im).faultEv = s.faultEv := rfl
@[simp] theorem State.invalidateIec_invEv (s : State) (sel : Bool) (i : BitVec 16) (im : Nat) : (s.invalidateIec sel i im).invEv = s.invEv := rfl
@[simp] theorem State.invalidateIec_pageEv (s : State) (sel : Bool) (i : BitVec 16) (im : Nat) : (s.invalidateIec sel i im).pageEv = s.pageEv := rfl
@[simp] theorem State.invalidateIec_perfEv (s : State) (sel : Bool) (i : BitVec 16) (im : Nat) : (s.invalidateIec sel i im).perfEv = s.perfEv := rfl
@[simp] theorem State.invalidateIec_pmr (s : State) (sel : Bool) (i : BitVec 16) (im : Nat) : (s.invalidateIec sel i im).pmr = s.pmr := rfl
@[simp] theorem State.invalidateIec_iq (s : State) (sel : Bool) (i : BitVec 16) (im : Nat) : (s.invalidateIec sel i im).iq = s.iq := rfl
@[simp] theorem State.invalidateIec_iwc (s : State) (sel : Bool) (i : BitVec 16) (im : Nat) : (s.invalidateIec sel i im).iwc = s.iwc := rfl
@[simp] theorem State.invalidateIec_iqercd (s : State) (sel : Bool) (i : BitVec 16) (im : Nat) : (s.invalidateIec sel i im).iqercd = s.iqercd := rfl
@[simp] theorem State.invalidateIec_irta (s : State) (sel : Bool) (i : BitVec 16) (im : Nat) : (s.invalidateIec sel i im).irta = s.irta := rfl
@[simp] theorem State.invalidateIec_latchedIr (s : State) (sel : Bool) (i : BitVec 16) (im : Nat) : (s.invalidateIec sel i im).latchedIr = s.latchedIr := rfl
@[simp] theorem State.invalidateIec_prq (s : State) (sel : Bool) (i : BitVec 16) (im : Nat) : (s.invalidateIec sel i im).prq = s.prq := rfl
@[simp] theorem State.invalidateIec_mtrr (s : State) (sel : Bool) (i : BitVec 16) (im : Nat) : (s.invalidateIec sel i im).mtrr = s.mtrr := rfl
@[simp] theorem State.invalidateIec_perf (s : State) (sel : Bool) (i : BitVec 16) (im : Nat) : (s.invalidateIec sel i im).perf = s.perf := rfl
@[simp] theorem State.invalidateIec_ecmd (s : State) (sel : Bool) (i : BitVec 16) (im : Nat) : (s.invalidateIec sel i im).ecmd = s.ecmd := rfl
@[simp] theorem State.invalidateIec_vcmd (s : State) (sel : Bool) (i : BitVec 16) (im : Nat) : (s.invalidateIec sel i im).vcmd = s.vcmd := rfl
@[simp] theorem State.invalidateIec_iqPend (s : State) (sel : Bool) (i : BitVec 16) (im : Nat) : (s.invalidateIec sel i im).iqPend = s.iqPend := rfl
@[simp] theorem State.invalidateIec_itags (s : State) (sel : Bool) (i : BitVec 16) (im : Nat) : (s.invalidateIec sel i im).itags = s.itags := rfl
@[simp] theorem State.invalidateIec_wbuf (s : State) (sel : Bool) (i : BitVec 16) (im : Nat) : (s.invalidateIec sel i im).wbuf = s.wbuf := rfl
@[simp] theorem State.invalidateIec_inFlight (s : State) (sel : Bool) (i : BitVec 16) (im : Nat) : (s.invalidateIec sel i im).inFlight = s.inFlight := rfl
@[simp] theorem State.invalidateIec_intrFlight (s : State) (sel : Bool) (i : BitVec 16) (im : Nat) : (s.invalidateIec sel i im).intrFlight = s.intrFlight := rfl
@[simp] theorem State.invalidateIec_pendCmds (s : State) (sel : Bool) (i : BitVec 16) (im : Nat) : (s.invalidateIec sel i im).pendCmds = s.pendCmds := rfl
@[simp] theorem State.invalidateIec_mem (s : State) (sel : Bool) (i : BitVec 16) (im : Nat) : (s.invalidateIec sel i im).mem = s.mem := rfl
@[simp] theorem State.invalidateIec_out (s : State) (sel : Bool) (i : BitVec 16) (im : Nat) : (s.invalidateIec sel i im).out = s.out := rfl
@[simp] theorem State.invalidateIec_bus (s : State) (sel : Bool) (i : BitVec 16) (im : Nat) : (s.invalidateIec sel i im).bus = s.bus := rfl
@[simp] theorem State.invalidateIec_inputs (s : State) (sel : Bool) (i : BitVec 16) (im : Nat) : (s.invalidateIec sel i im).inputs = s.inputs := rfl
@[simp] theorem State.invalidateIec_choice (s : State) (sel : Bool) (i : BitVec 16) (im : Nat) : (s.invalidateIec sel i im).choice = s.choice := rfl
@[simp] theorem State.invalidateIec_freeCtr (s : State) (sel : Bool) (i : BitVec 16) (im : Nat) : (s.invalidateIec sel i im).freeCtr = s.freeCtr := rfl

/-! ## `State.invalidateAllDma` -/

@[simp] theorem State.invalidateAllDma_caps (s : State) : (s.invalidateAllDma).caps = s.caps := rfl
@[simp] theorem State.invalidateAllDma_plat (s : State) : (s.invalidateAllDma).plat = s.plat := rfl
@[simp] theorem State.invalidateAllDma_gsts (s : State) : (s.invalidateAllDma).gsts = s.gsts := rfl
@[simp] theorem State.invalidateAllDma_rtaddr (s : State) : (s.invalidateAllDma).rtaddr = s.rtaddr := rfl
@[simp] theorem State.invalidateAllDma_latchedRt (s : State) : (s.invalidateAllDma).latchedRt = s.latchedRt := rfl
@[simp] theorem State.invalidateAllDma_ccmd (s : State) : (s.invalidateAllDma).ccmd = s.ccmd := rfl
@[simp] theorem State.invalidateAllDma_iotlbReg (s : State) : (s.invalidateAllDma).iotlbReg = s.iotlbReg := rfl
@[simp] theorem State.invalidateAllDma_iva (s : State) : (s.invalidateAllDma).iva = s.iva := rfl
@[simp] theorem State.invalidateAllDma_fsts (s : State) : (s.invalidateAllDma).fsts = s.fsts := rfl
@[simp] theorem State.invalidateAllDma_frcd (s : State) : (s.invalidateAllDma).frcd = s.frcd := rfl
@[simp] theorem State.invalidateAllDma_faultIdx (s : State) : (s.invalidateAllDma).faultIdx = s.faultIdx := rfl
@[simp] theorem State.invalidateAllDma_faultEv (s : State) : (s.invalidateAllDma).faultEv = s.faultEv := rfl
@[simp] theorem State.invalidateAllDma_invEv (s : State) : (s.invalidateAllDma).invEv = s.invEv := rfl
@[simp] theorem State.invalidateAllDma_pageEv (s : State) : (s.invalidateAllDma).pageEv = s.pageEv := rfl
@[simp] theorem State.invalidateAllDma_perfEv (s : State) : (s.invalidateAllDma).perfEv = s.perfEv := rfl
@[simp] theorem State.invalidateAllDma_pmr (s : State) : (s.invalidateAllDma).pmr = s.pmr := rfl
@[simp] theorem State.invalidateAllDma_iq (s : State) : (s.invalidateAllDma).iq = s.iq := rfl
@[simp] theorem State.invalidateAllDma_iwc (s : State) : (s.invalidateAllDma).iwc = s.iwc := rfl
@[simp] theorem State.invalidateAllDma_iqercd (s : State) : (s.invalidateAllDma).iqercd = s.iqercd := rfl
@[simp] theorem State.invalidateAllDma_irta (s : State) : (s.invalidateAllDma).irta = s.irta := rfl
@[simp] theorem State.invalidateAllDma_latchedIr (s : State) : (s.invalidateAllDma).latchedIr = s.latchedIr := rfl
@[simp] theorem State.invalidateAllDma_prq (s : State) : (s.invalidateAllDma).prq = s.prq := rfl
@[simp] theorem State.invalidateAllDma_mtrr (s : State) : (s.invalidateAllDma).mtrr = s.mtrr := rfl
@[simp] theorem State.invalidateAllDma_perf (s : State) : (s.invalidateAllDma).perf = s.perf := rfl
@[simp] theorem State.invalidateAllDma_ecmd (s : State) : (s.invalidateAllDma).ecmd = s.ecmd := rfl
@[simp] theorem State.invalidateAllDma_vcmd (s : State) : (s.invalidateAllDma).vcmd = s.vcmd := rfl
@[simp] theorem State.invalidateAllDma_iqPend (s : State) : (s.invalidateAllDma).iqPend = s.iqPend := rfl
@[simp] theorem State.invalidateAllDma_itags (s : State) : (s.invalidateAllDma).itags = s.itags := rfl
@[simp] theorem State.invalidateAllDma_wbuf (s : State) : (s.invalidateAllDma).wbuf = s.wbuf := rfl
@[simp] theorem State.invalidateAllDma_inFlight (s : State) : (s.invalidateAllDma).inFlight = s.inFlight := rfl
@[simp] theorem State.invalidateAllDma_intrFlight (s : State) : (s.invalidateAllDma).intrFlight = s.intrFlight := rfl
@[simp] theorem State.invalidateAllDma_pendCmds (s : State) : (s.invalidateAllDma).pendCmds = s.pendCmds := rfl
@[simp] theorem State.invalidateAllDma_mem (s : State) : (s.invalidateAllDma).mem = s.mem := rfl
@[simp] theorem State.invalidateAllDma_out (s : State) : (s.invalidateAllDma).out = s.out := rfl
@[simp] theorem State.invalidateAllDma_bus (s : State) : (s.invalidateAllDma).bus = s.bus := rfl
@[simp] theorem State.invalidateAllDma_inputs (s : State) : (s.invalidateAllDma).inputs = s.inputs := rfl
@[simp] theorem State.invalidateAllDma_choice (s : State) : (s.invalidateAllDma).choice = s.choice := rfl
@[simp] theorem State.invalidateAllDma_freeCtr (s : State) : (s.invalidateAllDma).freeCtr = s.freeCtr := rfl

/-! ## `State.invalidateAllIec` -/

@[simp] theorem State.invalidateAllIec_caps (s : State) : (s.invalidateAllIec).caps = s.caps := rfl
@[simp] theorem State.invalidateAllIec_plat (s : State) : (s.invalidateAllIec).plat = s.plat := rfl
@[simp] theorem State.invalidateAllIec_gsts (s : State) : (s.invalidateAllIec).gsts = s.gsts := rfl
@[simp] theorem State.invalidateAllIec_rtaddr (s : State) : (s.invalidateAllIec).rtaddr = s.rtaddr := rfl
@[simp] theorem State.invalidateAllIec_latchedRt (s : State) : (s.invalidateAllIec).latchedRt = s.latchedRt := rfl
@[simp] theorem State.invalidateAllIec_ccmd (s : State) : (s.invalidateAllIec).ccmd = s.ccmd := rfl
@[simp] theorem State.invalidateAllIec_iotlbReg (s : State) : (s.invalidateAllIec).iotlbReg = s.iotlbReg := rfl
@[simp] theorem State.invalidateAllIec_iva (s : State) : (s.invalidateAllIec).iva = s.iva := rfl
@[simp] theorem State.invalidateAllIec_fsts (s : State) : (s.invalidateAllIec).fsts = s.fsts := rfl
@[simp] theorem State.invalidateAllIec_frcd (s : State) : (s.invalidateAllIec).frcd = s.frcd := rfl
@[simp] theorem State.invalidateAllIec_faultIdx (s : State) : (s.invalidateAllIec).faultIdx = s.faultIdx := rfl
@[simp] theorem State.invalidateAllIec_faultEv (s : State) : (s.invalidateAllIec).faultEv = s.faultEv := rfl
@[simp] theorem State.invalidateAllIec_invEv (s : State) : (s.invalidateAllIec).invEv = s.invEv := rfl
@[simp] theorem State.invalidateAllIec_pageEv (s : State) : (s.invalidateAllIec).pageEv = s.pageEv := rfl
@[simp] theorem State.invalidateAllIec_perfEv (s : State) : (s.invalidateAllIec).perfEv = s.perfEv := rfl
@[simp] theorem State.invalidateAllIec_pmr (s : State) : (s.invalidateAllIec).pmr = s.pmr := rfl
@[simp] theorem State.invalidateAllIec_iq (s : State) : (s.invalidateAllIec).iq = s.iq := rfl
@[simp] theorem State.invalidateAllIec_iwc (s : State) : (s.invalidateAllIec).iwc = s.iwc := rfl
@[simp] theorem State.invalidateAllIec_iqercd (s : State) : (s.invalidateAllIec).iqercd = s.iqercd := rfl
@[simp] theorem State.invalidateAllIec_irta (s : State) : (s.invalidateAllIec).irta = s.irta := rfl
@[simp] theorem State.invalidateAllIec_latchedIr (s : State) : (s.invalidateAllIec).latchedIr = s.latchedIr := rfl
@[simp] theorem State.invalidateAllIec_prq (s : State) : (s.invalidateAllIec).prq = s.prq := rfl
@[simp] theorem State.invalidateAllIec_mtrr (s : State) : (s.invalidateAllIec).mtrr = s.mtrr := rfl
@[simp] theorem State.invalidateAllIec_perf (s : State) : (s.invalidateAllIec).perf = s.perf := rfl
@[simp] theorem State.invalidateAllIec_ecmd (s : State) : (s.invalidateAllIec).ecmd = s.ecmd := rfl
@[simp] theorem State.invalidateAllIec_vcmd (s : State) : (s.invalidateAllIec).vcmd = s.vcmd := rfl
@[simp] theorem State.invalidateAllIec_iqPend (s : State) : (s.invalidateAllIec).iqPend = s.iqPend := rfl
@[simp] theorem State.invalidateAllIec_itags (s : State) : (s.invalidateAllIec).itags = s.itags := rfl
@[simp] theorem State.invalidateAllIec_wbuf (s : State) : (s.invalidateAllIec).wbuf = s.wbuf := rfl
@[simp] theorem State.invalidateAllIec_inFlight (s : State) : (s.invalidateAllIec).inFlight = s.inFlight := rfl
@[simp] theorem State.invalidateAllIec_intrFlight (s : State) : (s.invalidateAllIec).intrFlight = s.intrFlight := rfl
@[simp] theorem State.invalidateAllIec_pendCmds (s : State) : (s.invalidateAllIec).pendCmds = s.pendCmds := rfl
@[simp] theorem State.invalidateAllIec_mem (s : State) : (s.invalidateAllIec).mem = s.mem := rfl
@[simp] theorem State.invalidateAllIec_out (s : State) : (s.invalidateAllIec).out = s.out := rfl
@[simp] theorem State.invalidateAllIec_bus (s : State) : (s.invalidateAllIec).bus = s.bus := rfl
@[simp] theorem State.invalidateAllIec_inputs (s : State) : (s.invalidateAllIec).inputs = s.inputs := rfl
@[simp] theorem State.invalidateAllIec_choice (s : State) : (s.invalidateAllIec).choice = s.choice := rfl
@[simp] theorem State.invalidateAllIec_freeCtr (s : State) : (s.invalidateAllIec).freeCtr = s.freeCtr := rfl

/-! ## `State.mapCounter` -/

@[simp] theorem State.mapCounter_caps (s : State) (k : Nat) (f : PerfCounter → PerfCounter) : (s.mapCounter k f).caps = s.caps := rfl
@[simp] theorem State.mapCounter_plat (s : State) (k : Nat) (f : PerfCounter → PerfCounter) : (s.mapCounter k f).plat = s.plat := rfl
@[simp] theorem State.mapCounter_gsts (s : State) (k : Nat) (f : PerfCounter → PerfCounter) : (s.mapCounter k f).gsts = s.gsts := rfl
@[simp] theorem State.mapCounter_rtaddr (s : State) (k : Nat) (f : PerfCounter → PerfCounter) : (s.mapCounter k f).rtaddr = s.rtaddr := rfl
@[simp] theorem State.mapCounter_latchedRt (s : State) (k : Nat) (f : PerfCounter → PerfCounter) : (s.mapCounter k f).latchedRt = s.latchedRt := rfl
@[simp] theorem State.mapCounter_ccmd (s : State) (k : Nat) (f : PerfCounter → PerfCounter) : (s.mapCounter k f).ccmd = s.ccmd := rfl
@[simp] theorem State.mapCounter_iotlbReg (s : State) (k : Nat) (f : PerfCounter → PerfCounter) : (s.mapCounter k f).iotlbReg = s.iotlbReg := rfl
@[simp] theorem State.mapCounter_iva (s : State) (k : Nat) (f : PerfCounter → PerfCounter) : (s.mapCounter k f).iva = s.iva := rfl
@[simp] theorem State.mapCounter_fsts (s : State) (k : Nat) (f : PerfCounter → PerfCounter) : (s.mapCounter k f).fsts = s.fsts := rfl
@[simp] theorem State.mapCounter_frcd (s : State) (k : Nat) (f : PerfCounter → PerfCounter) : (s.mapCounter k f).frcd = s.frcd := rfl
@[simp] theorem State.mapCounter_faultIdx (s : State) (k : Nat) (f : PerfCounter → PerfCounter) : (s.mapCounter k f).faultIdx = s.faultIdx := rfl
@[simp] theorem State.mapCounter_faultEv (s : State) (k : Nat) (f : PerfCounter → PerfCounter) : (s.mapCounter k f).faultEv = s.faultEv := rfl
@[simp] theorem State.mapCounter_invEv (s : State) (k : Nat) (f : PerfCounter → PerfCounter) : (s.mapCounter k f).invEv = s.invEv := rfl
@[simp] theorem State.mapCounter_pageEv (s : State) (k : Nat) (f : PerfCounter → PerfCounter) : (s.mapCounter k f).pageEv = s.pageEv := rfl
@[simp] theorem State.mapCounter_perfEv (s : State) (k : Nat) (f : PerfCounter → PerfCounter) : (s.mapCounter k f).perfEv = s.perfEv := rfl
@[simp] theorem State.mapCounter_pmr (s : State) (k : Nat) (f : PerfCounter → PerfCounter) : (s.mapCounter k f).pmr = s.pmr := rfl
@[simp] theorem State.mapCounter_iq (s : State) (k : Nat) (f : PerfCounter → PerfCounter) : (s.mapCounter k f).iq = s.iq := rfl
@[simp] theorem State.mapCounter_iwc (s : State) (k : Nat) (f : PerfCounter → PerfCounter) : (s.mapCounter k f).iwc = s.iwc := rfl
@[simp] theorem State.mapCounter_iqercd (s : State) (k : Nat) (f : PerfCounter → PerfCounter) : (s.mapCounter k f).iqercd = s.iqercd := rfl
@[simp] theorem State.mapCounter_irta (s : State) (k : Nat) (f : PerfCounter → PerfCounter) : (s.mapCounter k f).irta = s.irta := rfl
@[simp] theorem State.mapCounter_latchedIr (s : State) (k : Nat) (f : PerfCounter → PerfCounter) : (s.mapCounter k f).latchedIr = s.latchedIr := rfl
@[simp] theorem State.mapCounter_prq (s : State) (k : Nat) (f : PerfCounter → PerfCounter) : (s.mapCounter k f).prq = s.prq := rfl
@[simp] theorem State.mapCounter_mtrr (s : State) (k : Nat) (f : PerfCounter → PerfCounter) : (s.mapCounter k f).mtrr = s.mtrr := rfl
@[simp] theorem State.mapCounter_ecmd (s : State) (k : Nat) (f : PerfCounter → PerfCounter) : (s.mapCounter k f).ecmd = s.ecmd := rfl
@[simp] theorem State.mapCounter_vcmd (s : State) (k : Nat) (f : PerfCounter → PerfCounter) : (s.mapCounter k f).vcmd = s.vcmd := rfl
@[simp] theorem State.mapCounter_caches (s : State) (k : Nat) (f : PerfCounter → PerfCounter) : (s.mapCounter k f).caches = s.caches := rfl
@[simp] theorem State.mapCounter_iqPend (s : State) (k : Nat) (f : PerfCounter → PerfCounter) : (s.mapCounter k f).iqPend = s.iqPend := rfl
@[simp] theorem State.mapCounter_itags (s : State) (k : Nat) (f : PerfCounter → PerfCounter) : (s.mapCounter k f).itags = s.itags := rfl
@[simp] theorem State.mapCounter_wbuf (s : State) (k : Nat) (f : PerfCounter → PerfCounter) : (s.mapCounter k f).wbuf = s.wbuf := rfl
@[simp] theorem State.mapCounter_inFlight (s : State) (k : Nat) (f : PerfCounter → PerfCounter) : (s.mapCounter k f).inFlight = s.inFlight := rfl
@[simp] theorem State.mapCounter_intrFlight (s : State) (k : Nat) (f : PerfCounter → PerfCounter) : (s.mapCounter k f).intrFlight = s.intrFlight := rfl
@[simp] theorem State.mapCounter_pendCmds (s : State) (k : Nat) (f : PerfCounter → PerfCounter) : (s.mapCounter k f).pendCmds = s.pendCmds := rfl
@[simp] theorem State.mapCounter_mem (s : State) (k : Nat) (f : PerfCounter → PerfCounter) : (s.mapCounter k f).mem = s.mem := rfl
@[simp] theorem State.mapCounter_out (s : State) (k : Nat) (f : PerfCounter → PerfCounter) : (s.mapCounter k f).out = s.out := rfl
@[simp] theorem State.mapCounter_bus (s : State) (k : Nat) (f : PerfCounter → PerfCounter) : (s.mapCounter k f).bus = s.bus := rfl
@[simp] theorem State.mapCounter_inputs (s : State) (k : Nat) (f : PerfCounter → PerfCounter) : (s.mapCounter k f).inputs = s.inputs := rfl
@[simp] theorem State.mapCounter_choice (s : State) (k : Nat) (f : PerfCounter → PerfCounter) : (s.mapCounter k f).choice = s.choice := rfl
@[simp] theorem State.mapCounter_freeCtr (s : State) (k : Nat) (f : PerfCounter → PerfCounter) : (s.mapCounter k f).freeCtr = s.freeCtr := rfl

/-! ## `State.mapCounters` -/

@[simp] theorem State.mapCounters_caps (s : State) (f : PerfCounter → PerfCounter) : (s.mapCounters f).caps = s.caps := rfl
@[simp] theorem State.mapCounters_plat (s : State) (f : PerfCounter → PerfCounter) : (s.mapCounters f).plat = s.plat := rfl
@[simp] theorem State.mapCounters_gsts (s : State) (f : PerfCounter → PerfCounter) : (s.mapCounters f).gsts = s.gsts := rfl
@[simp] theorem State.mapCounters_rtaddr (s : State) (f : PerfCounter → PerfCounter) : (s.mapCounters f).rtaddr = s.rtaddr := rfl
@[simp] theorem State.mapCounters_latchedRt (s : State) (f : PerfCounter → PerfCounter) : (s.mapCounters f).latchedRt = s.latchedRt := rfl
@[simp] theorem State.mapCounters_ccmd (s : State) (f : PerfCounter → PerfCounter) : (s.mapCounters f).ccmd = s.ccmd := rfl
@[simp] theorem State.mapCounters_iotlbReg (s : State) (f : PerfCounter → PerfCounter) : (s.mapCounters f).iotlbReg = s.iotlbReg := rfl
@[simp] theorem State.mapCounters_iva (s : State) (f : PerfCounter → PerfCounter) : (s.mapCounters f).iva = s.iva := rfl
@[simp] theorem State.mapCounters_fsts (s : State) (f : PerfCounter → PerfCounter) : (s.mapCounters f).fsts = s.fsts := rfl
@[simp] theorem State.mapCounters_frcd (s : State) (f : PerfCounter → PerfCounter) : (s.mapCounters f).frcd = s.frcd := rfl
@[simp] theorem State.mapCounters_faultIdx (s : State) (f : PerfCounter → PerfCounter) : (s.mapCounters f).faultIdx = s.faultIdx := rfl
@[simp] theorem State.mapCounters_faultEv (s : State) (f : PerfCounter → PerfCounter) : (s.mapCounters f).faultEv = s.faultEv := rfl
@[simp] theorem State.mapCounters_invEv (s : State) (f : PerfCounter → PerfCounter) : (s.mapCounters f).invEv = s.invEv := rfl
@[simp] theorem State.mapCounters_pageEv (s : State) (f : PerfCounter → PerfCounter) : (s.mapCounters f).pageEv = s.pageEv := rfl
@[simp] theorem State.mapCounters_perfEv (s : State) (f : PerfCounter → PerfCounter) : (s.mapCounters f).perfEv = s.perfEv := rfl
@[simp] theorem State.mapCounters_pmr (s : State) (f : PerfCounter → PerfCounter) : (s.mapCounters f).pmr = s.pmr := rfl
@[simp] theorem State.mapCounters_iq (s : State) (f : PerfCounter → PerfCounter) : (s.mapCounters f).iq = s.iq := rfl
@[simp] theorem State.mapCounters_iwc (s : State) (f : PerfCounter → PerfCounter) : (s.mapCounters f).iwc = s.iwc := rfl
@[simp] theorem State.mapCounters_iqercd (s : State) (f : PerfCounter → PerfCounter) : (s.mapCounters f).iqercd = s.iqercd := rfl
@[simp] theorem State.mapCounters_irta (s : State) (f : PerfCounter → PerfCounter) : (s.mapCounters f).irta = s.irta := rfl
@[simp] theorem State.mapCounters_latchedIr (s : State) (f : PerfCounter → PerfCounter) : (s.mapCounters f).latchedIr = s.latchedIr := rfl
@[simp] theorem State.mapCounters_prq (s : State) (f : PerfCounter → PerfCounter) : (s.mapCounters f).prq = s.prq := rfl
@[simp] theorem State.mapCounters_mtrr (s : State) (f : PerfCounter → PerfCounter) : (s.mapCounters f).mtrr = s.mtrr := rfl
@[simp] theorem State.mapCounters_ecmd (s : State) (f : PerfCounter → PerfCounter) : (s.mapCounters f).ecmd = s.ecmd := rfl
@[simp] theorem State.mapCounters_vcmd (s : State) (f : PerfCounter → PerfCounter) : (s.mapCounters f).vcmd = s.vcmd := rfl
@[simp] theorem State.mapCounters_caches (s : State) (f : PerfCounter → PerfCounter) : (s.mapCounters f).caches = s.caches := rfl
@[simp] theorem State.mapCounters_iqPend (s : State) (f : PerfCounter → PerfCounter) : (s.mapCounters f).iqPend = s.iqPend := rfl
@[simp] theorem State.mapCounters_itags (s : State) (f : PerfCounter → PerfCounter) : (s.mapCounters f).itags = s.itags := rfl
@[simp] theorem State.mapCounters_wbuf (s : State) (f : PerfCounter → PerfCounter) : (s.mapCounters f).wbuf = s.wbuf := rfl
@[simp] theorem State.mapCounters_inFlight (s : State) (f : PerfCounter → PerfCounter) : (s.mapCounters f).inFlight = s.inFlight := rfl
@[simp] theorem State.mapCounters_intrFlight (s : State) (f : PerfCounter → PerfCounter) : (s.mapCounters f).intrFlight = s.intrFlight := rfl
@[simp] theorem State.mapCounters_pendCmds (s : State) (f : PerfCounter → PerfCounter) : (s.mapCounters f).pendCmds = s.pendCmds := rfl
@[simp] theorem State.mapCounters_mem (s : State) (f : PerfCounter → PerfCounter) : (s.mapCounters f).mem = s.mem := rfl
@[simp] theorem State.mapCounters_out (s : State) (f : PerfCounter → PerfCounter) : (s.mapCounters f).out = s.out := rfl
@[simp] theorem State.mapCounters_bus (s : State) (f : PerfCounter → PerfCounter) : (s.mapCounters f).bus = s.bus := rfl
@[simp] theorem State.mapCounters_inputs (s : State) (f : PerfCounter → PerfCounter) : (s.mapCounters f).inputs = s.inputs := rfl
@[simp] theorem State.mapCounters_choice (s : State) (f : PerfCounter → PerfCounter) : (s.mapCounters f).choice = s.choice := rfl
@[simp] theorem State.mapCounters_freeCtr (s : State) (f : PerfCounter → PerfCounter) : (s.mapCounters f).freeCtr = s.freeCtr := rfl

/-! ## `State.freezeAll` -/

@[simp] theorem State.freezeAll_caps (s : State) (b : Bool) : (s.freezeAll b).caps = s.caps := rfl
@[simp] theorem State.freezeAll_plat (s : State) (b : Bool) : (s.freezeAll b).plat = s.plat := rfl
@[simp] theorem State.freezeAll_gsts (s : State) (b : Bool) : (s.freezeAll b).gsts = s.gsts := rfl
@[simp] theorem State.freezeAll_rtaddr (s : State) (b : Bool) : (s.freezeAll b).rtaddr = s.rtaddr := rfl
@[simp] theorem State.freezeAll_latchedRt (s : State) (b : Bool) : (s.freezeAll b).latchedRt = s.latchedRt := rfl
@[simp] theorem State.freezeAll_ccmd (s : State) (b : Bool) : (s.freezeAll b).ccmd = s.ccmd := rfl
@[simp] theorem State.freezeAll_iotlbReg (s : State) (b : Bool) : (s.freezeAll b).iotlbReg = s.iotlbReg := rfl
@[simp] theorem State.freezeAll_iva (s : State) (b : Bool) : (s.freezeAll b).iva = s.iva := rfl
@[simp] theorem State.freezeAll_fsts (s : State) (b : Bool) : (s.freezeAll b).fsts = s.fsts := rfl
@[simp] theorem State.freezeAll_frcd (s : State) (b : Bool) : (s.freezeAll b).frcd = s.frcd := rfl
@[simp] theorem State.freezeAll_faultIdx (s : State) (b : Bool) : (s.freezeAll b).faultIdx = s.faultIdx := rfl
@[simp] theorem State.freezeAll_faultEv (s : State) (b : Bool) : (s.freezeAll b).faultEv = s.faultEv := rfl
@[simp] theorem State.freezeAll_invEv (s : State) (b : Bool) : (s.freezeAll b).invEv = s.invEv := rfl
@[simp] theorem State.freezeAll_pageEv (s : State) (b : Bool) : (s.freezeAll b).pageEv = s.pageEv := rfl
@[simp] theorem State.freezeAll_perfEv (s : State) (b : Bool) : (s.freezeAll b).perfEv = s.perfEv := rfl
@[simp] theorem State.freezeAll_pmr (s : State) (b : Bool) : (s.freezeAll b).pmr = s.pmr := rfl
@[simp] theorem State.freezeAll_iq (s : State) (b : Bool) : (s.freezeAll b).iq = s.iq := rfl
@[simp] theorem State.freezeAll_iwc (s : State) (b : Bool) : (s.freezeAll b).iwc = s.iwc := rfl
@[simp] theorem State.freezeAll_iqercd (s : State) (b : Bool) : (s.freezeAll b).iqercd = s.iqercd := rfl
@[simp] theorem State.freezeAll_irta (s : State) (b : Bool) : (s.freezeAll b).irta = s.irta := rfl
@[simp] theorem State.freezeAll_latchedIr (s : State) (b : Bool) : (s.freezeAll b).latchedIr = s.latchedIr := rfl
@[simp] theorem State.freezeAll_prq (s : State) (b : Bool) : (s.freezeAll b).prq = s.prq := rfl
@[simp] theorem State.freezeAll_mtrr (s : State) (b : Bool) : (s.freezeAll b).mtrr = s.mtrr := rfl
@[simp] theorem State.freezeAll_ecmd (s : State) (b : Bool) : (s.freezeAll b).ecmd = s.ecmd := rfl
@[simp] theorem State.freezeAll_vcmd (s : State) (b : Bool) : (s.freezeAll b).vcmd = s.vcmd := rfl
@[simp] theorem State.freezeAll_caches (s : State) (b : Bool) : (s.freezeAll b).caches = s.caches := rfl
@[simp] theorem State.freezeAll_iqPend (s : State) (b : Bool) : (s.freezeAll b).iqPend = s.iqPend := rfl
@[simp] theorem State.freezeAll_itags (s : State) (b : Bool) : (s.freezeAll b).itags = s.itags := rfl
@[simp] theorem State.freezeAll_wbuf (s : State) (b : Bool) : (s.freezeAll b).wbuf = s.wbuf := rfl
@[simp] theorem State.freezeAll_inFlight (s : State) (b : Bool) : (s.freezeAll b).inFlight = s.inFlight := rfl
@[simp] theorem State.freezeAll_intrFlight (s : State) (b : Bool) : (s.freezeAll b).intrFlight = s.intrFlight := rfl
@[simp] theorem State.freezeAll_pendCmds (s : State) (b : Bool) : (s.freezeAll b).pendCmds = s.pendCmds := rfl
@[simp] theorem State.freezeAll_mem (s : State) (b : Bool) : (s.freezeAll b).mem = s.mem := rfl
@[simp] theorem State.freezeAll_out (s : State) (b : Bool) : (s.freezeAll b).out = s.out := rfl
@[simp] theorem State.freezeAll_bus (s : State) (b : Bool) : (s.freezeAll b).bus = s.bus := rfl
@[simp] theorem State.freezeAll_inputs (s : State) (b : Bool) : (s.freezeAll b).inputs = s.inputs := rfl
@[simp] theorem State.freezeAll_choice (s : State) (b : Bool) : (s.freezeAll b).choice = s.choice := rfl
@[simp] theorem State.freezeAll_freeCtr (s : State) (b : Bool) : (s.freezeAll b).freeCtr = s.freeCtr := rfl

/-! ## `State.ecmdDone` -/

@[simp] theorem State.ecmdDone_caps (s : State) (sc : BitVec 7) : (s.ecmdDone sc).caps = s.caps := rfl
@[simp] theorem State.ecmdDone_plat (s : State) (sc : BitVec 7) : (s.ecmdDone sc).plat = s.plat := rfl
@[simp] theorem State.ecmdDone_gsts (s : State) (sc : BitVec 7) : (s.ecmdDone sc).gsts = s.gsts := rfl
@[simp] theorem State.ecmdDone_rtaddr (s : State) (sc : BitVec 7) : (s.ecmdDone sc).rtaddr = s.rtaddr := rfl
@[simp] theorem State.ecmdDone_latchedRt (s : State) (sc : BitVec 7) : (s.ecmdDone sc).latchedRt = s.latchedRt := rfl
@[simp] theorem State.ecmdDone_ccmd (s : State) (sc : BitVec 7) : (s.ecmdDone sc).ccmd = s.ccmd := rfl
@[simp] theorem State.ecmdDone_iotlbReg (s : State) (sc : BitVec 7) : (s.ecmdDone sc).iotlbReg = s.iotlbReg := rfl
@[simp] theorem State.ecmdDone_iva (s : State) (sc : BitVec 7) : (s.ecmdDone sc).iva = s.iva := rfl
@[simp] theorem State.ecmdDone_fsts (s : State) (sc : BitVec 7) : (s.ecmdDone sc).fsts = s.fsts := rfl
@[simp] theorem State.ecmdDone_frcd (s : State) (sc : BitVec 7) : (s.ecmdDone sc).frcd = s.frcd := rfl
@[simp] theorem State.ecmdDone_faultIdx (s : State) (sc : BitVec 7) : (s.ecmdDone sc).faultIdx = s.faultIdx := rfl
@[simp] theorem State.ecmdDone_faultEv (s : State) (sc : BitVec 7) : (s.ecmdDone sc).faultEv = s.faultEv := rfl
@[simp] theorem State.ecmdDone_invEv (s : State) (sc : BitVec 7) : (s.ecmdDone sc).invEv = s.invEv := rfl
@[simp] theorem State.ecmdDone_pageEv (s : State) (sc : BitVec 7) : (s.ecmdDone sc).pageEv = s.pageEv := rfl
@[simp] theorem State.ecmdDone_perfEv (s : State) (sc : BitVec 7) : (s.ecmdDone sc).perfEv = s.perfEv := rfl
@[simp] theorem State.ecmdDone_pmr (s : State) (sc : BitVec 7) : (s.ecmdDone sc).pmr = s.pmr := rfl
@[simp] theorem State.ecmdDone_iq (s : State) (sc : BitVec 7) : (s.ecmdDone sc).iq = s.iq := rfl
@[simp] theorem State.ecmdDone_iwc (s : State) (sc : BitVec 7) : (s.ecmdDone sc).iwc = s.iwc := rfl
@[simp] theorem State.ecmdDone_iqercd (s : State) (sc : BitVec 7) : (s.ecmdDone sc).iqercd = s.iqercd := rfl
@[simp] theorem State.ecmdDone_irta (s : State) (sc : BitVec 7) : (s.ecmdDone sc).irta = s.irta := rfl
@[simp] theorem State.ecmdDone_latchedIr (s : State) (sc : BitVec 7) : (s.ecmdDone sc).latchedIr = s.latchedIr := rfl
@[simp] theorem State.ecmdDone_prq (s : State) (sc : BitVec 7) : (s.ecmdDone sc).prq = s.prq := rfl
@[simp] theorem State.ecmdDone_mtrr (s : State) (sc : BitVec 7) : (s.ecmdDone sc).mtrr = s.mtrr := rfl
@[simp] theorem State.ecmdDone_perf (s : State) (sc : BitVec 7) : (s.ecmdDone sc).perf = s.perf := rfl
@[simp] theorem State.ecmdDone_vcmd (s : State) (sc : BitVec 7) : (s.ecmdDone sc).vcmd = s.vcmd := rfl
@[simp] theorem State.ecmdDone_caches (s : State) (sc : BitVec 7) : (s.ecmdDone sc).caches = s.caches := rfl
@[simp] theorem State.ecmdDone_iqPend (s : State) (sc : BitVec 7) : (s.ecmdDone sc).iqPend = s.iqPend := rfl
@[simp] theorem State.ecmdDone_itags (s : State) (sc : BitVec 7) : (s.ecmdDone sc).itags = s.itags := rfl
@[simp] theorem State.ecmdDone_wbuf (s : State) (sc : BitVec 7) : (s.ecmdDone sc).wbuf = s.wbuf := rfl
@[simp] theorem State.ecmdDone_inFlight (s : State) (sc : BitVec 7) : (s.ecmdDone sc).inFlight = s.inFlight := rfl
@[simp] theorem State.ecmdDone_intrFlight (s : State) (sc : BitVec 7) : (s.ecmdDone sc).intrFlight = s.intrFlight := rfl
@[simp] theorem State.ecmdDone_pendCmds (s : State) (sc : BitVec 7) : (s.ecmdDone sc).pendCmds = s.pendCmds := rfl
@[simp] theorem State.ecmdDone_mem (s : State) (sc : BitVec 7) : (s.ecmdDone sc).mem = s.mem := rfl
@[simp] theorem State.ecmdDone_out (s : State) (sc : BitVec 7) : (s.ecmdDone sc).out = s.out := rfl
@[simp] theorem State.ecmdDone_bus (s : State) (sc : BitVec 7) : (s.ecmdDone sc).bus = s.bus := rfl
@[simp] theorem State.ecmdDone_inputs (s : State) (sc : BitVec 7) : (s.ecmdDone sc).inputs = s.inputs := rfl
@[simp] theorem State.ecmdDone_choice (s : State) (sc : BitVec 7) : (s.ecmdDone sc).choice = s.choice := rfl
@[simp] theorem State.ecmdDone_freeCtr (s : State) (sc : BitVec 7) : (s.ecmdDone sc).freeCtr = s.freeCtr := rfl

/-! ## `State.vcmdDone` -/

@[simp] theorem State.vcmdDone_caps (s : State) (sc : BitVec 7) (x : BitVec 48) : (s.vcmdDone sc x).caps = s.caps := rfl
@[simp] theorem State.vcmdDone_plat (s : State) (sc : BitVec 7) (x : BitVec 48) : (s.vcmdDone sc x).plat = s.plat := rfl
@[simp] theorem State.vcmdDone_gsts (s : State) (sc : BitVec 7) (x : BitVec 48) : (s.vcmdDone sc x).gsts = s.gsts := rfl
@[simp] theorem State.vcmdDone_rtaddr (s : State) (sc : BitVec 7) (x : BitVec 48) : (s.vcmdDone sc x).rtaddr = s.rtaddr := rfl
@[simp] theorem State.vcmdDone_latchedRt (s : State) (sc : BitVec 7) (x : BitVec 48) : (s.vcmdDone sc x).latchedRt = s.latchedRt := rfl
@[simp] theorem State.vcmdDone_ccmd (s : State) (sc : BitVec 7) (x : BitVec 48) : (s.vcmdDone sc x).ccmd = s.ccmd := rfl
@[simp] theorem State.vcmdDone_iotlbReg (s : State) (sc : BitVec 7) (x : BitVec 48) : (s.vcmdDone sc x).iotlbReg = s.iotlbReg := rfl
@[simp] theorem State.vcmdDone_iva (s : State) (sc : BitVec 7) (x : BitVec 48) : (s.vcmdDone sc x).iva = s.iva := rfl
@[simp] theorem State.vcmdDone_fsts (s : State) (sc : BitVec 7) (x : BitVec 48) : (s.vcmdDone sc x).fsts = s.fsts := rfl
@[simp] theorem State.vcmdDone_frcd (s : State) (sc : BitVec 7) (x : BitVec 48) : (s.vcmdDone sc x).frcd = s.frcd := rfl
@[simp] theorem State.vcmdDone_faultIdx (s : State) (sc : BitVec 7) (x : BitVec 48) : (s.vcmdDone sc x).faultIdx = s.faultIdx := rfl
@[simp] theorem State.vcmdDone_faultEv (s : State) (sc : BitVec 7) (x : BitVec 48) : (s.vcmdDone sc x).faultEv = s.faultEv := rfl
@[simp] theorem State.vcmdDone_invEv (s : State) (sc : BitVec 7) (x : BitVec 48) : (s.vcmdDone sc x).invEv = s.invEv := rfl
@[simp] theorem State.vcmdDone_pageEv (s : State) (sc : BitVec 7) (x : BitVec 48) : (s.vcmdDone sc x).pageEv = s.pageEv := rfl
@[simp] theorem State.vcmdDone_perfEv (s : State) (sc : BitVec 7) (x : BitVec 48) : (s.vcmdDone sc x).perfEv = s.perfEv := rfl
@[simp] theorem State.vcmdDone_pmr (s : State) (sc : BitVec 7) (x : BitVec 48) : (s.vcmdDone sc x).pmr = s.pmr := rfl
@[simp] theorem State.vcmdDone_iq (s : State) (sc : BitVec 7) (x : BitVec 48) : (s.vcmdDone sc x).iq = s.iq := rfl
@[simp] theorem State.vcmdDone_iwc (s : State) (sc : BitVec 7) (x : BitVec 48) : (s.vcmdDone sc x).iwc = s.iwc := rfl
@[simp] theorem State.vcmdDone_iqercd (s : State) (sc : BitVec 7) (x : BitVec 48) : (s.vcmdDone sc x).iqercd = s.iqercd := rfl
@[simp] theorem State.vcmdDone_irta (s : State) (sc : BitVec 7) (x : BitVec 48) : (s.vcmdDone sc x).irta = s.irta := rfl
@[simp] theorem State.vcmdDone_latchedIr (s : State) (sc : BitVec 7) (x : BitVec 48) : (s.vcmdDone sc x).latchedIr = s.latchedIr := rfl
@[simp] theorem State.vcmdDone_prq (s : State) (sc : BitVec 7) (x : BitVec 48) : (s.vcmdDone sc x).prq = s.prq := rfl
@[simp] theorem State.vcmdDone_mtrr (s : State) (sc : BitVec 7) (x : BitVec 48) : (s.vcmdDone sc x).mtrr = s.mtrr := rfl
@[simp] theorem State.vcmdDone_perf (s : State) (sc : BitVec 7) (x : BitVec 48) : (s.vcmdDone sc x).perf = s.perf := rfl
@[simp] theorem State.vcmdDone_ecmd (s : State) (sc : BitVec 7) (x : BitVec 48) : (s.vcmdDone sc x).ecmd = s.ecmd := rfl
@[simp] theorem State.vcmdDone_caches (s : State) (sc : BitVec 7) (x : BitVec 48) : (s.vcmdDone sc x).caches = s.caches := rfl
@[simp] theorem State.vcmdDone_iqPend (s : State) (sc : BitVec 7) (x : BitVec 48) : (s.vcmdDone sc x).iqPend = s.iqPend := rfl
@[simp] theorem State.vcmdDone_itags (s : State) (sc : BitVec 7) (x : BitVec 48) : (s.vcmdDone sc x).itags = s.itags := rfl
@[simp] theorem State.vcmdDone_wbuf (s : State) (sc : BitVec 7) (x : BitVec 48) : (s.vcmdDone sc x).wbuf = s.wbuf := rfl
@[simp] theorem State.vcmdDone_inFlight (s : State) (sc : BitVec 7) (x : BitVec 48) : (s.vcmdDone sc x).inFlight = s.inFlight := rfl
@[simp] theorem State.vcmdDone_intrFlight (s : State) (sc : BitVec 7) (x : BitVec 48) : (s.vcmdDone sc x).intrFlight = s.intrFlight := rfl
@[simp] theorem State.vcmdDone_pendCmds (s : State) (sc : BitVec 7) (x : BitVec 48) : (s.vcmdDone sc x).pendCmds = s.pendCmds := rfl
@[simp] theorem State.vcmdDone_mem (s : State) (sc : BitVec 7) (x : BitVec 48) : (s.vcmdDone sc x).mem = s.mem := rfl
@[simp] theorem State.vcmdDone_out (s : State) (sc : BitVec 7) (x : BitVec 48) : (s.vcmdDone sc x).out = s.out := rfl
@[simp] theorem State.vcmdDone_bus (s : State) (sc : BitVec 7) (x : BitVec 48) : (s.vcmdDone sc x).bus = s.bus := rfl
@[simp] theorem State.vcmdDone_inputs (s : State) (sc : BitVec 7) (x : BitVec 48) : (s.vcmdDone sc x).inputs = s.inputs := rfl
@[simp] theorem State.vcmdDone_choice (s : State) (sc : BitVec 7) (x : BitVec 48) : (s.vcmdDone sc x).choice = s.choice := rfl
@[simp] theorem State.vcmdDone_freeCtr (s : State) (sc : BitVec 7) (x : BitVec 48) : (s.vcmdDone sc x).freeCtr = s.freeCtr := rfl

/-! ## `State.vcmdBusy` -/

@[simp] theorem State.vcmdBusy_caps (s : State) (c : BitVec 8) (x : BitVec 48) : (s.vcmdBusy c x).caps = s.caps := rfl
@[simp] theorem State.vcmdBusy_plat (s : State) (c : BitVec 8) (x : BitVec 48) : (s.vcmdBusy c x).plat = s.plat := rfl
@[simp] theorem State.vcmdBusy_gsts (s : State) (c : BitVec 8) (x : BitVec 48) : (s.vcmdBusy c x).gsts = s.gsts := rfl
@[simp] theorem State.vcmdBusy_rtaddr (s : State) (c : BitVec 8) (x : BitVec 48) : (s.vcmdBusy c x).rtaddr = s.rtaddr := rfl
@[simp] theorem State.vcmdBusy_latchedRt (s : State) (c : BitVec 8) (x : BitVec 48) : (s.vcmdBusy c x).latchedRt = s.latchedRt := rfl
@[simp] theorem State.vcmdBusy_ccmd (s : State) (c : BitVec 8) (x : BitVec 48) : (s.vcmdBusy c x).ccmd = s.ccmd := rfl
@[simp] theorem State.vcmdBusy_iotlbReg (s : State) (c : BitVec 8) (x : BitVec 48) : (s.vcmdBusy c x).iotlbReg = s.iotlbReg := rfl
@[simp] theorem State.vcmdBusy_iva (s : State) (c : BitVec 8) (x : BitVec 48) : (s.vcmdBusy c x).iva = s.iva := rfl
@[simp] theorem State.vcmdBusy_fsts (s : State) (c : BitVec 8) (x : BitVec 48) : (s.vcmdBusy c x).fsts = s.fsts := rfl
@[simp] theorem State.vcmdBusy_frcd (s : State) (c : BitVec 8) (x : BitVec 48) : (s.vcmdBusy c x).frcd = s.frcd := rfl
@[simp] theorem State.vcmdBusy_faultIdx (s : State) (c : BitVec 8) (x : BitVec 48) : (s.vcmdBusy c x).faultIdx = s.faultIdx := rfl
@[simp] theorem State.vcmdBusy_faultEv (s : State) (c : BitVec 8) (x : BitVec 48) : (s.vcmdBusy c x).faultEv = s.faultEv := rfl
@[simp] theorem State.vcmdBusy_invEv (s : State) (c : BitVec 8) (x : BitVec 48) : (s.vcmdBusy c x).invEv = s.invEv := rfl
@[simp] theorem State.vcmdBusy_pageEv (s : State) (c : BitVec 8) (x : BitVec 48) : (s.vcmdBusy c x).pageEv = s.pageEv := rfl
@[simp] theorem State.vcmdBusy_perfEv (s : State) (c : BitVec 8) (x : BitVec 48) : (s.vcmdBusy c x).perfEv = s.perfEv := rfl
@[simp] theorem State.vcmdBusy_pmr (s : State) (c : BitVec 8) (x : BitVec 48) : (s.vcmdBusy c x).pmr = s.pmr := rfl
@[simp] theorem State.vcmdBusy_iq (s : State) (c : BitVec 8) (x : BitVec 48) : (s.vcmdBusy c x).iq = s.iq := rfl
@[simp] theorem State.vcmdBusy_iwc (s : State) (c : BitVec 8) (x : BitVec 48) : (s.vcmdBusy c x).iwc = s.iwc := rfl
@[simp] theorem State.vcmdBusy_iqercd (s : State) (c : BitVec 8) (x : BitVec 48) : (s.vcmdBusy c x).iqercd = s.iqercd := rfl
@[simp] theorem State.vcmdBusy_irta (s : State) (c : BitVec 8) (x : BitVec 48) : (s.vcmdBusy c x).irta = s.irta := rfl
@[simp] theorem State.vcmdBusy_latchedIr (s : State) (c : BitVec 8) (x : BitVec 48) : (s.vcmdBusy c x).latchedIr = s.latchedIr := rfl
@[simp] theorem State.vcmdBusy_prq (s : State) (c : BitVec 8) (x : BitVec 48) : (s.vcmdBusy c x).prq = s.prq := rfl
@[simp] theorem State.vcmdBusy_mtrr (s : State) (c : BitVec 8) (x : BitVec 48) : (s.vcmdBusy c x).mtrr = s.mtrr := rfl
@[simp] theorem State.vcmdBusy_perf (s : State) (c : BitVec 8) (x : BitVec 48) : (s.vcmdBusy c x).perf = s.perf := rfl
@[simp] theorem State.vcmdBusy_ecmd (s : State) (c : BitVec 8) (x : BitVec 48) : (s.vcmdBusy c x).ecmd = s.ecmd := rfl
@[simp] theorem State.vcmdBusy_caches (s : State) (c : BitVec 8) (x : BitVec 48) : (s.vcmdBusy c x).caches = s.caches := rfl
@[simp] theorem State.vcmdBusy_iqPend (s : State) (c : BitVec 8) (x : BitVec 48) : (s.vcmdBusy c x).iqPend = s.iqPend := rfl
@[simp] theorem State.vcmdBusy_itags (s : State) (c : BitVec 8) (x : BitVec 48) : (s.vcmdBusy c x).itags = s.itags := rfl
@[simp] theorem State.vcmdBusy_wbuf (s : State) (c : BitVec 8) (x : BitVec 48) : (s.vcmdBusy c x).wbuf = s.wbuf := rfl
@[simp] theorem State.vcmdBusy_inFlight (s : State) (c : BitVec 8) (x : BitVec 48) : (s.vcmdBusy c x).inFlight = s.inFlight := rfl
@[simp] theorem State.vcmdBusy_intrFlight (s : State) (c : BitVec 8) (x : BitVec 48) : (s.vcmdBusy c x).intrFlight = s.intrFlight := rfl
@[simp] theorem State.vcmdBusy_pendCmds (s : State) (c : BitVec 8) (x : BitVec 48) : (s.vcmdBusy c x).pendCmds = s.pendCmds := rfl
@[simp] theorem State.vcmdBusy_mem (s : State) (c : BitVec 8) (x : BitVec 48) : (s.vcmdBusy c x).mem = s.mem := rfl
@[simp] theorem State.vcmdBusy_out (s : State) (c : BitVec 8) (x : BitVec 48) : (s.vcmdBusy c x).out = s.out := rfl
@[simp] theorem State.vcmdBusy_bus (s : State) (c : BitVec 8) (x : BitVec 48) : (s.vcmdBusy c x).bus = s.bus := rfl
@[simp] theorem State.vcmdBusy_inputs (s : State) (c : BitVec 8) (x : BitVec 48) : (s.vcmdBusy c x).inputs = s.inputs := rfl
@[simp] theorem State.vcmdBusy_choice (s : State) (c : BitVec 8) (x : BitVec 48) : (s.vcmdBusy c x).choice = s.choice := rfl
@[simp] theorem State.vcmdBusy_freeCtr (s : State) (c : BitVec 8) (x : BitVec 48) : (s.vcmdBusy c x).freeCtr = s.freeCtr := rfl

/-! ## The registers of an event -/

@[simp] theorem State.setEvRegs_fault (s : State) (r : EventRegs) : s.setEvRegs .fault r = { s with faultEv := r } := rfl
@[simp] theorem State.evRegs_fault (s : State) : s.evRegs .fault = s.faultEv := rfl
@[simp] theorem State.setEvRegs_inv (s : State) (r : EventRegs) : s.setEvRegs .inv r = { s with invEv := r } := rfl
@[simp] theorem State.evRegs_inv (s : State) : s.evRegs .inv = s.invEv := rfl
@[simp] theorem State.setEvRegs_page (s : State) (r : EventRegs) : s.setEvRegs .page r = { s with pageEv := r } := rfl
@[simp] theorem State.evRegs_page (s : State) : s.evRegs .page = s.pageEv := rfl
@[simp] theorem State.setEvRegs_perf (s : State) (r : EventRegs) : s.setEvRegs .perf r = { s with perfEv := r } := rfl
@[simp] theorem State.evRegs_perf (s : State) : s.evRegs .perf = s.perfEv := rfl
@[simp] theorem State.evStatus_fault (s : State) : s.evStatus .fault = s.faultStatusAny := rfl
@[simp] theorem State.evStatus_inv (s : State) : s.evStatus .inv = s.iwc := rfl
@[simp] theorem State.evStatus_page (s : State) : s.evStatus .page = (s.prq.ppr || s.prq.pro) := rfl
@[simp] theorem State.evStatus_perf (s : State) : s.evStatus .perf = s.perf.pis := rfl

/-! ## What the elementary operations write -/

@[simp] theorem State.emit_out (s : State) (o : Out) : (s.emit o).out = o :: s.out := rfl
@[simp] theorem State.respond_out (s : State) (sid : SourceId) (r : Response) :
    (s.respond sid r).out = .respond sid r :: s.out := rfl
@[simp] theorem State.access_bus (s : State) (k : BusKind) (a n : Nat) (b : Bool) :
    (s.access k a n b).bus = { kind := k, addr := a, size := n, snoop := b, mt := .wb } :: s.bus := rfl
@[simp] theorem State.accessAll_bus (s : State) (t : Trail) : (s.accessAll t).bus = t.bus ++ s.bus := rfl
@[simp] theorem State.fresh_freeCtr (s : State) : s.fresh.freeCtr = s.freeCtr + 1 := rfl
@[simp] theorem State.flush_wbuf (s : State) : s.flush.wbuf = [] := rfl
@[simp] theorem State.memWrite_mem (s : State) (a n v : Nat) : (s.memWrite a n v).mem = writeNat s.flush.mem a n v := rfl
@[simp] theorem State.memWrite_wbuf (s : State) (a n v : Nat) : (s.memWrite a n v).wbuf = [] := rfl
@[simp] theorem State.memWriteBytes_mem (s : State) (a : Nat) (bs : List Byte) :
    (s.memWriteBytes a bs).mem = writeBytes s.flush.mem a bs := rfl
@[simp] theorem State.memWriteBytes_wbuf (s : State) (a : Nat) (bs : List Byte) : (s.memWriteBytes a bs).wbuf = [] := rfl

end Sys2Proof.Machine
end

