-- ==== Sys2Proof/Laws/Frame.lean ====
section
/-! SUPPORT. What each shared operation may change, said once: its result is the state it was given with just the named
fields replaced. Every other field of the result is then the old one, by rewriting with the equation. -/

namespace Sys2Proof.Machine

/-! ## Memory and events -/

theorem State.implicitFlush_frame (s : State) : ∃ m b, s.implicitFlush = { s with mem := m, wbuf := b } := by
  unfold State.implicitFlush
  split <;> exact ⟨_, _, rfl⟩

theorem State.softStore_frame (s : State) (a : Nat) (bs : List Byte) :
    ∃ m b, s.softStore a bs = { s with mem := m, wbuf := b } := by
  unfold State.softStore
  split <;> exact ⟨_, _, rfl⟩

theorem State.drainStore_frame (s : State) : ∃ m b, s.drainStore = { s with mem := m, wbuf := b } := by
  unfold State.drainStore
  split <;> exact ⟨_, _, rfl⟩

theorem State.storeMessage_frame (s : State) (r : EventRegs) :
    ∃ m b, s.storeMessage r = { s with mem := m, wbuf := b } := by
  unfold State.storeMessage
  split <;> exact ⟨_, _, rfl⟩

theorem State.sendInterrupt_frame (s : State) (e : EventName) :
    ∃ m b o, s.sendInterrupt e = { s with mem := m, wbuf := b, out := o } := by
  unfold State.sendInterrupt
  obtain ⟨m, b, h⟩ := s.storeMessage_frame (s.evRegs e)
  dsimp only
  rw [h]
  exact ⟨_, _, _, rfl⟩

theorem State.raiseEvent_fault_frame (s : State) (w : Bool) :
    ∃ r m b o, s.raiseEvent .fault w = { s with faultEv := r, mem := m, wbuf := b, out := o } := by
  unfold State.raiseEvent
  split
  · exact ⟨_, _, _, _, rfl⟩
  · split
    · exact ⟨_, _, _, _, rfl⟩
    · obtain ⟨m, b, o, h⟩ := State.sendInterrupt_frame (s.setEvRegs .fault { s.evRegs .fault with ip := false }) .fault
      rw [h]
      exact ⟨_, _, _, _, rfl⟩

theorem State.raiseEvent_inv_frame (s : State) (w : Bool) :
    ∃ r m b o, s.raiseEvent .inv w = { s with invEv := r, mem := m, wbuf := b, out := o } := by
  unfold State.raiseEvent
  split
  · exact ⟨_, _, _, _, rfl⟩
  · split
    · exact ⟨_, _, _, _, rfl⟩
    · obtain ⟨m, b, o, h⟩ := State.sendInterrupt_frame (s.setEvRegs .inv { s.evRegs .inv with ip := false }) .inv
      rw [h]
      exact ⟨_, _, _, _, rfl⟩

theorem State.raiseEvent_page_frame (s : State) (w : Bool) :
    ∃ r m b o, s.raiseEvent .page w = { s with pageEv := r, mem := m, wbuf := b, out := o } := by
  unfold State.raiseEvent
  split
  · exact ⟨_, _, _, _, rfl⟩
  · split
    · exact ⟨_, _, _, _, rfl⟩
    · obtain ⟨m, b, o, h⟩ := State.sendInterrupt_frame (s.setEvRegs .page { s.evRegs .page with ip := false }) .page
      rw [h]
      exact ⟨_, _, _, _, rfl⟩

theorem State.raiseEvent_perf_frame (s : State) (w : Bool) :
    ∃ r m b o, s.raiseEvent .perf w = { s with perfEv := r, mem := m, wbuf := b, out := o } := by
  unfold State.raiseEvent
  split
  · exact ⟨_, _, _, _, rfl⟩
  · split
    · exact ⟨_, _, _, _, rfl⟩
    · obtain ⟨m, b, o, h⟩ := State.sendInterrupt_frame (s.setEvRegs .perf { s.evRegs .perf with ip := false }) .perf
      rw [h]
      exact ⟨_, _, _, _, rfl⟩

theorem State.setEvRegs_frame (s : State) (e : EventName) (r : EventRegs) :
    ∃ r1 r2 r3 r4, s.setEvRegs e r = { s with faultEv := r1, invEv := r2, pageEv := r3, perfEv := r4 } := by
  cases e <;> exact ⟨_, _, _, _, rfl⟩

theorem State.statusCleared_frame (s : State) (e : EventName) :
    ∃ r1 r2 r3 r4, s.statusCleared e = { s with faultEv := r1, invEv := r2, pageEv := r3, perfEv := r4 } := by
  unfold State.statusCleared
  split
  · exact ⟨_, _, _, _, rfl⟩
  · exact State.setEvRegs_frame s e _

/-- An event's registers replaced, and perhaps its message sent. -/
theorem State.setEvRegs_send_frame (s : State) (e : EventName) (r : EventRegs) :
    ∃ r1 r2 r3 r4 m b o, (s.setEvRegs e r).sendInterrupt e =
      { s with faultEv := r1, invEv := r2, pageEv := r3, perfEv := r4, mem := m, wbuf := b, out := o } := by
  obtain ⟨r1, r2, r3, r4, h⟩ := State.setEvRegs_frame s e r
  obtain ⟨m, b, o, h'⟩ := State.sendInterrupt_frame (s.setEvRegs e r) e
  rw [h', h]
  exact ⟨_, _, _, _, _, _, _, rfl⟩

theorem State.writeIm_frame (s : State) (e : EventName) (im : Bool) :
    ∃ r1 r2 r3 r4 m b o, s.writeIm e im =
      { s with faultEv := r1, invEv := r2, pageEv := r3, perfEv := r4, mem := m, wbuf := b, out := o } := by
  unfold State.writeIm
  dsimp only
  split
  · exact State.setEvRegs_send_frame s e _
  · obtain ⟨r1, r2, r3, r4, h⟩ := State.setEvRegs_frame s e { s.evRegs e with im := im }
    rw [h]
    exact ⟨_, _, _, _, _, _, _, rfl⟩

theorem State.releaseEvent_frame (s : State) (e : EventName) :
    ∃ r1 r2 r3 r4 m b o, s.releaseEvent e =
      { s with faultEv := r1, invEv := r2, pageEv := r3, perfEv := r4, mem := m, wbuf := b, out := o } := by
  unfold State.releaseEvent
  dsimp only
  split
  · exact State.setEvRegs_send_frame s e _
  · exact ⟨_, _, _, _, _, _, _, rfl⟩

/-! ## Faults -/

theorem State.reportFault_frame (s : State) (r : FaultReport) :
    ∃ fs fr i e m b o, s.reportFault r =
      { s with fsts := fs, frcd := fr, faultIdx := i, faultEv := e, mem := m, wbuf := b, out := o } := by
  unfold State.reportFault
  iterate 5 (split; exact ⟨_, _, _, _, _, _, _, rfl⟩)
  dsimp only
  split
  · exact ⟨_, _, _, _, _, _, _, rfl⟩
  · obtain ⟨e, m, b, o, h⟩ := State.raiseEvent_fault_frame _ _
    rw [h]
    exact ⟨_, _, _, _, _, _, _, rfl⟩

theorem State.resetFaultIdx_frame (s : State) : ∃ i, s.resetFaultIdx = { s with faultIdx := i } := by
  unfold State.resetFaultIdx
  split <;> exact ⟨_, rfl⟩

/-! ## Perfmon -/

theorem State.perfmonEvent_frame (s : State) :
    ∃ p e m b o, s.perfmonEvent = { s with perf := p, perfEv := e, mem := m, wbuf := b, out := o } := by
  unfold State.perfmonEvent
  dsimp only
  obtain ⟨e, m, b, o, h⟩ := State.raiseEvent_perf_frame _ _
  rw [h]
  exact ⟨_, _, _, _, _, rfl⟩

theorem State.countAt_frame (s : State) (c : Occurrence) (k : Nat) :
    ∃ p e m b o, s.countAt c k = { s with perf := p, perfEv := e, mem := m, wbuf := b, out := o } := by
  unfold State.countAt
  split
  · exact ⟨_, _, _, _, _, rfl⟩
  split
  · dsimp only
    obtain ⟨p, e, m, b, o, h⟩ := State.perfmonEvent_frame (s.setCounter k _)
    split <;> split <;> first | exact ⟨_, _, _, _, _, rfl⟩ | (rw [h]; exact ⟨_, _, _, _, _, rfl⟩)
  · exact ⟨_, _, _, _, _, rfl⟩

theorem foldl_countAt_frame (c : Occurrence) (l : List Nat) (s : State) :
    ∃ p e m b o, l.foldl (fun s k => s.countAt c k) s =
      { s with perf := p, perfEv := e, mem := m, wbuf := b, out := o } := by
  induction l generalizing s with
  | nil => exact ⟨_, _, _, _, _, rfl⟩
  | cons k l ih =>
    obtain ⟨p, e, m, b, o, h⟩ := State.countAt_frame s c k
    obtain ⟨p', e', m', b', o', h'⟩ := ih (s.countAt c k)
    rw [List.foldl_cons, h', h]
    exact ⟨_, _, _, _, _, rfl⟩

theorem State.count_frame (s : State) (c : Occurrence) :
    ∃ p e m b o, s.count c = { s with perf := p, perfEv := e, mem := m, wbuf := b, out := o } := by
  unfold State.count
  split
  · exact foldl_countAt_frame c _ s
  · exact ⟨_, _, _, _, _, rfl⟩

theorem State.countAll_frame (s : State) (l : List Occurrence) :
    ∃ p e m b o, s.countAll l = { s with perf := p, perfEv := e, mem := m, wbuf := b, out := o } := by
  unfold State.countAll
  induction l generalizing s with
  | nil => exact ⟨_, _, _, _, _, rfl⟩
  | cons c l ih =>
    obtain ⟨p, e, m, b, o, h⟩ := State.count_frame s c
    obtain ⟨p', e', m', b', o', h'⟩ := ih (s.count c)
    rw [List.foldl_cons, h', h]
    exact ⟨_, _, _, _, _, rfl⟩

theorem State.perfPulse_frame (s : State) (g e n : Nat) :
    ∃ p v m b o, s.perfPulse g e n = { s with perf := p, perfEv := v, mem := m, wbuf := b, out := o } := by
  unfold State.perfPulse
  split
  · exact State.count_frame s _
  · exact ⟨_, _, _, _, _, rfl⟩

/-! ## Caches and walks -/

theorem State.fillCtx_frame (s : State) (e : CtxEntry) : ∃ c, s.fillCtx e = { s with caches := c } := by
  unfold State.fillCtx
  split <;> exact ⟨_, rfl⟩

theorem State.fillPasid_frame (s : State) (e : PasidEntry) : ∃ c, s.fillPasid e = { s with caches := c } := by
  unfold State.fillPasid
  split <;> exact ⟨_, rfl⟩

theorem State.fillIotlb_frame (s : State) (e : IotlbEntry) : ∃ c, s.fillIotlb e = { s with caches := c } := by
  unfold State.fillIotlb
  split <;> exact ⟨_, rfl⟩

theorem State.fillPsc_frame (s : State) (l : List PscEntry) : ∃ c, s.fillPsc l = { s with caches := c } := by
  unfold State.fillPsc
  split <;> exact ⟨_, rfl⟩

theorem State.fillIec_frame (s : State) (e : IecEntry) : ∃ c, s.fillIec e = { s with caches := c } := by
  unfold State.fillIec
  split <;> exact ⟨_, rfl⟩

theorem State.withSome_frame {α : Type} (s : State) (f : State → α → State) (o : Option α)
    (h : ∀ s e, ∃ c, f s e = { s with caches := c }) : ∃ c, s.withSome f o = { s with caches := c } := by
  cases o with
  | none => exact ⟨_, rfl⟩
  | some e => exact h s e

theorem State.keepTrail_frame (s : State) (t : Trail) : ∃ c, s.keepTrail t = { s with caches := c } := by
  unfold State.keepTrail
  obtain ⟨c1, h1⟩ := s.withSome_frame State.fillCtx t.ctx State.fillCtx_frame
  rw [h1]
  obtain ⟨c2, h2⟩ := State.withSome_frame { s with caches := c1 } State.fillPasid t.pas State.fillPasid_frame
  rw [h2]
  obtain ⟨c3, h3⟩ := State.withSome_frame { s with caches := c2 } State.fillIotlb t.iotlb State.fillIotlb_frame
  rw [h3]
  exact ⟨_, rfl⟩

theorem State.keepFound_frame (s : State) (f : Found) (r : MemReq) (fpd : Bool) :
    ∃ c, s.keepFound f r fpd = { s with caches := c } := by
  unfold State.keepFound
  split
  · exact ⟨_, rfl⟩
  · exact State.fillIotlb_frame s _

theorem foldl_updateFlags_frame (l : List FlagUpdate) (s : State) :
    ∃ m b x, l.foldl (fun s u => s.updateFlags u) s = { s with mem := m, wbuf := b, bus := x } := by
  induction l generalizing s with
  | nil => exact ⟨_, _, _, rfl⟩
  | cons u l ih =>
    obtain ⟨m, b, x, h⟩ := ih (s.updateFlags u)
    rw [List.foldl_cons, h]
    exact ⟨_, _, _, rfl⟩

theorem State.countTrail_frame (s : State) (t : Trail) (sid : SourceId) (p : Option Pasid) (a : Nat) :
    ∃ p' e m b o, s.countTrail t sid p a = { s with perf := p', perfEv := e, mem := m, wbuf := b, out := o } :=
  State.countAll_frame s _

theorem State.runWalk_frame {α : Type} (s : State) (w : Walk α) (sid : SourceId) (p : Option Pasid) (a : Nat) :
    ∃ p' e m b o c x, (s.runWalk w sid p a).2.2 =
      { s with perf := p', perfEv := e, mem := m, wbuf := b, out := o, caches := c, bus := x } := by
  unfold State.runWalk
  dsimp only
  generalize w.run.run Trail.empty = x
  obtain ⟨res, t⟩ := x
  obtain ⟨p', e, m, b, o, h1⟩ := State.countTrail_frame (s.accessAll t) t sid p a
  obtain ⟨c, h2⟩ := State.keepTrail_frame ((s.accessAll t).countTrail t sid p a) t
  dsimp only
  rw [h2, h1]
  cases res with
  | error c' =>
    dsimp only
    obtain ⟨c', h4⟩ := State.fillPsc_frame _ _
    rw [h4]
    exact ⟨_, _, _, _, _, _, _, rfl⟩
  | ok x =>
    dsimp only
    obtain ⟨m', b', x, h3⟩ := foldl_updateFlags_frame _ _
    obtain ⟨c', h4⟩ := State.fillPsc_frame _ _
    rw [h4, h3]
    exact ⟨_, _, _, _, _, _, _, rfl⟩

/-! ## Requests and interrupts in flight -/

theorem State.commit_frame (s : State) (f : Forwarded) :
    ∃ m b o n, s.commit f = { s with mem := m, wbuf := b, out := o, freeCtr := n } := by
  unfold State.commit
  dsimp only
  split
  · split <;> exact ⟨_, _, _, _, rfl⟩
  · split <;> exact ⟨_, _, _, _, rfl⟩
  · exact ⟨_, _, _, _, rfl⟩
  · split <;> exact ⟨_, _, _, _, rfl⟩

theorem foldl_commit_frame (l : List Forwarded) (s : State) :
    ∃ m b o n, l.foldl (fun (t : State) f => t.commit f) s =
      { s with mem := m, wbuf := b, out := o, freeCtr := n } := by
  induction l generalizing s with
  | nil => exact ⟨_, _, _, _, rfl⟩
  | cons f l ih =>
    obtain ⟨m, b, o, n, h⟩ := State.commit_frame s f
    obtain ⟨m', b', o', n', h'⟩ := ih (s.commit f)
    rw [List.foldl_cons, h', h]
    exact ⟨_, _, _, _, rfl⟩

theorem State.drainWhere_frame (s : State) (p : Forwarded → Bool) :
    ∃ m b o n, s.drainWhere p =
      { s with mem := m, wbuf := b, out := o, freeCtr := n, inFlight := s.inFlight.filter (fun f => !p f) } := by
  unfold State.drainWhere
  dsimp only
  obtain ⟨m, b, o, n, h⟩ := foldl_commit_frame (s.inFlight.filter p)
    { s with inFlight := s.inFlight.filter (fun f => !p f) }
  rw [h]
  exact ⟨_, _, _, _, rfl⟩

theorem State.drainAll_frame (s : State) :
    ∃ m b o n, s.drainAll = { s with mem := m, wbuf := b, out := o, freeCtr := n, inFlight := [] } := by
  obtain ⟨m, b, o, n, h⟩ := s.drainWhere_frame (fun _ => true)
  refine ⟨m, b, o, n, ?_⟩
  unfold State.drainAll
  rw [h]
  simp

theorem State.forward_frame (s : State) (f : Forwarded) :
    ∃ m b o n l, s.forward f = { s with mem := m, wbuf := b, out := o, freeCtr := n, inFlight := l } := by
  unfold State.forward
  split
  · exact ⟨_, _, _, _, _, rfl⟩
  · obtain ⟨m, b, o, n, h⟩ := s.drainWhere_frame (fun g => g.req.sid == f.req.sid && g.req.access == .write)
    obtain ⟨m', b', o', n', h'⟩ := State.commit_frame (s.drainWritesOf f.req.sid) f
    rw [h']
    unfold State.drainWritesOf
    rw [h]
    exact ⟨_, _, _, _, _, rfl⟩

theorem State.commitNth_frame (s : State) (k : Nat) :
    ∃ m b o n l, s.commitNth k = { s with mem := m, wbuf := b, out := o, freeCtr := n, inFlight := l } := by
  unfold State.commitNth
  split
  · exact ⟨_, _, _, _, _, rfl⟩
  · dsimp only
    obtain ⟨m, b, o, n, h⟩ := State.commit_frame _ _
    rw [h]
    obtain ⟨m', b', o', n', h'⟩ := foldl_commit_frame _ _
    rw [h']
    exact ⟨_, _, _, _, _, rfl⟩

/-- Accepting interrupts puts their messages into the trace, the oldest first, and does nothing else. -/
theorem State.acceptAll_eq (s : State) (l : List IntrFlight) :
    s.acceptAll l = { s with out := (l.map (fun d => Out.interrupt d.msg)).reverse ++ s.out } := by
  unfold State.acceptAll
  induction l generalizing s with
  | nil => rfl
  | cons d l ih =>
    rw [List.foldl_cons, ih]
    simp [State.emit]

/-- The interrupts `p` selects are accepted and the others stay in flight. -/
theorem State.acceptWhere_eq (s : State) (p : IntrFlight → Bool) :
    s.acceptWhere p = { s with
      out := ((s.intrFlight.filter p).map (fun d => Out.interrupt d.msg)).reverse ++ s.out
      intrFlight := s.intrFlight.filter (fun d => !p d) } := by
  unfold State.acceptWhere
  rw [State.acceptAll_eq]

theorem State.deliver_frame (s : State) (d : IntrFlight) :
    ∃ o l, s.deliver d = { s with out := o, intrFlight := l } := by
  unfold State.deliver
  split
  · exact ⟨_, _, rfl⟩
  · rw [State.acceptWhere_eq]
    exact ⟨_, _, rfl⟩

theorem State.acceptNth_frame (s : State) (n : Nat) :
    ∃ o l, s.acceptNth n = { s with out := o, intrFlight := l } := by
  unfold State.acceptNth
  split
  · exact ⟨_, _, rfl⟩
  · dsimp only
    rw [State.acceptAll_eq]
    exact ⟨_, _, rfl⟩

theorem State.drainInterrupts_eq (s : State) :
    s.drainInterrupts =
      { s with out := (s.intrFlight.map (fun d => Out.interrupt d.msg)).reverse ++ s.out, intrFlight := [] } := by
  unfold State.drainInterrupts
  rw [State.acceptWhere_eq]
  simp

end Sys2Proof.Machine
end

