-- ==== Sys2Proof/Laws/Memory.lean ====
section
/-! SUPPORT. The laws of host memory: a read after a write, every other byte, and that every memory operation keeps the
canonical form (log 2). -/

namespace Sys2Proof.Machine

/-! ## One byte -/

/-- A write leaves every other byte alone. -/
theorem readByte_writeByte_ne (m : List Host.Cell) (a b : Nat) (v : Byte) (h : b ≠ a) :
    readByte (writeByte m a v) b = readByte m b := by
  induction m with
  | nil =>
    unfold writeByte
    split
    · rfl
    · simp [readByte, Ne.symm h]
  | cons c t ih =>
    obtain ⟨k, w⟩ := c
    unfold writeByte
    split
    · split
      · rfl
      · simp [readByte, Ne.symm h]
    · split
      · rename_i hk
        subst hk
        split
        · simp [readByte, Ne.symm h]
        · simp [readByte, Ne.symm h]
      · simp [readByte, ih]

/-- The head of a canonical memory is not the unlisted value. -/
theorem Memory.wf_head {k : Nat} {w : Byte} {t : List Host.Cell} (h : Memory.wf ((k, w) :: t) = true) :
    w ≠ Config.unlistedByte := by
  cases t with
  | nil => simpa [Memory.wf] using h
  | cons c t => simp [Memory.wf] at h; exact h.1.1

/-- The tail of a canonical memory is canonical. -/
theorem Memory.wf_tail {c : Host.Cell} {t : List Host.Cell} (h : Memory.wf (c :: t) = true) : Memory.wf t = true := by
  cases t with
  | nil => rfl
  | cons d t => simp [Memory.wf] at h; exact h.2

/-- A canonical memory lists its addresses in rising order. -/
theorem Memory.wf_lt {k : Nat} {w : Byte} {t : List Host.Cell} (h : Memory.wf ((k, w) :: t) = true) :
    ∀ c ∈ t, k < c.1 := by
  induction t generalizing k w with
  | nil => simp
  | cons d t ih =>
    obtain ⟨b, x⟩ := d
    have h1 : k < b := by simp [Memory.wf] at h; exact h.1.2
    intro c hc
    rcases List.mem_cons.mp hc with rfl | hc
    · exact h1
    · exact Nat.lt_trans h1 (ih (Memory.wf_tail h) c hc)

/-- A canonical memory from a head, a bound on the tail, and the tail's form. -/
theorem Memory.wf_cons {k : Nat} {w : Byte} {t : List Host.Cell} (hw : w ≠ Config.unlistedByte)
    (hlt : ∀ c ∈ t, k < c.1) (ht : Memory.wf t = true) : Memory.wf ((k, w) :: t) = true := by
  cases t with
  | nil => simpa [Memory.wf] using hw
  | cons d t =>
    obtain ⟨b, x⟩ := d
    simp [Memory.wf, hw, ht, hlt (b, x) (by simp)]

/-- An address below every listed one reads as the unlisted value. -/
theorem readByte_below {t : List Host.Cell} {a : Nat} (h : ∀ c ∈ t, a < c.1) : readByte t a = Config.unlistedByte := by
  induction t with
  | nil => rfl
  | cons c t ih =>
    obtain ⟨k, w⟩ := c
    have : k ≠ a := Nat.ne_of_gt (h (k, w) (by simp))
    simp [readByte, this, ih (fun d hd => h d (by simp [hd]))]

/-- A write is read back. -/
theorem readByte_writeByte_eq {m : List Host.Cell} (hm : Memory.wf m = true) (a : Nat) (v : Byte) :
    readByte (writeByte m a v) a = v := by
  induction m with
  | nil =>
    unfold writeByte
    split
    · rename_i h; simp [readByte, h]
    · simp [readByte]
  | cons c t ih =>
    obtain ⟨k, w⟩ := c
    have hlt := Memory.wf_lt hm
    unfold writeByte
    split
    · rename_i hak
      split
      · rename_i hv
        rw [hv]
        apply readByte_below
        intro d hd
        rcases List.mem_cons.mp hd with rfl | hd
        · exact hak
        · exact Nat.lt_trans hak (hlt d hd)
      · simp [readByte]
    · split
      · rename_i hk
        subst hk
        split
        · rename_i hv
          rw [hv]
          exact readByte_below hlt
        · simp [readByte]
      · rename_i h1 h2
        simp [readByte, Ne.symm h2, ih (Memory.wf_tail hm)]

/-- The addresses a write lists. -/
theorem mem_writeByte {m : List Host.Cell} {a : Nat} {v : Byte} {c : Host.Cell} (h : c ∈ writeByte m a v) :
    c.1 = a ∨ c ∈ m := by
  induction m with
  | nil =>
    unfold writeByte at h
    split at h
    · simp at h
    · left; simp at h; rw [h]
  | cons d t ih =>
    obtain ⟨k, w⟩ := d
    unfold writeByte at h
    split at h
    · split at h
      · right; exact h
      · rcases List.mem_cons.mp h with rfl | h
        · left; rfl
        · right; exact h
    · split at h
      · split at h
        · right; exact List.mem_cons_of_mem _ h
        · rcases List.mem_cons.mp h with rfl | h
          · left; rfl
          · right; exact List.mem_cons_of_mem _ h
      · rcases List.mem_cons.mp h with rfl | h
        · right; simp
        · rcases ih h with h | h
          · left; exact h
          · right; exact List.mem_cons_of_mem _ h

/-- A write of one byte keeps the canonical form. -/
theorem writeByte_wf {m : List Host.Cell} (hm : Memory.wf m = true) (a : Nat) (v : Byte) :
    Memory.wf (writeByte m a v) = true := by
  induction m with
  | nil =>
    unfold writeByte
    split
    · rfl
    · rename_i h; simpa [Memory.wf] using h
  | cons c t ih =>
    obtain ⟨k, w⟩ := c
    have hlt := Memory.wf_lt hm
    unfold writeByte
    split
    · rename_i hak
      split
      · exact hm
      · rename_i hv
        refine Memory.wf_cons hv ?_ hm
        intro d hd
        rcases List.mem_cons.mp hd with rfl | hd
        · exact hak
        · exact Nat.lt_trans hak (hlt d hd)
    · split
      · rename_i hk
        subst hk
        split
        · exact Memory.wf_tail hm
        · rename_i hv
          exact Memory.wf_cons hv hlt (Memory.wf_tail hm)
      · rename_i h1 h2
        refine Memory.wf_cons (Memory.wf_head hm) ?_ (ih (Memory.wf_tail hm))
        intro d hd
        rcases mem_writeByte hd with h | h
        · rw [h]; omega
        · exact hlt d h

/-! ## Lists of bytes -/

/-- A write of a list of bytes keeps the canonical form. -/
theorem writeBytes_wf {m : List Host.Cell} (hm : Memory.wf m = true) (a : Nat) (bs : List Byte) :
    Memory.wf (writeBytes m a bs) = true := by
  induction bs generalizing m a with
  | nil => exact hm
  | cons b bs ih => exact ih (writeByte_wf hm a b) (a + 1)

/-- A write of a quantity keeps the canonical form. -/
theorem writeNat_wf {m : List Host.Cell} (hm : Memory.wf m = true) (a n v : Nat) :
    Memory.wf (writeNat m a n v) = true := writeBytes_wf hm a _

/-- A write of a list of bytes is a write of its first part, then of the rest. -/
theorem writeBytes_split (m : List Host.Cell) (a n : Nat) (bs : List Byte) :
    writeBytes m a bs = writeBytes (writeBytes m a (bs.take n)) (a + n) (bs.drop n) := by
  induction n generalizing m a bs with
  | zero => rfl
  | succ n ih =>
    cases bs with
    | nil => rfl
    | cons b bs =>
      rw [writeBytes, ih, List.take_succ_cons, List.drop_succ_cons, writeBytes]
      congr 1
      omega

/-- A write of a list of bytes leaves every byte outside it alone. -/
theorem readByte_writeBytes_outside (m : List Host.Cell) (a b : Nat) (bs : List Byte)
    (h : ¬ (a ≤ b ∧ b < a + bs.length)) : readByte (writeBytes m a bs) b = readByte m b := by
  induction bs generalizing m a with
  | nil => rfl
  | cons x bs ih =>
    rw [List.length_cons] at h
    rw [writeBytes, ih (writeByte m a x) (a + 1) (by omega), readByte_writeByte_ne]
    omega

/-- A write of a quantity leaves every byte outside it alone. -/
theorem readByte_writeNat_outside (m : List Host.Cell) (a b n v : Nat) (h : ¬ (a ≤ b ∧ b < a + n)) :
    readByte (writeNat m a n v) b = readByte m b :=
  readByte_writeBytes_outside m a b _ (by simpa using h)

/-- A byte of a written list is read back. -/
theorem readByte_writeBytes_inside {m : List Host.Cell} (hm : Memory.wf m = true) (a k : Nat) (bs : List Byte)
    (h : k < bs.length) : readByte (writeBytes m a bs) (a + k) = bs[k] := by
  induction bs generalizing m a k with
  | nil => simp at h
  | cons x bs ih =>
    rw [writeBytes]
    cases k with
    | zero =>
      rw [readByte_writeBytes_outside _ _ _ _ (by omega)]
      exact readByte_writeByte_eq hm a x
    | succ k =>
      have h' : k < bs.length := by simpa using h
      have := ih (writeByte_wf hm a x) (a + 1) k h'
      rw [show a + (k + 1) = a + 1 + k by omega, this]
      rfl

/-- Reading back a written list. -/
theorem readBytes_writeBytes {m : List Host.Cell} (hm : Memory.wf m = true) (a : Nat) (bs : List Byte) :
    readBytes (writeBytes m a bs) a bs.length = bs := by
  have key : ∀ (n k : Nat), k + n = bs.length → readBytes (writeBytes m a bs) (a + k) n = bs.drop k := by
    intro n
    induction n with
    | zero => intro k hk; rw [readBytes, List.drop_of_length_le (by omega)]
    | succ n ih =>
      intro k hk
      have hlt : k < bs.length := by omega
      rw [readBytes, readByte_writeBytes_inside hm a k bs hlt, Nat.add_assoc, ih (k + 1) (by omega),
        ← List.drop_eq_getElem_cons hlt]
  simpa using key bs.length 0 (by omega)

/-- Reading back a written quantity. -/
theorem readNat_writeNat {m : List Host.Cell} (hm : Memory.wf m = true) (a n v : Nat) :
    readNat (writeNat m a n v) a n = v % 256 ^ n := by
  have := readBytes_writeBytes hm a (toBytes n v)
  rw [length_toBytes] at this
  rw [readNat, writeNat, this, ofBytes_toBytes]

/-- The bytes of a range read the same in two memories that agree on the range. -/
theorem readBytes_congr {m m' : List Host.Cell} {a n : Nat}
    (h : ∀ k, k < n → readByte m (a + k) = readByte m' (a + k)) : readBytes m a n = readBytes m' a n := by
  induction n generalizing a with
  | zero => rfl
  | succ n ih =>
    have h0 : readByte m a = readByte m' a := h 0 (by omega)
    rw [readBytes, readBytes, h0]
    congr 1
    apply ih
    intro k hk
    have := h (k + 1) (by omega)
    rwa [show a + (k + 1) = a + 1 + k by omega] at this

/-! ## Operations of the state -/

/-- The write buffer flushed keeps the canonical form. -/
theorem foldl_write_wf {m : List Host.Cell} (hm : Memory.wf m = true) (l : List StorePiece) :
    Memory.wf (l.foldl StorePiece.write m) = true := by
  induction l generalizing m with
  | nil => exact hm
  | cons p l ih => exact ih (writeBytes_wf hm p.addr p.data)

/-- A byte that no buffered store names reads after a flush as before. -/
theorem readByte_foldl_write (m : List Host.Cell) (l : List StorePiece) (a : Nat) (h : ∀ p ∈ l, ¬ p.names a) :
    readByte (l.foldl StorePiece.write m) a = readByte m a := by
  induction l generalizing m with
  | nil => rfl
  | cons p l ih =>
    rw [List.foldl_cons, ih _ (fun q hq => h q (by simp [hq]))]
    exact readByte_writeBytes_outside m p.addr a p.data (h p (by simp))

/-- The pieces of a store are the store: written one after another they leave memory as the store written at once does. -/
theorem foldl_storePieces (fuel a : Nat) (bs : List Byte) (m : List Host.Cell) (h : bs.length ≤ fuel) :
    (storePieces fuel a bs).foldl StorePiece.write m = writeBytes m a bs := by
  induction fuel generalizing a bs m with
  | zero => rw [List.length_eq_zero_iff.mp (by omega : bs.length = 0)]; rfl
  | succ fuel ih =>
    cases bs with
    | nil => rfl
    | cons b bs =>
      have hn : 0 < 16 - a % 16 := by omega
      rw [storePieces, List.foldl_cons, ih _ _ _ (by simp at h ⊢; omega)]
      exact (writeBytes_split m a (16 - a % 16) (b :: bs)).symm

/-- An aligned store of at most 128 bits is one piece: the unit reads all of it or nothing (20 R511). -/
theorem storePieces_aligned (n k : Nat) (bs : List Byte) (hn : n ∣ 16) (hl : bs.length = n) (h0 : bs ≠ []) :
    storePieces bs.length (k * n) bs = [{ addr := k * n, data := bs }] := by
  cases bs with
  | nil => exact absurd rfl h0
  | cons b bs =>
    have hle : (b :: bs).length ≤ 16 - k * n % 16 := by
      obtain ⟨d, hd⟩ := hn
      have hd0 : 0 < d := Nat.pos_of_ne_zero (by rintro rfl; omega)
      rw [hl, hd, Nat.mul_comm k n, Nat.mul_mod_mul_left]
      have : k % d + 1 ≤ d := Nat.mod_lt k hd0
      have := Nat.mul_le_mul_left n this
      rw [Nat.mul_add] at this
      omega
    rw [List.length_cons, storePieces, List.take_of_length_le hle, List.drop_of_length_le hle]
    cases bs.length <;> rfl

/-- A flush keeps the canonical form. -/
theorem State.flush_memoryForm {s : State} (h : s.memoryForm) : s.flush.memoryForm := foldl_write_wf h s.wbuf

/-- A flush stores what `keepsByte` says. -/
theorem State.flush_keeps (s : State) (a : Nat) : keepsByte s s.flush a :=
  ⟨fun h => readByte_foldl_write s.mem s.wbuf a (fun p hp hn => h ⟨p, hp, hn⟩),
    fun hm b ⟨l, r, p, h1, h2, h3, h4⟩ => by
      obtain ⟨hlt, hb⟩ := List.getElem?_eq_some_iff.1 h3
      simp only [State.flush, h1, List.foldl_append, List.foldl_cons]
      rw [readByte_foldl_write _ r a h4, ← hb]
      have := readByte_writeBytes_inside (foldl_write_wf hm l) p.addr (a - p.addr) p.data hlt
      rwa [show p.addr + (a - p.addr) = a by omega] at this⟩

/-- Bytes that read as after the flush are kept. -/
theorem keepsByte_of_flush {s t : State} {a : Nat} (h : readByte t.mem a = readByte s.flush.mem a) : keepsByte s t a :=
  ⟨fun n => h.trans ((s.flush_keeps a).1 n), fun m b l => h.trans ((s.flush_keeps a).2 m b l)⟩

/-- A write of the unit keeps the canonical form. -/
theorem State.memWrite_memoryForm {s : State} (h : s.memoryForm) (a n v : Nat) : (s.memWrite a n v).memoryForm :=
  writeNat_wf (State.flush_memoryForm h) a n v

/-- A device's write keeps the canonical form. -/
theorem State.memWriteBytes_memoryForm {s : State} (h : s.memoryForm) (a : Nat) (bs : List Byte) :
    (s.memWriteBytes a bs).memoryForm := writeBytes_wf (State.flush_memoryForm h) a bs

/-- A write of the unit changes, behind the write buffer, no byte outside it. -/
theorem State.memWrite_sameOutside (s : State) (a n v : Nat) : sameOutside s (s.memWrite a n v) a n := by
  intro b hb
  apply keepsByte_of_flush
  rw [State.memWrite_mem, readByte_writeNat_outside _ _ _ _ _ hb]

/-- A device's write changes, behind the write buffer, no byte outside it. -/
theorem State.memWriteBytes_sameOutside (s : State) (a : Nat) (bs : List Byte) :
    sameOutside s (s.memWriteBytes a bs) a bs.length := by
  intro b hb
  apply keepsByte_of_flush
  rw [State.memWriteBytes_mem, readByte_writeBytes_outside _ _ _ _ hb]

/-- A software store keeps the canonical form. -/
theorem State.softStore_memoryForm {s : State} (h : s.memoryForm) (a : Nat) (bs : List Byte) :
    (s.softStore a bs).memoryForm := by
  unfold State.softStore
  split
  · exact h
  · exact State.memWriteBytes_memoryForm h a bs

/-- The oldest piece of a buffered store reaching memory keeps the canonical form. -/
theorem State.drainStore_memoryForm {s : State} (h : s.memoryForm) : s.drainStore.memoryForm := by
  unfold State.drainStore
  split
  · exact h
  · exact writeBytes_wf h _ _

/-- The implicit flush of an invalidation keeps the canonical form. -/
theorem State.implicitFlush_memoryForm {s : State} (h : s.memoryForm) : s.implicitFlush.memoryForm := by
  unfold State.implicitFlush
  split
  · exact State.flush_memoryForm h
  · exact h

/-- The implicit flush is the flush of `flushed`. -/
theorem State.implicitFlush_flushed (s : State) : flushed s s.implicitFlush := by
  unfold State.implicitFlush flushed
  split
  · exact ⟨rfl, s.flush_keeps, State.flush_memoryForm⟩
  · exact ⟨rfl, rfl⟩

/-- Reset memory has the canonical form. -/
theorem State.reset_memoryForm : State.reset.memoryForm := rfl

end Sys2Proof.Machine
end

