-- ==== Sys2Proof/Laws/Effects.lean ====
section
/-! SUPPORT. What the shared operations do, said once: raising an event, observing and draining requests, the implicit
flush of an invalidation, running a descriptor, carrying the pending descriptors on, and submitting a register command. -/

namespace Sys2Proof.Machine

/-! ## Events -/

/-- Raising a quiet event moves its own registers and the trace, as `raised` says, and nothing else. -/
theorem State.raiseEvent_quiet (s : State) (e : EventName) (w : Bool) (h : s.quiet e) :
    ∃ r o, s.raiseEvent e w = { s.setEvRegs e r with out := o } ∧ raised s { s.setEvRegs e r with out := o } e w := by
  have put : ∀ (r : EventRegs) (x : State), (x.setEvRegs e r).evRegs e = r := by intro r x; cases e <;> rfl
  have same : s.setEvRegs e (s.evRegs e) = s := by cases e <;> cases s <;> rfl
  have trace : ∀ (r : EventRegs) (x : State), (x.setEvRegs e r).out = x.out := by intro r x; cases e <;> rfl
  have putOut : ∀ (r : EventRegs) (x : State) (o : List Out), ({ x.setEvRegs e r with out := o } : State).evRegs e = r := by
    intro r x o; cases e <;> rfl
  have writes : ∀ (r : EventRegs) (x : State), (x.setEvRegs e r).writable = x.writable := by intro r x; cases e <;> rfl
  simp only [State.raiseEvent, raised]
  cases w
  · by_cases hm : (s.evRegs e).im = true
    · refine ⟨{ s.evRegs e with ip := true }, s.out, ?_, ?_⟩
      · simp [hm]
        exact (by cases e <;> rfl)
      · simp [hm, putOut]
    · by_cases hh : s.choice.hold = true
      · refine ⟨{ s.evRegs e with ip := true }, s.out, ?_, ?_⟩
        · simp [hh]
          exact (by cases e <;> rfl)
        · simp [hh, putOut]
      · have hw : (!(s.evRegs e).isInterrupt && s.writable (s.evRegs e).msgAddr.toNat 4) = false := by
          have h' : (s.evRegs e).isInterrupt = true ∨ s.writable (s.evRegs e).msgAddr.toNat 4 = false := by
            simpa [State.quiet, hm] using h
          rcases h' with h' | h' <;> simp [h']
        refine ⟨{ s.evRegs e with ip := false }, .interrupt ((s.evRegs e).message e) :: s.out, ?_, ?_⟩
        · simp only [hm, hh, State.sendInterrupt, State.storeMessage, State.emit, put, writes]
          rw [if_neg (by simp), if_neg (by simp), if_neg (by intro hx; exact absurd (hw.symm.trans hx) (by simp))]
          rw [trace]
          rfl
        · simp [hm, hh, putOut]
  · exact ⟨s.evRegs e, s.out, by simp [same], by simp [putOut]⟩

/-- Whether an event is quiet depends on its registers, the platform and the choice only. -/
theorem State.quiet_congr (s t : State) (e : EventName) (h : t.evRegs e = s.evRegs e) (h2 : t.plat = s.plat)
    (h3 : t.choice = s.choice) (q : s.quiet e) : t.quiet e := by
  simp only [State.quiet, State.writable, h, h2, h3] at *
  exact q

/-- A queue error with the fault event quiet is what `queueError` says. -/
theorem State.raiseIqe_eq (s : State) (i : BitVec 4) (h : s.quiet .fault) : queueError s (s.raiseIqe i) i := by
  obtain ⟨r, o, e, p⟩ := State.raiseEvent_quiet
    ({ s with iqercd := s.detail { s.iqercd with iqei := if s.fsts.iqe then s.iqercd.iqei else i }
              fsts := { s.fsts with iqe := true } }) .fault s.faultStatusAny h
  simp only [queueError, State.raiseIqe, e]
  exact ⟨rfl, p⟩

/-! ## Counting -/

/-- Nothing counted. -/
theorem onlyCounted_refl (s : State) : onlyCounted s s := ⟨by cases s; rfl, rfl, [], rfl, by simp⟩

/-- Counting after counting is counting. -/
theorem onlyCounted_trans {s t u : State} (h : onlyCounted s t) (k : onlyCounted t u) : onlyCounted s u := by
  obtain ⟨h1, h2, l, h3, h4⟩ := h
  obtain ⟨k1, k2, m, k3, k4⟩ := k
  refine ⟨?_, k2.trans h2, m ++ l, by rw [k3, h3, List.append_assoc], ?_⟩
  · rw [k1, h1]
  · intro o ho
    rcases List.mem_append.1 ho with ho | ho
    · exact k4 o ho
    · exact h4 o ho

/-- Counting leaves the performance monitoring event as quiet as it was. -/
theorem onlyCounted_quiet {s t : State} (h : onlyCounted s t) (q : s.quiet .perf) : t.quiet .perf := by
  rw [h.1]
  exact q

/-- Only the counters' running fields change, and PIS. -/
theorem onlyCounted_perf (s : State) (p : Perf) (h : p.counters.map PerfCounter.setup = s.perf.counters.map PerfCounter.setup) :
    onlyCounted s { s with perf := p } := ⟨rfl, h, [], rfl, by simp⟩

/-- Raising the performance monitoring event while it is quiet. -/
theorem State.perfmonEvent_only (s : State) (q : s.quiet .perf) : onlyCounted s s.perfmonEvent := by
  obtain ⟨r, o, e, p⟩ := State.raiseEvent_quiet { s with perf := { s.perf with pis := true } } .perf s.perf.pis q
  simp only [State.perfmonEvent, e]
  change (if s.perf.pis = true then r = s.perfEv ∧ o = s.out
    else if s.perfEv.im = true ∨ s.choice.hold = true then r = { s.perfEv with ip := true } ∧ o = s.out
    else r = { s.perfEv with ip := false } ∧ o = .interrupt (s.perfEv.message .perf) :: s.out) at p
  by_cases hw : s.perf.pis = true
  · rw [if_pos hw] at p
    obtain ⟨rfl, rfl⟩ := p
    exact ⟨rfl, rfl, [], rfl, by simp⟩
  · rw [if_neg hw] at p
    by_cases hm : s.perfEv.im = true ∨ s.choice.hold = true
    · rw [if_pos hm] at p
      obtain ⟨rfl, rfl⟩ := p
      exact ⟨rfl, rfl, [], rfl, by simp⟩
    · rw [if_neg hm] at p
      obtain ⟨rfl, rfl⟩ := p
      exact ⟨rfl, rfl, [_], rfl, by simp [perfMessage, EventRegs.message]⟩

/-- Freezing every counter is counting. -/
theorem State.freezeAll_only (s : State) (b : Bool) : onlyCounted s (s.freezeAll b) :=
  onlyCounted_perf s _ (by simp [PerfCounter.setup, Function.comp_def])

/-- Putting a counter with the same setup is counting. -/
theorem State.setCounter_only (s : State) (k : Nat) (p q : PerfCounter) (h : s.perf.counters[k]? = some p)
    (e : q.setup = p.setup) : onlyCounted s (s.setCounter k q) := by
  refine onlyCounted_perf s _ ?_
  obtain ⟨hk, hp⟩ := List.getElem?_eq_some_iff.1 h
  simp only [List.map_set, e, ← hp]
  rw [← List.getElem_map (l := s.perf.counters) (f := PerfCounter.setup) (h := by simpa using hk)]
  exact List.set_getElem_self _

/-- One occurrence at one counter. -/
theorem State.countAt_only (s : State) (c : Occurrence) (k : Nat) (q : s.quiet .perf) : onlyCounted s (s.countAt c k) := by
  unfold State.countAt
  split
  · exact onlyCounted_refl s
  · rename_i p hp
    split
    · dsimp only
      have h1 := s.setCounter_only k p (p.bump c (s.caps.counterWidth k)) hp rfl
      have h2 := (s.setCounter k (p.bump c (s.caps.counterWidth k))).perfmonEvent_only (onlyCounted_quiet h1 q)
      split
      · split
        · exact onlyCounted_trans (onlyCounted_trans h1 h2) (State.freezeAll_only _ _)
        · exact onlyCounted_trans h1 (State.freezeAll_only _ _)
      · split
        · exact onlyCounted_trans h1 h2
        · exact h1
    · exact onlyCounted_refl s

/-- Occurrences at a list of counters. -/
theorem foldl_countAt_only (c : Occurrence) (l : List Nat) (s : State) (q : s.quiet .perf) :
    onlyCounted s (l.foldl (fun s k => s.countAt c k) s) := by
  induction l generalizing s with
  | nil => exact onlyCounted_refl s
  | cons k l ih =>
    have h := s.countAt_only c k q
    exact onlyCounted_trans h (ih _ (onlyCounted_quiet h q))

/-- One occurrence at every counter: with the performance monitoring event quiet, only counting happens. -/
theorem State.count_only (s : State) (c : Occurrence) (q : s.quiet .perf) : onlyCounted s (s.count c) := by
  unfold State.count
  split
  · exact foldl_countAt_only c _ s q
  · exact onlyCounted_refl s

/-- A list of occurrences. -/
theorem State.countAll_only (s : State) (l : List Occurrence) (q : s.quiet .perf) : onlyCounted s (s.countAll l) := by
  unfold State.countAll
  induction l generalizing s with
  | nil => exact onlyCounted_refl s
  | cons c l ih =>
    have h := s.count_only c q
    exact onlyCounted_trans h (ih _ (onlyCounted_quiet h q))

/-! ## Observed requests -/

/-- Committing a request is what `observed` says. -/
theorem State.commit_observed (s : State) (f : Forwarded) : observed s (s.commit f) f := by
  have len (src : Nat → BitVec 8) (n : Nat) : (((List.range n).map (fun k => src (s.freeCtr + k)))).length = n := by simp
  unfold observed State.commit
  cases ha : f.req.access <;> cases hm : rangeIsMemory s.plat f.hpa.toNat f.req.len <;>
    simp only [State.emit_plat, hm, if_true, if_false, Bool.false_eq_true]
  case write.true =>
    exact ⟨rfl, fun h => ⟨State.memWriteBytes_memoryForm (s := s.emit (.forward f)) h _ _,
      readBytes_writeBytes (State.flush_memoryForm (s := s) h) _ _⟩,
      State.memWriteBytes_sameOutside (s.emit (.forward f)) _ _⟩
  case atomic.true =>
    exact ⟨rfl, fun h => ⟨State.memWrite_memoryForm (s := s.emit (.forward f)) h _ _ _,
      readNat_writeNat (State.flush_memoryForm (s := s) h) _ _ _⟩,
      State.memWrite_sameOutside (s.emit (.forward f)) _ _ _⟩
  all_goals first | rfl | exact ⟨_, len _ _, rfl⟩

/-- Committing a list of requests, oldest first, is what `observedAll` says. -/
theorem foldl_commit_observed (l : List Forwarded) (s : State) :
    observedAll l s (l.foldl (fun (t : State) f => t.commit f) s) := by
  induction l generalizing s with
  | nil => rfl
  | cons f l ih => exact ⟨s.commit f, s.commit_observed f, ih _⟩

/-- A drain takes the requests it selects to their destinations, and leaves the others in flight. -/
theorem State.drainWhere_observed (s : State) (p : Forwarded → Bool) :
    observedAll (s.inFlight.filter p) { s with inFlight := s.inFlight.filter (fun f => !p f) } (s.drainWhere p) :=
  foldl_commit_observed _ _

/-- A forwarded request goes on as `passedOn` says. -/
theorem State.forward_passedOn (s : State) (f : Forwarded) : passedOn s (s.forward f) f := by
  unfold passedOn State.forward
  split
  · rfl
  · have h := foldl_commit_observed (s.inFlight.filter (postedBy f.req.sid) ++ [f])
      { s with inFlight := s.inFlight.filter (fun g => !postedBy f.req.sid g) }
    rwa [List.foldl_append] at h

/-- Requests observed one after another change memory, the write buffer, the trace and the free-value counter. -/
theorem observed_frame {v t : State} {f : Forwarded} (h : observed v t f) :
    t = { v with mem := t.mem, wbuf := t.wbuf, out := t.out, freeCtr := t.freeCtr } := by
  unfold observed at h
  split at h
  · rw [h.1]
  · rw [h]
  · rw [h]
  · rw [h.1]
  all_goals
    obtain ⟨_, _, h⟩ := h
    rw [h]

/-- The same of a list of requests. -/
theorem observedAll_frame {v t : State} {l : List Forwarded} (h : observedAll l v t) :
    t = { v with mem := t.mem, wbuf := t.wbuf, out := t.out, freeCtr := t.freeCtr } := by
  induction l generalizing v with
  | nil => rw [show t = v from h]
  | cons f l ih =>
    obtain ⟨w, hw, hr⟩ := h
    have h1 := observed_frame hw
    have h2 := ih hr
    rw [h1] at h2
    exact h2

/-! ## The invalidation queue -/

/-- The implicit flush of an invalidation, on a state with the head moved. -/
theorem State.implicitFlush_eq (s : State) (iq : Iq) :
    ∃ m b, ({ s with iq := iq } : State).implicitFlush = { s with iq := iq, mem := m, wbuf := b } ∧
      ∀ t : State, t.mem = m → t.wbuf = b → flushed s t := by
  have h := ({ s with iq := iq } : State).implicitFlush_flushed
  refine ⟨({ s with iq := iq } : State).implicitFlush.mem, ({ s with iq := iq } : State).implicitFlush.wbuf, ?_, ?_⟩
  · unfold State.implicitFlush
    split <;> rfl
  · intro t h1 h2
    unfold flushed at h ⊢
    simp only [State.memoryForm, keepsByte] at h ⊢
    rw [h1, h2]
    exact h

/-- The head of the queue as the unit uses it, as a number. -/
theorem Iq.head_toNat (s : State) : s.iq.head.toNat = s.headUnit := by
  unfold Iq.head State.headUnit clearLow
  split
  · simp only [BitVec.toNat_shiftLeft, BitVec.toNat_ushiftRight, Nat.shiftLeft_eq, Nat.shiftRight_eq_div_pow]
    have := s.iq.qh.isLt
    omega
  · rfl

/-! ## The unit's choices among candidates -/

/-- What the unit takes is one of the candidates. -/
theorem Choice.among_mem {α : Type} (c : Choice) (l : List α) (x : α) (h : c.among l = some x) : x ∈ l :=
  List.mem_of_getElem? h

/-- The unit takes none only where there is none. -/
theorem Choice.among_none {α : Type} (c : Choice) (l : List α) : c.among l = none ↔ l = [] := by
  cases l with
  | nil => simp [Choice.among]
  | cons x t =>
    simpa [Choice.among] using Nat.le_of_lt_succ (Nat.mod_lt c.pick (Nat.succ_pos t.length))

/-- The free ITags are the numbers below NUM_ITAG and 32 that no invalidation in progress has. -/
theorem State.mem_freeTags (s : State) (k : Nat) :
    k ∈ s.freeTags ↔ k < s.plat.numItag ∧ k < 32 ∧ ∀ x ∈ s.itags, x.tag ≠ k := by
  simp [State.freeTags, and_assoc]

/-- A descriptor that passes its checks runs with the head moved past it. -/
theorem State.runDsc_valid (s : State) (ty : Nat) (r : Bool) (act : State → State) (h1 : dscTypeValid s ty = true)
    (h2 : r = false) : s.runDsc ty r act = act { s with iq := s.movedHead } := by
  simp [State.runDsc, h1, h2, State.advanceHead, State.movedHead, Iq.head_toNat]

/-- Pending Device-TLB invalidations that are sent stay as they are. -/
theorem advancePend_sent (s : State) (k l : List Pending) (h : ∀ p ∈ l, p.isSent = true) :
    advancePend s k l = (s, k ++ l) := by
  induction l generalizing k with
  | nil => simp [advancePend]
  | cons p t ih => cases p <;> simp_all [Pending.isSent, advancePend]

/-- The pass over the pending descriptors goes past those that are sent. -/
theorem advancePend_append (s : State) (k l m : List Pending) (h : ∀ p ∈ l, p.isSent = true) :
    advancePend s k (l ++ m) = advancePend s (k ++ l) m := by
  induction l generalizing k with
  | nil => simp
  | cons p t ih => cases p <;> simp_all [Pending.isSent, advancePend]

/-- A wait with nothing ahead of it and no time-out pending completes. -/
theorem State.pend_wait (s : State) (iflag sw fn pd : Bool) (data : BitVec 32) (saddr : BitVec 62)
    (h1 : s.iqPend = []) (h2 : s.fsts.ite = false) :
    s.pend (.wait iflag sw fn pd data saddr) =
      { State.completeWait { s with iqPend := [.wait iflag sw fn pd data saddr] } iflag sw data saddr with
        iqPend := [] } := by
  simp [State.pend, State.advance, h1, advancePend, h2]

/-- The status address of a wait descriptor is its 62-bit field times four. -/
theorem statusAddr_eq (saddr : BitVec 62) : statusAddr saddr = 4 * saddr.toNat := by
  unfold statusAddr
  rw [BitVec.toNat_append]
  simp only [Nat.shiftLeft_eq, BitVec.toNat_ofNat, Nat.zero_mod, Nat.or_zero]
  omega

/-- Taking an element out of a list leaves the others. -/
theorem takeAt_perm {α : Type} (l : List α) (n : Nat) (h : n < l.length) :
    ∃ p r, takeAt l n = some (p, r) ∧ l.Perm (p :: r) := by
  induction l generalizing n with
  | nil => simp at h
  | cons x t ih =>
    cases n with
    | zero => exact ⟨x, t, rfl, .refl _⟩
    | succ n =>
      obtain ⟨p, r, e, q⟩ := ih n (by simpa using h)
      exact ⟨p, x :: r, by simp [takeAt, e], (q.cons x).trans (.swap _ _ _)⟩

/-! ## Register commands -/

/-- What is submitted, while the choice defers it, waits with the pointer registers as they stand, and nothing else happens. -/
theorem State.submitAny_deferred {s : State} (h : s.choice.defer = true) (c : Submitted) : s.submitAny c = s.pendedAny c := by
  simp [State.submitAny, State.pendedAny, h]

/-- What is submitted and not deferred completes, with the pointer registers as they stand. -/
theorem State.submitAny_atOnce {s : State} (h : s.atOnce) (c : Submitted) :
    s.submitAny c = finishCmd { cmd := c, root := s.rtaddr, irt := s.irta } s := by
  have h' : s.choice.defer = false := h
  simp [State.submitAny, h']

end Sys2Proof.Machine
end

