-- ==== Sys2Proof/Machine/Acpi.lean ====
section
/-! DEFINITION. What platform firmware reports of the remapping units (47_acpi_reporting.md R1270 to R1310): the bytes of the
DMAR table as structures, the rules firmware owes them, the source-id a device scope names, the unit whose scope holds a device,
the platform parameters a table gives, and the method that reports hot-added units. The unit never reads these tables; system
software does. -/

namespace Sys2Proof.Machine.Acpi

/-! ## Bytes -/

/-- The little-endian field of `n` bytes at an offset of a structure. -/
def fieldAt (bs : List Byte) (off n : Nat) : Nat := ofBytes ((bs.drop off).take n)

/-- The same field as bits. -/
def bitsAt (w : Nat) (bs : List Byte) (off n : Nat) : BitVec w := BitVec.ofNat w (fieldAt bs off n)

/-! ## Device scope (R1281) -/

/-- The Type of a device scope entry (R1281): 01h to 05h, or a reserved one. -/
inductive ScopeKind where
  | endpoint | subHierarchy | ioapic | hpet | namespaceDevice
  | reserved (code : Nat)
deriving DecidableEq, Repr

/-- A {Device, Function} pair of a Path. -/
structure Hop where
  dev : BitVec 8
  fn : BitVec 8
deriving DecidableEq, Repr

/-- A Device Scope Entry (R1281). -/
structure ScopeEntry where
  kind : ScopeKind
  flags : BitVec 8
  reserved : BitVec 8
  enumId : BitVec 8
  startBus : BitVec 8
  path : List Hop
deriving DecidableEq, Repr

/-- REQ_WO_PASID_NESTED_NOTALLOWED: no PGTT=011b for RID_PASID (R1281, R1300). -/
def ScopeEntry.nestedNotAllowed (e : ScopeEntry) : Bool := bitAt e.flags 0
/-- REQ_WO_PASID_PWSNP_NOTALLOWED: no PWSNP=1 for RID_PASID. -/
def ScopeEntry.pwsnpNotAllowed (e : ScopeEntry) : Bool := bitAt e.flags 1
/-- REQ_WO_PASID_PGSNP_NOTALLOWED: no PGSNP=1 and no SNP=1 for RID_PASID. -/
def ScopeEntry.pgsnpNotAllowed (e : ScopeEntry) : Bool := bitAt e.flags 2
/-- ATC_HARDENED: the device's address translation cache is validated. -/
def ScopeEntry.atcHardened (e : ScopeEntry) : Bool := bitAt e.flags 3
/-- ATC_REQUIRED: the device needs its address translation cache enabled. -/
def ScopeEntry.atcRequired (e : ScopeEntry) : Bool := bitAt e.flags 4

/-- The Type codes 01h to 05h; others are reserved. -/
def scopeKind : Nat → ScopeKind
  | 1 => .endpoint
  | 2 => .subHierarchy
  | 3 => .ioapic
  | 4 => .hpet
  | 5 => .namespaceDevice
  | n => .reserved n

/-- The entry has a reserved Type. -/
def ScopeEntry.unknown (e : ScopeEntry) : Bool :=
  match e.kind with
  | .reserved _ => true
  | _ => false

/-- The entry names a PCI endpoint device or a PCI sub-hierarchy. -/
def ScopeEntry.isPci (e : ScopeEntry) : Bool := e.kind == .endpoint || e.kind == .subHierarchy

/-- The {Device, Function} pairs of a Path field. -/
def readPath : List Byte → List Hop
  | d :: f :: rest => ⟨d, f⟩ :: readPath rest
  | _ => []

/-- The device scope entries in a run of bytes: each is skipped by its Length; an entry too short for its fields or longer than
the bytes left is no entry. -/
def readScopes : Nat → List Byte → Option (List ScopeEntry)
  | _, [] => some []
  | 0, _ :: _ => none
  | fuel + 1, bs =>
    let len := fieldAt bs 1 1
    if len < 8 || bs.length < len || len % 2 != 0 then none
    else
      match readScopes fuel (bs.drop len) with
      | none => none
      | some rest =>
        some ({ kind := scopeKind (fieldAt bs 0 1), flags := bitsAt 8 bs 2 1, reserved := bitsAt 8 bs 3 1,
                enumId := bitsAt 8 bs 4 1, startBus := bitsAt 8 bs 5 1, path := readPath ((bs.take len).drop 6) } :: rest)

/-- The source-id {bus, dev, func} a path names (R1281): each further pair stands on the secondary bus of the bridge before it,
which `secondary` reads from its configuration space. -/
def resolvePath (secondary : BitVec 8 → Hop → BitVec 8) : BitVec 8 → List Hop → Option SourceId
  | _, [] => none
  | bus, [h] => some (bus ++ field h.dev 0 5 ++ field h.fn 0 3)
  | bus, h :: rest => resolvePath secondary (secondary bus h) rest

/-- The Start Bus and the Path of the entry are the two halves of a source-id the platform allocates, not a PCI path: Types 04h
and 05h (R1281). -/
def ScopeEntry.isAllocated (e : ScopeEntry) : Bool := e.kind == .hpet || e.kind == .namespaceDevice

/-- The source-id of a device scope entry (R1281, R1282). An entry of a reserved Type names none, nor does one of Type 04h or 05h
whose Path is not the one pair that holds the lower 8 bits. -/
def ScopeEntry.sourceId (secondary : BitVec 8 → Hop → BitVec 8) (e : ScopeEntry) : Option SourceId :=
  if e.unknown || (e.isAllocated && e.path.length != 1) then none else resolvePath secondary e.startBus e.path

/-! ## The remapping structures (R1272, R1280, R1290 to R1300) -/

/-- DMA Remapping Hardware Unit Definition (R1280). -/
structure Drhd where
  flags : BitVec 8
  sizeByte : BitVec 8
  segment : BitVec 16
  base : BitVec 64
  scopes : List ScopeEntry
deriving DecidableEq, Repr

/-- INCLUDE_PCI_ALL (R1280). -/
def Drhd.includeAll (d : Drhd) : Bool := bitAt d.flags 0

/-- Size: the register set is 2^N pages (R1280). -/
def Drhd.size (d : Drhd) : Nat := (field d.sizeByte 0 4).toNat

/-- Reserved Memory Region Reporting (R1290). -/
structure Rmrr where
  reserved : BitVec 16
  segment : BitVec 16
  base : BitVec 64
  limit : BitVec 64
  scopes : List ScopeEntry
deriving DecidableEq, Repr

/-- A structure that names devices of a segment under one flag: ATSR (R1292: ALL_PORTS), SATC (R1298: ATC_REQUIRED), SIDP
(R1300: no flag, the byte is reserved). -/
structure DeviceList where
  flags : BitVec 8
  reserved : BitVec 8
  segment : BitVec 16
  scopes : List ScopeEntry
deriving DecidableEq, Repr

/-- The flag of the structure: bit 0. -/
def DeviceList.flag (l : DeviceList) : Bool := bitAt l.flags 0

/-- Remapping Hardware Static Affinity (R1294). -/
structure Rhsa where
  reserved : BitVec 32
  base : BitVec 64
  proximity : BitVec 32
deriving DecidableEq, Repr

/-- ACPI Name-space Device Declaration (R1296); the name without its null. -/
structure Andd where
  reserved : BitVec 24
  number : BitVec 8
  name : List Byte
deriving DecidableEq, Repr

/-- A remapping structure (R1272); software skips one of a type above 6. -/
inductive Structure where
  | drhd (d : Drhd)
  | rmrr (r : Rmrr)
  | atsr (l : DeviceList)
  | rhsa (r : Rhsa)
  | andd (a : Andd)
  | satc (l : DeviceList)
  | sidp (l : DeviceList)
  | unknown (type : Nat)
deriving DecidableEq, Repr

/-- The device scopes from an offset of a structure on. -/
def scopesFrom (bs : List Byte) (off : Nat) : Option (List ScopeEntry) := readScopes bs.length (bs.drop off)

/-- A structure whose device scopes stand at offset 8, after flags and segment (R1292, R1298, R1300). -/
def readDeviceList (bs : List Byte) : Option DeviceList :=
  (scopesFrom bs 8).map (fun l =>
    { flags := bitsAt 8 bs 4 1, reserved := bitsAt 8 bs 5 1, segment := bitsAt 16 bs 6 2, scopes := l })

/-- A remapping structure of a type from its bytes, its Type and Length included; none if it is shorter than its fields or its
name has no null. -/
def readStructure (type : Nat) (bs : List Byte) : Option Structure :=
  match type with
  | 0 =>
    if bs.length < 16 then none
    else (scopesFrom bs 16).map (fun l => .drhd { flags := bitsAt 8 bs 4 1, sizeByte := bitsAt 8 bs 5 1,
                                                   segment := bitsAt 16 bs 6 2, base := bitsAt 64 bs 8 8, scopes := l })
  | 1 =>
    if bs.length < 24 then none
    else (scopesFrom bs 24).map (fun l => .rmrr { reserved := bitsAt 16 bs 4 2, segment := bitsAt 16 bs 6 2,
                                                   base := bitsAt 64 bs 8 8, limit := bitsAt 64 bs 16 8, scopes := l })
  | 2 => if bs.length < 8 then none else (readDeviceList bs).map .atsr
  | 3 =>
    if bs.length = 20 then
      some (.rhsa { reserved := bitsAt 32 bs 4 4, base := bitsAt 64 bs 8 8, proximity := bitsAt 32 bs 16 4 })
    else none
  | 4 =>
    if bs.length < 8 || !(bs.drop 8).contains 0 then none
    else some (.andd { reserved := bitsAt 24 bs 4 3, number := bitsAt 8 bs 7 1, name := (bs.drop 8).takeWhile (· != 0) })
  | 5 => if bs.length < 8 then none else (readDeviceList bs).map .satc
  | 6 => if bs.length < 8 then none else (readDeviceList bs).map .sidp
  | n => some (.unknown n)

/-- The remapping structures of a run of bytes (R1272): two bytes Type, two bytes Length, which skips to the next. -/
def readStructures : Nat → List Byte → Option (List Structure)
  | _, [] => some []
  | 0, _ :: _ => none
  | fuel + 1, bs =>
    let len := fieldAt bs 2 2
    if len < 4 || bs.length < len then none
    else
      match readStructure (fieldAt bs 0 2) (bs.take len), readStructures fuel (bs.drop len) with
      | some x, some rest => some (x :: rest)
      | _, _ => none

/-! ## The table (R1271) -/

/-- The DMAR table: HAW is the field value plus 1; Signature, Length, Revision and Checksum are what `readTable` checks. -/
structure Table where
  oemId : List Byte
  oemTableId : List Byte
  oemRevision : BitVec 32
  creatorId : BitVec 32
  creatorRevision : BitVec 32
  haw : Nat
  flags : BitVec 8
  reserved : BitVec 80
  structures : List Structure
deriving DecidableEq, Repr

/-- INTR_REMAP: the platform supports interrupt remapping. -/
def Table.intrRemap (t : Table) : Bool := bitAt t.flags 0
/-- X2APIC_OPT_OUT: software is asked to stay out of X2APIC mode; valid only with INTR_REMAP. -/
def Table.x2apicOptOut (t : Table) : Bool := t.intrRemap && bitAt t.flags 1
/-- DMA_CTRL_PLATFORM_OPT_IN_FLAG: the platform's own DMA is restricted to the regions of RMRR structures. -/
def Table.dmaCtrlOptIn (t : Table) : Bool := bitAt t.flags 2

/-- Why a run of bytes is no DMAR table. -/
inductive TableError where
  | signature | length | revision | checksum | structures
deriving DecidableEq, Repr

/-- "DMAR" (R1271). -/
def signature : List Byte := [0x44, 0x4D, 0x41, 0x52]

/-- "Entire table must sum to zero": the sum of the bytes modulo 256 (R1271). -/
def checksum (bs : List Byte) : BitVec 8 := bs.foldl (· + ·) 0

/-- The DMAR table in a run of bytes (R1271). -/
def readTable (bs : List Byte) : Except TableError Table :=
  let len := fieldAt bs 4 4
  if bs.take 4 != signature then .error .signature
  else if len < 48 || bs.length < len then .error .length
  else if fieldAt bs 8 1 != 1 then .error .revision
  else if checksum (bs.take len) != 0 then .error .checksum
  else
    match readStructures len ((bs.take len).drop 48) with
    | none => .error .structures
    | some l => .ok { oemId := (bs.drop 10).take 6, oemTableId := (bs.drop 16).take 8, oemRevision := bitsAt 32 bs 24 4,
                      creatorId := bitsAt 32 bs 28 4, creatorRevision := bitsAt 32 bs 32 4, haw := fieldAt bs 36 1 + 1,
                      flags := bitsAt 8 bs 37 1, reserved := bitsAt 80 bs 38 10, structures := l }

/-- The type number of a structure (R1272). -/
def Structure.type : Structure → Nat
  | .drhd _ => 0
  | .rmrr _ => 1
  | .atsr _ => 2
  | .rhsa _ => 3
  | .andd _ => 4
  | .satc _ => 5
  | .sidp _ => 6
  | .unknown n => n

/-- The DRHD structures of a table, in its order. -/
def Table.units (t : Table) : List Drhd :=
  t.structures.filterMap (fun x => match x with
    | .drhd d => some d
    | _ => none)

/-! ## What firmware owes the table -/

/-- Types in numerical order (R1272). -/
def ordered : List Nat → Bool
  | a :: b :: rest => decide (a ≤ b) && ordered (b :: rest)
  | _ => true

/-- The bytes of a register set: 2^N pages of 4 KBytes (R1280). -/
def Drhd.bytes (d : Drhd) : Nat := 2 ^ d.size * 4096

/-- The rules of a device scope entry by itself (R1281): no reserved Type; reserved bits 0, which the Flags are but for those of
an endpoint or name-space device in an SIDP structure, and the Enumeration ID but for an I/OxAPIC, HPET or name-space device; a
Path of one pair where it is the lower half of a source-id. -/
def ScopeEntry.ok (inSidp : Bool) (e : ScopeEntry) : Bool :=
  !e.unknown && e.reserved == 0 && field e.flags 5 3 == 0 &&
  (e.flags == 0 || (inSidp && (e.kind == .endpoint || e.kind == .namespaceDevice))) && (e.enumId == 0 || !e.isPci) &&
  (!e.isAllocated || e.path.length == 1)

/-- The device scope entries of a structure. -/
def Structure.scopes : Structure → List ScopeEntry
  | .drhd d => d.scopes
  | .rmrr r => r.scopes
  | .atsr l | .satc l | .sidp l => l.scopes
  | .rhsa _ | .andd _ | .unknown _ => []

/-- The PCI segment of a structure that names one. -/
def Structure.segment : Structure → Option (BitVec 16)
  | .drhd d => some d.segment
  | .rmrr r => some r.segment
  | .atsr l | .satc l | .sidp l => some l.segment
  | .rhsa _ | .andd _ | .unknown _ => none

/-- "All Reserved fields in DMAR remapping structures must be initialized to 0", but for those of the device scopes. -/
def Structure.reservedClear : Structure → Bool
  | .drhd d => field d.flags 1 7 == 0 && field d.sizeByte 4 4 == 0
  | .rmrr r => r.reserved == 0
  | .atsr l | .satc l => field l.flags 1 7 == 0 && l.reserved == 0
  | .rhsa r => r.reserved == 0
  | .andd a => a.reserved == 0
  | .sidp l => l.flags == 0 && l.reserved == 0
  | .unknown _ => true

/-- One unit's rules (R1280, R1281): the base aligned to the size; no endpoint and no sub-hierarchy under INCLUDE_PCI_ALL. -/
def Drhd.ok (d : Drhd) : Bool := d.base.toNat % d.bytes == 0 && (!d.includeAll || d.scopes.all (fun e => !e.isPci))

/-- The unit has the device of a scope entry of a segment under its scope, as far as the table says (R1280, R1281): it names the
device, or a bridge on the device's path, or it includes all PCI devices of the segment. -/
def Drhd.reports (d : Drhd) (segment : BitVec 16) (e : ScopeEntry) : Bool :=
  d.segment == segment && ((d.includeAll && e.isPci) || d.scopes.any (fun x =>
    x.startBus == e.startBus && (x.path == e.path || (x.kind == .subHierarchy && x.path.isPrefixOf e.path))))

/-- A unit with INCLUDE_PCI_ALL comes after all others of its segment (R1280). -/
def allLast : List Drhd → Bool
  | [] => true
  | d :: rest => (!d.includeAll || rest.all (fun e => e.segment != d.segment)) && allLast rest

/-- The rules of one structure (R1290 to R1300). -/
def Structure.ok (t : Table) : Structure → Bool
  | .drhd d => d.ok
  | .rmrr r =>
    r.base.toNat % 4096 == 0 && decide (r.base.toNat < r.limit.toNat) && (r.limit.toNat + 1) % 4096 == 0 &&
    !r.scopes.isEmpty && r.scopes.all (fun e => t.units.any (fun u => u.reports r.segment e))
  | .atsr l => if l.flag then l.scopes.isEmpty else l.scopes.all (fun e => e.kind == .subHierarchy)
  | .rhsa r => t.units.any (fun d => d.base == r.base)
  | .andd a =>
    a.name.all (fun b => b.toNat < 128) &&
    t.units.any (fun u => u.scopes.any (fun e => e.kind == .namespaceDevice && e.enumId == a.number))
  | .satc l => l.scopes.all (fun e => e.kind == .endpoint && e.path.length == 1)
  | .sidp l => l.scopes.all (fun e => (e.kind == .endpoint || e.kind == .namespaceDevice) && e.path.length == 1)
  | .unknown _ => true

/-- The bases the RHSA structures name (R1294). -/
def Table.affinities (t : Table) : List (BitVec 64) :=
  t.structures.filterMap (fun x => match x with
    | .rhsa r => some r.base
    | _ => none)

/-- The ACPI Device Numbers of the ANDD structures (R1296). -/
def Table.acpiNumbers (t : Table) : List (BitVec 8) :=
  t.structures.filterMap (fun x => match x with
    | .andd a => some a.number
    | _ => none)

/-- The ACPI names of the ANDD structures (R1296). -/
def Table.acpiNames (t : Table) : List (List Byte) :=
  t.structures.filterMap (fun x => match x with
    | .andd a => some a.name
    | _ => none)

/-- The segment and flags of the SATC structures (R1298). -/
def Table.satcKeys (t : Table) : List (BitVec 16 × BitVec 8) :=
  t.structures.filterMap (fun x => match x with
    | .satc l => some (l.segment, l.flags)
    | _ => none)

/-- The device scope entries of a structure follow the rules: each by itself, and one of a name-space device names an ANDD
structure by its Enumeration ID (R1281, R1296). -/
def Structure.scopesOk (t : Table) (x : Structure) : Bool :=
  x.scopes.all (fun e => e.ok (x.type == 6) && (e.kind != .namespaceDevice || t.acpiNumbers.contains e.enumId))

/-- The rules that hold between structures: when there is one RHSA there is one for every unit (R1294), ACPI Device Numbers are
unique and no two ANDD structures declare one device (R1296), and devices of one segment with the same Flags stand in one SATC
(R1298). -/
def Table.relationsOk (t : Table) : Bool :=
  (t.affinities.isEmpty || t.units.all (fun d => t.affinities.contains d.base)) && decide t.acpiNumbers.Nodup && decide t.acpiNames.Nodup &&
  decide t.satcKeys.Nodup

/-- The table reports a unit for a PCI segment (R1280). -/
def Table.hasUnitFor (t : Table) (segment : BitVec 16) : Bool := t.units.any (fun d => d.segment == segment)

/-- The rules of the units together (R1280): at least one; one for each segment that a structure names; no two structures for one
unit, which its register base identifies; INCLUDE_PCI_ALL last. -/
def Table.unitsOk (t : Table) : Bool :=
  !t.units.isEmpty && (t.structures.filterMap Structure.segment).all t.hasUnitFor && decide (t.units.map Drhd.base).Nodup &&
  allLast t.units

/-- A table that follows the rules of 47_acpi_reporting.md, as far as the table itself shows. -/
def Table.ok (t : Table) : Bool :=
  field t.flags 3 5 == 0 && t.reserved == 0 && t.unitsOk && ordered (t.structures.map Structure.type) &&
  t.structures.all (fun x => x.ok t && x.reservedClear && x.scopesOk t) && t.relationsOk

/-! ## Which devices may use ATS (R1292, R1298) -/

/-- The ATSR structures of a table. -/
def Table.atsrs (t : Table) : List DeviceList :=
  t.structures.filterMap (fun x => match x with
    | .atsr l => some l
    | _ => none)

/-- The SATC structures of a table. -/
def Table.satcs (t : Table) : List DeviceList :=
  t.structures.filterMap (fun x => match x with
    | .satc l => some l
    | _ => none)

/-- A structure names the function with a source-id in its device scope. -/
def DeviceList.names (secondary : BitVec 8 → Hop → BitVec 8) (l : DeviceList) (sid : SourceId) : Bool :=
  l.scopes.any (fun e => e.sourceId secondary == some sid)

/-- The Root Port is reported as supporting ATS transactions: with ALL_PORTS all of the segment are, else those the Device Scope
identifies (R1292). -/
def Table.atsPort (secondary : BitVec 8 → Hop → BitVec 8) (t : Table) (segment : BitVec 16) (port : SourceId) : Bool :=
  t.atsrs.any (fun l => l.segment == segment && (l.flag || l.names secondary port))

/-- The integrated device is reported as one with an address translation cache that is validated (R1298). -/
def Table.atsIntegrated (secondary : BitVec 8 → Hop → BitVec 8) (t : Table) (segment : BitVec 16) (sid : SourceId) : Bool :=
  t.satcs.any (fun l => l.segment == segment && l.names secondary sid)

/-! ## What firmware owes the platform (R1280 to R1282, R1292, R1298) -/

/-- A PCI Express Root Port, and whether it supports ATS transactions (R1292). -/
structure RootPort where
  segment : BitVec 16
  sid : SourceId
  ats : Bool
deriving DecidableEq, Repr

/-- A SoC integrated device that enumerates the ATS capability: its segment and source-id, a physical function's where it is
SR-IOV (R1298). -/
structure AtsDevice where
  segment : BitVec 16
  sid : SourceId
deriving DecidableEq, Repr

/-- An I/OxAPIC reported through the ACPI MADT: its APIC ID, and its requester-id at boot if it is PCI-discoverable (R1282). -/
structure IoApic where
  id : BitVec 8
  requester : Option SourceId
deriving DecidableEq, Repr

/-- An HPET Timer Block: its HPET Number, and whether each of its Timers reports FSB_INTERRUPT_DELIVERY capability (R1281). -/
structure Hpet where
  number : BitVec 8
  timers : List Bool
deriving DecidableEq, Repr

/-- "capable of MSI interrupt generation if any of the Timers in the Timer Block reports FSB_INTERRUPT_DELIVERY capability". -/
def Hpet.msi (h : Hpet) : Bool := h.timers.any (fun x => x)

/-- The platform as firmware finds it: its PCI segments, I/OxAPICs, HPET Timer Blocks, the ACPI names of the name-space devices
that issue DMA or MSI requests, the segments that support Device-TLBs behind Root Ports (log 46), the Root Ports, and the
integrated devices with ATS (R1280 to R1282, R1292, R1296, R1298). -/
structure Hardware where
  segments : List (BitVec 16)
  ioApics : List IoApic
  hpets : List Hpet
  namespaceDevices : List (List Byte)
  deviceTlbs : List (BitVec 16)
  rootPorts : List RootPort
  atsDevices : List AtsDevice
deriving DecidableEq, Repr

/-- The device scope entries of one Type and Enumeration ID under the units of a table. -/
def Table.enumerated (t : Table) (kind : ScopeKind) (id : BitVec 8) : List ScopeEntry :=
  t.units.flatMap (fun u => u.scopes.filter (fun e => e.kind == kind && e.enumId == id))

/-- The I/OxAPIC is enumerated under a unit, INCLUDE_PCI_ALL or not (R1282). -/
def IoApic.listed (t : Table) (a : IoApic) : Bool := !(t.enumerated .ioapic a.id).isEmpty

/-- The Timer Block is enumerated under a unit if it is MSI-capable (R1282). -/
def Hpet.listed (t : Table) (h : Hpet) : Bool := !h.msi || !(t.enumerated .hpet h.number).isEmpty

/-- What the Enumeration ID of a device scope entry names is on the platform (R1281): an I/OxAPIC of the MADT, whose source-id is
its requester-id if it is PCI-discoverable (R1282); an MSI-capable Timer Block, for one that is routed through an I/OxAPIC is "not
reported in the Device Scope". That of a name-space device names an ANDD structure (`Structure.scopesOk`). -/
def Hardware.has (secondary : BitVec 8 → Hop → BitVec 8) (h : Hardware) (e : ScopeEntry) : Bool :=
  match e.kind with
  | .ioapic => h.ioApics.any (fun a => a.id == e.enumId && (a.requester.isNone || e.sourceId secondary == a.requester))
  | .hpet => h.hpets.any (fun x => x.number == e.enumId && x.msi)
  | .endpoint | .subHierarchy | .namespaceDevice | .reserved _ => true

/-- An ANDD structure declares the name-space device, and a unit's device scope has it (R1282, R1296). -/
def Table.declares (t : Table) (name : List Byte) : Bool :=
  t.structures.any (fun x => match x with
    | .andd a => a.name == name && !(t.enumerated .namespaceDevice a.number).isEmpty
    | _ => false)

/-- The ATSR structures are the platform's (R1292): one for each segment that supports Device-TLBs, none on a platform without
them; a Root Port is reported just if it supports ATS, and nothing else is named. -/
def Table.atsrsOk (secondary : BitVec 8 → Hop → BitVec 8) (h : Hardware) (t : Table) : Bool :=
  h.deviceTlbs.all (fun x => t.atsrs.any (fun l => l.segment == x)) && (t.atsrs.isEmpty || !h.deviceTlbs.isEmpty) &&
  h.rootPorts.all (fun p => t.atsPort secondary p.segment p.sid == p.ats) &&
  t.atsrs.all (fun l => l.scopes.all (fun e =>
    h.rootPorts.any (fun p => p.segment == l.segment && e.sourceId secondary == some p.sid)))

/-- "Such devices must also enumerate PCISIG defined ATS capability": the devices of the SATC structures do (R1298). -/
def Table.satcsOk (secondary : BitVec 8 → Hop → BitVec 8) (h : Hardware) (t : Table) : Bool :=
  t.satcs.all (fun l => l.scopes.all (fun e =>
    h.atsDevices.any (fun x => x.segment == l.segment && e.sourceId secondary == some x.sid)))

/-- A table that follows the rules on its platform: a unit for each PCI segment (R1280); no device scope entry and no ANDD
structure for what the platform has not (R1281, R1296); with INTR_REMAP every I/OxAPIC and every MSI-capable HPET Timer Block
enumerated; every name-space device declared (R1282); the ATSR and SATC structures (R1292, R1298). -/
def Table.okOn (secondary : BitVec 8 → Hop → BitVec 8) (h : Hardware) (t : Table) : Bool :=
  t.ok && h.segments.all t.hasUnitFor &&
  t.structures.all (fun x => x.scopes.all (h.has secondary)) && t.acpiNames.all h.namespaceDevices.contains &&
  (!t.intrRemap || (h.ioApics.all (IoApic.listed t) && h.hpets.all (Hpet.listed t))) && h.namespaceDevices.all t.declares &&
  t.atsrsOk secondary h && t.satcsOk secondary h

/-! ## The unit of a device (R1280, R1284) -/

/-- A device as the platform is wired: its segment; `owner`, the source-id of the function whose scope it shares (a virtual
function's physical function, an extended function's traditional one, R1284); the bridges above it; whether it is PCI
compatible. -/
structure Device where
  segment : BitVec 16
  owner : SourceId
  upstream : List SourceId
  pci : Bool
deriving DecidableEq, Repr

/-- A device scope entry holds a device: itself, or, for a sub-hierarchy, also what is downstream of the bridge (R1281). -/
def ScopeEntry.holds (secondary : BitVec 8 → Hop → BitVec 8) (e : ScopeEntry) (d : Device) : Bool :=
  match e.sourceId secondary with
  | none => false
  | some sid => sid == d.owner || (e.kind == .subHierarchy && d.upstream.contains sid)

/-- The unit names the device in its device scope. -/
def Drhd.names (secondary : BitVec 8 → Hop → BitVec 8) (u : Drhd) (d : Device) : Bool :=
  u.segment == d.segment && u.scopes.any (fun e => e.holds secondary d)

/-- The unit a device's requests reach (R1280): the one that names it, else the segment's unit with INCLUDE_PCI_ALL for a PCI
compatible device. Of several units that name it, which R1280 leaves no room for and Table.ok does not exclude, the first in table
order is taken (DESIGN CHOICE, log 43). -/
def Table.unitOf (secondary : BitVec 8 → Hop → BitVec 8) (t : Table) (d : Device) : Option Drhd :=
  match t.units.find? (fun u => u.names secondary d) with
  | some u => some u
  | none => t.units.find? (fun u => u.includeAll && u.segment == d.segment && d.pci)

/-- Software may enable ATS on the device (R1292, R1298, 70 R1464): the Root Port above it is reported as supporting ATS, or it
is an integrated device, under no Root Port, that an SATC structure names. -/
def Table.atsAllowed (secondary : BitVec 8 → Hop → BitVec 8) (t : Table) (d : Device) (rootPort : Option SourceId) : Bool :=
  match rootPort with
  | some p => t.atsPort secondary d.segment p
  | none => t.atsIntegrated secondary d.segment d.owner

/-- The parameters a table gives a unit (00 R7, 10 R111, R1271, R1280): HAW, the register base and the register pages. -/
def Table.platform (t : Table) (u : Drhd) (p : Platform) : Platform :=
  { p with haw := t.haw, regBase := u.base.toNat, regPages := 2 ^ u.size }

/-! ## Hot plug (R1305) -/

/-- The GUID of the _DSM method, its digits in the order they are written in (R1305). -/
def dsmGuid : BitVec 128 := 0xD8C1A3A6BE9B4C9B91BFC3CB81FC5DAF

/-- The functions of the _DSM method (R1305): the query for what is supported, and one for each type of structure it reports. The
index 4 that the sample code's mask names has no definition (90 C8). -/
inductive DsmFunction where
  | query | drhd | atsr | rhsa
deriving DecidableEq, Repr

/-- The function of an index. -/
def dsmFunction : Nat → Option DsmFunction
  | 0 => some .query
  | 1 => some .drhd
  | 2 => some .atsr
  | 3 => some .rhsa
  | _ => none

/-- The answer of the method: the buffer of supported functions, or structures. -/
inductive DsmAnswer where
  | supported (buffer : List Byte)
  | structures (l : List Structure)
deriving DecidableEq, Repr

/-- The buffer that function 0 returns: bit n for function index n, as in the sample code but without its bit 4 (R1305, 90 C8). -/
def supportedFunctions : List Byte :=
  [BitVec.ofNat 8 (((List.range 8).filter (fun n => (dsmFunction n).isSome)).map (fun n => 2 ^ n)).sum]

/-- A component that can be hot-added, such as an I/O hub: the ACPI host bridge under whose device scope the method stands, with
the structures that describe its remapping resources (R1305). -/
structure HostBridge where
  resources : List Structure
deriving DecidableEq, Repr

/-- The structures of a type among the host bridge's resources. -/
def HostBridge.ofType (b : HostBridge) (type : Nat) : List Structure := b.resources.filter (fun x => x.type == type)

/-- What a function of the method returns (R1305). -/
def HostBridge.answer (b : HostBridge) : DsmFunction → DsmAnswer
  | .query => .supported supportedFunctions
  | .drhd => .structures (b.ofType 0)
  | .atsr => .structures (b.ofType 2)
  | .rhsa => .structures (b.ofType 3)

/-- The method of a host bridge, evaluated with a GUID and a function index; the spec gives no answer for another GUID or an
index without a function (R1305). -/
def HostBridge.dsm (b : HostBridge) (guid : BitVec 128) (index : Nat) : Option DsmAnswer :=
  if guid = dsmGuid then (dsmFunction index).map b.answer else none

/-- What software learns of a host bridge through the method: its DRHD, ATSR and RHSA structures, never an RMRR (R1305). -/
def HostBridge.reported (b : HostBridge) : List Structure :=
  [1, 2, 3].flatMap (fun n => match b.dsm dsmGuid n with
    | some (.structures l) => l
    | _ => [])

/-- The effective table that software maintains after a hot-add; the static one is not modified (R1305). -/
def Table.withHotAdded (t : Table) (b : HostBridge) : Table := { t with structures := t.structures ++ b.reported }

/-- A hot-added unit starts in its reset state (R1305, 70 R1450), where the table says; `s` gives its other constants. -/
def Table.hotAddedUnit (t : Table) (u : Drhd) (s : State) : State :=
  ({ s with plat := t.platform u s.plat } : State).resetUnit true

end Sys2Proof.Machine.Acpi
end

