-- ==== Sys2Proof/Tests/Slice0.lean ====
section
/-! SUPPORT. The model's own tests: ill-formed terms, words written out from the spec's layouts, one step of each
instruction on a small state (expected values from spec/95_test_vectors.md or computed by hand from the rule cited), and
for every statement with hypotheses a state and operands that meet them. -/

namespace Sys2Proof.Tests

open Sys2Proof Sys2Proof.Machine

set_option Elab.async false

/-! ## Helpers -/

/-- Memory that holds the given 8-byte words, at rising addresses. -/
def memOf (l : List (Nat × Nat)) : List Host.Cell :=
  l.flatMap (fun x => ((toBytes 8 x.2).zipIdx.filter (fun b => b.1 != Config.unlistedByte)).map (fun b => (x.1 + b.2, b.1)))

/-- The outcome is a next state with the property. -/
def nextIs (r : Result) (p : State → Bool) : Bool :=
  match r with
  | .next t => p t
  | _ => false

/-- A well-formed request without PASID: a write of four bytes ABh. -/
def wr (sid : SourceId) (a : Addr) : MemReq :=
  { sid := sid, pasid := none, addr := a, access := .write, len := 4, fullBe := true, ns := false, nw := false,
    data := [0xAB, 0xAB, 0xAB, 0xAB], atomic := .fetchAdd, coherent := false, cxlCache := false }

/-- A read of four bytes; as a translation request, of two translations. -/
def rdReq (sid : SourceId) (a : Addr) : MemReq := { wr sid a with access := .read, data := [] }

/-- A page request with PASID 5. -/
def pageMsg : PageMsg :=
  { rid := 0x10, pp := true, pasid := 5, exr := false, pmr := false, addr := 0x7F123, prgi := 0x12, lpig := true,
    rdr := true, wrr := false }

/-! ## Ill-formed terms, one for each check of `Instr.wf` -/

theorem test_wf_granularity :
    Instr.wf (.ccInvDsc 0 1 1 0) = false ∧ Instr.wf (.iotlbInvDsc 0 true true 1 0 false 0) = false ∧
    Instr.wf (.pIotlbInvDsc 0 1 1 0 false 0) = false ∧ Instr.wf (.pIotlbInvDsc 1 1 1 0 false 0) = false ∧
    Instr.wf (.pcInvDsc 2 1 1) = false := by decide

theorem test_wf_reservedCommand :
    Instr.wf (.ecmdReserved 240 0) = false ∧ Instr.wf (.ecmdReserved 245 0) = false ∧
    Instr.wf (.ecmdReserved 239 0) = true ∧ Instr.wf (.ecmdReserved 246 0) = true := by decide

theorem test_wf_untranslated :
    Instr.wf (.untranslatedRequest { wr 1 0x1FFE with ns := true }) = false ∧
    Instr.wf (.untranslatedRequest { wr 1 0x1000 with len := 0, data := [] }) = false ∧
    Instr.wf (.untranslatedRequest { wr 1 0x1000 with len := 3 }) = false ∧
    Instr.wf (.untranslatedRequest { wr 1 0x1000 with access := .read }) = false ∧
    Instr.wf (.untranslatedRequest { rdReq 1 0x1000 with access := .zlr, len := 8 }) = false ∧
    Instr.wf (.untranslatedRequest { wr 1 0x1000 with access := .atomic, len := 2, data := [1, 2] }) = false ∧
    Instr.wf (.untranslatedRequest { wr 1 0x1000 with access := .atomic, atomic := .compareSwap }) = false ∧
    Instr.wf (.untranslatedRequest (wr 1 0xFEE00218)) = false := by decide

theorem test_wf_ats :
    Instr.wf (.translationRequest { rdReq 1 0x1000 with len := 3 }) = false ∧
    Instr.wf (.translationRequest { rdReq 1 0x1000 with len := 0 }) = false ∧
    Instr.wf (.translationRequest { rdReq 1 0x1000 with fullBe := false }) = false ∧
    Instr.wf (.translationRequest { rdReq 1 0x1000 with data := [1] }) = false ∧
    Instr.wf (.translationRequest (wr 1 0x1000)) = false ∧
    Instr.wf (.translatedRequest { wr 1 0x1000 with pasid := some ⟨5, false, false⟩ }) = false ∧
    Instr.wf (.translatedRequest (wr 1 0x1FFE)) = false := by decide

theorem test_wf_interrupt :
    Instr.wf (.interruptRequest 1 0xFED00218 3) = false ∧ Instr.wf (.interruptRequest 1 0xFEF00218 3) = false ∧
    Instr.wf (.interruptRequest 1 0xFEE00219 3) = true := by decide

/-! ## Words from the spec's layouts (30 R853 to R875, R895; 95 T-ENC-1 to T-ENC-6) -/

theorem test_decode_ccInv : decode (.iqDsc true 0x0003030800020031) = .ok [.ccInvDsc 3 2 0x0308 3] := by rfl

theorem test_decode_iotlbInv :
    decode (.iqDsc true 0x000000001220004900000000000500F2) = .ok [.iotlbInvDsc 3 true true 5 9 true 0x12200] := by rfl

/-- R855: PFSID 0ABCDh with bits 3:0 at 15:12 and bits 15:4 at 63:52, MIP 3 at 20:16, SID at 47:32, S at 64. -/
theorem test_decode_devTlbInv :
    decode (.iqDsc true 0x0000000012345001ABC001000003D003) =
      .ok [.devTlbInvDsc 0x0100 3 0xABCD true 0x12345] := by rfl

theorem test_decode_iecInv : decode (.iqDsc true 0x0000001010000014) = .ok [.iecInvDsc true 2 0x10] := by rfl

theorem test_decode_invWait :
    decode (.iqDsc true 0x0000000000200040DEADBEEF000000F5) =
      .ok [.invWaitDsc true true true true 0xDEADBEEF 0x80010] := by rfl

/-- R858: G=11b, DID 7, PASID 5 at 51:32, AM 9, IH, ADDR. -/
theorem test_decode_pIotlbInv :
    decode (.iqDsc true 0x00000000122000490000000500070036) = .ok [.pIotlbInvDsc 3 7 5 9 true 0x12200] := by rfl

/-- R859: G=01b, DID 7, PASID 5 at 51:32. -/
theorem test_decode_pcInv : decode (.iqDsc true 0x0000000500070017) = .ok [.pcInvDsc 1 7 5] := by rfl

/-- R860: MIP 3 at 8:4, PFSID as in R855, SID at 31:16, PASID at 51:32, G at 64, S at 75, ADDR at 127:76. -/
theorem test_decode_pDevTlbInv :
    decode (.iqDsc true 0x0000000012345801ABC000050100D038) =
      .ok [.pDevTlbInvDsc 3 0xABCD 0x0100 5 true true 0x12345] := by rfl

theorem test_decode_pageGrpResp :
    decode (.iqDsc true 0x00000000000000900000000501000019) =
      .ok [.pageGrpRespDsc true 0 0x0100 5 0x12] := by rfl

theorem test_decode_pageReq :
    decode (.prqDsc 0x000000007F1230910000000501000101) =
      .ok [.pageReqDsc { pageMsg with rid := 0x0100, lpig := false }] := by rfl

/-- Types 11h, 7Fh, 00h; a reserved bit; bits above 127 of a 128-bit type (R852, R863). -/
theorem test_decode_errors :
    decode (.iqDsc true 0x0201) = .error .undefinedType ∧ decode (.iqDsc true 0x0E0F) = .error .undefinedType ∧
    decode (.iqDsc true 0) = .error .undefinedType ∧ decode (.iqDsc true 0x0105) = .error (.reservedField 5) ∧
    decode (.iqDsc true 0x1005) = .error (.reservedField 5) ∧
    decode (.iqDsc true (1#256 <<< 128 ||| 0x11)) = .error (.reservedField 1) ∧
    decode (.prqDsc 2) = .error .notPageReqDsc := by
  repeat' apply And.intro
  all_goals rfl

/-- T-ENC-6: one bit of GCMD_REG that differs from GSTS_REG, set and cleared. -/
theorem test_decode_gcmd :
    decode (.gcmd 0 0x80000000) = .ok [.gcmdTeEnable] ∧ decode (.gcmd 0x80000000 0) = .ok [.gcmdTeDisable] ∧
    decode (.gcmd 0 0x40000000) = .ok [.gcmdSrtp] ∧ decode (.gcmd 0 0x08000000) = .ok [.gcmdWbf] ∧
    decode (.gcmd 0 0x04000000) = .ok [.gcmdQieEnable] ∧ decode (.gcmd 0x04000000 0) = .ok [.gcmdQieDisable] ∧
    decode (.gcmd 0 0x02000000) = .ok [.gcmdIreEnable] ∧ decode (.gcmd 0x02000000 0) = .ok [.gcmdIreDisable] ∧
    decode (.gcmd 0 0x01000000) = .ok [.gcmdSirtp] ∧ decode (.gcmd 0 0x00800000) = .ok [.gcmdCfiSet] ∧
    decode (.gcmd 0x00800000 0) = .ok [.gcmdCfiClear] ∧
    decode (.gcmd 0xC6000000 0x06000000) = .ok [.gcmdTeDisable] := by
  repeat' apply And.intro
  all_goals rfl

theorem test_decode_registerCommands :
    decode (.ccmd 0xE000000300100005) = .ok [.ccmdIcc 3 0x10 5 3] ∧
    decode (.ccmd 0x2000000000000007) = .ok [] ∧
    decode (.iotlb 0xB003000700000000) = .ok [.iotlbIvt 3 true true 7] ∧
    decode (.pmen 0x80000000) = .ok [.pmenEpmEnable] ∧ decode (.pmen 0) = .ok [.pmenEpmDisable] := by
  repeat' apply And.intro
  all_goals rfl

theorem test_decode_commandInterfaces :
    decode (.ecmd 0x200F0) = .ok [.ecmdEnable 2] ∧ decode (.ecmd 0x200F1) = .ok [.ecmdDisable 2] ∧
    decode (.ecmd 0xF2) = .ok [.ecmdResetConfig 0] ∧ decode (.ecmd 0xF3) = .ok [.ecmdResetValues 0] ∧
    decode (.ecmd 0xF4) = .ok [.ecmdFreeze 0] ∧ decode (.ecmd 0xF5) = .ok [.ecmdUnfreeze 0] ∧
    decode (.ecmd 0xF6) = .ok [.ecmdReserved 0xF6 0] ∧ decode (.vcmd 0) = .ok [.vcmdNull 0] ∧
    decode (.vcmd 1) = .ok [.vcmdAllocate 0] ∧ decode (.vcmd 0x01050002) = .ok [.vcmdFree 0x105] ∧
    decode (.vcmd 3) = .error (.undefinedVirtual 3 0) := by
  repeat' apply And.intro
  all_goals rfl

/-- AT=00b, 01b, 10b; a DWORD write to FEEx_xxxxh is an interrupt request, whatever address bits 1:0 are (R865, R867,
R880). -/
theorem test_decode_messages :
    decode (.mem 0 (wr 0x10 0x1000)) = .ok [.untranslatedRequest (wr 0x10 0x1000)] ∧
    decode (.mem 1 (rdReq 0x10 0x1000)) = .ok [.translationRequest (rdReq 0x10 0x1000)] ∧
    decode (.mem 2 (wr 0x10 0x1000)) = .ok [.translatedRequest (wr 0x10 0x1000)] ∧
    decode (.mem 0 { wr 0x10 0xFEE00218 with data := [3, 0, 0, 0] }) = .ok [.interruptRequest 0x10 0xFEE00218 3] ∧
    decode (.mem 0 { wr 0x10 0xFEE00219 with data := [3, 0, 0, 0] }) = .ok [.interruptRequest 0x10 0xFEE00219 3] ∧
    decode (.page pageMsg) = .ok [.pageRequest pageMsg] ∧
    decode (.invalidation 0x10) = .error .upstreamInvalidation ∧
    decode (.completion 0x10 1 1) = .ok [.invalidationCompletion 0x10 1 1] ∧
    decode (.mem 3 (wr 0x10 0x1000)) = .error .reservedAt ∧
    decode (.mem 1 (wr 0x10 0x1000)) = .error .writeWithAt01 := by
  repeat' apply And.intro
  all_goals rfl

/-- T-ENC-5: handle, SHV and subhandle of a remappable request. -/
theorem test_interruptIndex :
    interruptIndex 0xFEE000BC 2 = 0x8007 ∧ interruptIndex 0xFEE00218 3 = 0x13 ∧ interruptIndex 0xFEEFFFF4 0 = 0xFFFF := by
  decide +kernel

/-! ## States -/

/-- Reset with queued invalidation on, a 256-bit queue and an ITag pool, in scalable mode. -/
def queued : State :=
  { State.reset with
    gsts := { State.reset.gsts with qies := true, tes := true }, latchedRt := { rta := 1, ttm := 1 }
    iq := { State.reset.iq with dw := true, qt := 8, iqa := 0x100 } }

/-- The base set-up of 95 section 2.6: legacy mode, four-level tables that map page 4020_1h to 0ABC_Dh for reading. -/
def legacy95 : State :=
  { State.reset with
    latchedRt := { rta := 1, ttm := 0 }, gsts := { State.reset.gsts with tes := true, rtps := true }
    mem := memOf [(0x1000, 0x2001), (0x2100, 0x3001), (0x2108, 0x102), (0x3000, 0x4003), (0x4008, 0x5003), (0x5008, 0x6003),
      (0x6008, 0xABCD001)] }

/-- Legacy mode with three-level tables: page 1h of devices 0010h (TT=00b) and 0011h (TT=01b) is mapped to ABCDh with both
permissions; device 0012h is pass-through (TT=10b); bus 1 has no root entry. -/
def legacy : State :=
  { State.reset with
    latchedRt := { rta := 1, ttm := 0 }, gsts := { State.reset.gsts with tes := true, rtps := true }
    mem := memOf [(0x1000, 0x2001), (0x2100, 0x3001), (0x2108, 0x101), (0x2110, 0x3005), (0x2118, 0x101), (0x2120, 0x9),
      (0x2128, 0x101), (0x3000, 0x4003), (0x4000, 0x5003), (0x5008, 0xABCD003)] }

/-- Scalable mode: device 0010h has PASIDs and page requests enabled; DID 7, page walks snooped. PASID 5 is first-stage, with
four-level tables from 6000h that map page 1h to ABCDh; PASID 6 is second-stage with SSADE, with three-level tables from D000h
that map 0h and AA0_0000h to themselves in 2-MByte pages; PASID 7 nests the first in the second; PASID 0 is pass-through. -/
def scalable : State :=
  { State.reset with
    latchedRt := { rta := 1, ttm := 1 }, gsts := { State.reset.gsts with tes := true, rtps := true }
    prq := { State.reset.prq with pqa := 0x200 }
    mem := memOf [(0x1000, 0x2001), (0x2200, 0x801D), (0x6000, 0xA007), (0x8000, 0x9001), (0x9000, 0x101), (0x9008, 7),
      (0x9140, 0x41), (0x9148, 0x800007), (0x9150, 0x6000), (0x9180, 0xD285), (0x9188, 0x800007), (0x91C0, 0xD2C5),
      (0x91C8, 0x800007), (0x91D0, 0x6000), (0xA000, 0xB007), (0xB000, 0xC007), (0xC008, 0xABCD007), (0xD000, 0xE003),
      (0xE000, 0x83), (0xE2A8, 0xAA00083)] }

/-- Interrupt remapping with a table of 32 entries at 7000h: 13h remapped to vector 31h of destination 01h, 14h not present,
15h not present with FPD, 16h posted to the descriptor at 8000h (NV F2h, NDST 01h). -/
def remapping : State :=
  { State.reset with
    latchedIr := { irta := 7, eime := false, size := 4 }, gsts := { State.reset.gsts with ires := true, irtps := true }
    mem := memOf [(0x7130, 0x0000010000310001), (0x7150, 2), (0x7160, 0x0000800000318001), (0x8020, 0x0000010000F20000)] }

/-! ## One step of each instruction -/

/-- Context-cache entries (cc_inv_dsc, CCMD_REG). -/
def ctxEntry (sid : SourceId) (did : DomainId) : CtxEntry := { sid := sid, did := did, ce := 1, fault := none }

/-- An IOTLB entry of a request without PASID in legacy mode for a 4-KByte page. -/
def iotlbEntry (did : DomainId) (base : Addr) : IotlbEntry :=
  { sid := 0x10, pasid := 0, withPasid := false, did := did, legacy := true, pgtt := 0, width := 48, base := base,
    ce := 0, pe := 0, fpd := false
    page := { hpa := 0xABCD000, shift := 12, r := true, w := true, rw := true, us := true, fsDirty := true,
              ssDirty := true, fsShift := 12, fsLeaf := 0, ssLeaf := 3 }
    fault := none }

/-- A scalable-mode first-stage IOTLB entry. -/
def fsEntry (pasid : Pasid) (base : Addr) : IotlbEntry :=
  { iotlbEntry 7 base with pasid := pasid, withPasid := true, legacy := false, pgtt := 1 }

/-- Function mask 3 covers eight functions of the device (40 R920, Table 18). -/
theorem test_ccInv :
    nextIs (exec (.ccInvDsc 3 2 0x0308 3)
      { queued with latchedRt := { rta := 1, ttm := 0 }, caches := { Caches.reset with
          ctx := [ctxEntry 0x030F 2, ctxEntry 0x0310 2, ctxEntry 0x0308 3] } })
      (fun t => t.caches.ctx == [ctxEntry 0x0310 2, ctxEntry 0x0308 3] && t.iq.qh == 2) = true := by decide +kernel

/-- AM=1 covers two pages, of the domain only (40 R922, Table 19). -/
theorem test_iotlbInv :
    nextIs (exec (.iotlbInvDsc 3 true true 1 1 false 0x40200)
      { queued with caches := { Caches.reset with
          iotlb := [iotlbEntry 1 0x40200000, iotlbEntry 1 0x40201000, iotlbEntry 1 0x40202000, iotlbEntry 2 0x40201000] } })
      (fun t => t.caches.iotlb == [iotlbEntry 1 0x40202000, iotlbEntry 2 0x40201000]) = true := by decide +kernel

/-- Page-selective-within-PASID spares the other PASID; PASID-selective does not spare other pages (40 R924). -/
theorem test_pIotlbInv :
    nextIs (exec (.pIotlbInvDsc 3 7 5 0 false 0x401) { queued with caches := { Caches.reset with
        iotlb := [fsEntry 5 0x401000, fsEntry 5 0x402000, fsEntry 6 0x401000] } })
      (fun t => t.caches.iotlb == [fsEntry 5 0x402000, fsEntry 6 0x401000]) = true ∧
    nextIs (exec (.pIotlbInvDsc 2 7 5 0 false 0x401) { queued with caches := { Caches.reset with
        iotlb := [fsEntry 5 0x401000, fsEntry 5 0x402000, fsEntry 6 0x401000] } })
      (fun t => t.caches.iotlb == [fsEntry 6 0x401000]) = true := by decide +kernel

/-- pc_inv_dsc G=01b takes one PASID of the domain; G=10b is a queue error 4 (T-IQ-7). -/
theorem test_pcInv :
    nextIs (exec (.pcInvDsc 1 7 5) { queued with caches := { Caches.reset with
        pasid := [{ sid := 1, pasid := 5, did := 7, pe := 1, fpd := false, fault := none },
          { sid := 1, pasid := 6, did := 7, pe := 1, fpd := false, fault := none }] } })
      (fun t => t.caches.pasid.map (·.pasid) == [6]) = true ∧
    nextIs (exec (.pcInvDsc 2 7 5) queued) (fun t => fstsWord t == 0x10 && t.iqercd.iqei == 4 && t.iq.qh == 0) = true := by
  decide +kernel

/-- The request names the endpoint, its address and an ITag (40 R926). -/
theorem test_devTlbInv :
    nextIs (exec (.devTlbInvDsc 0x0100 0 0 true 0x5FFFF) queued)
      (fun t => t.out == [.invRequest { sid := 0x0100, pasid := none, allPasids := false, sz := true, addr := 0x5FFFF } 0] &&
        t.itags == [⟨0, 0x0100, 0⟩] && t.iqPend == [.sent 0]) = true := by decide +kernel

/-- G=1 goes to all PASIDs of the device (40 R927). -/
theorem test_pDevTlbInv :
    nextIs (exec (.pDevTlbInvDsc 0 0 0x0100 5 true false 0x12345) queued)
      (fun t => t.out == [.invRequest { sid := 0x0100, pasid := none, allPasids := true, sz := false, addr := 0x12345 } 0]) =
      true := by decide +kernel

/-- IM=2 at index 10h covers 10h to 13h (40 R928, Table 22). -/
theorem test_iecInv :
    nextIs (exec (.iecInvDsc true 2 0x10)
      { queued with caches := { Caches.reset with iec := [⟨0x0F, 1⟩, ⟨0x10, 1⟩, ⟨0x13, 1⟩, ⟨0x14, 1⟩] } })
      (fun t => t.caches.iec == [⟨0x0F, 1⟩, ⟨0x14, 1⟩]) = true := by decide +kernel

/-- T-IQ-4: the status write, IWC, and the event held by its mask. -/
theorem test_invWait :
    nextIs (exec (.invWaitDsc true true false false 0xAA 0x44000) queued)
      (fun t => readNat t.mem 0x110000 4 == 0xAA && t.iwc && ctlWord t.invEv == 0xC0000000) = true := by decide +kernel

/-- T-PR, program P4 step 5: the response message. -/
theorem test_pageGrpResp :
    nextIs (exec (.pageGrpRespDsc true 0 0x0100 5 0x12) queued)
      (fun t => t.out == [.pageResp { rid := 0x0100, pp := true, pasid := 5, prgi := 0x12, rc := 0 }]) = true := by
  decide +kernel

/-- T-PR-1: the descriptor the unit writes; T-PR-2: tail, PPR and the held event. -/
theorem test_pageReq :
    nextIs (exec (.pageReqDsc { pageMsg with rid := 0x0100, lpig := false }) { State.reset with prq := { State.reset.prq with pqa := 0x200 } })
      (fun t => readNat t.mem 0x200000 8 == 0x0000000501000101 && readNat t.mem 0x200008 8 == 0x7F123091 &&
        pqPtrWord t.prq.pqt == 0x20 && prsWord t.prq == 1 && ctlWord t.pageEv == 0xC0000000) = true := by decide +kernel

/-- A page request that its tables admit reaches the queue; with a full queue it sets PRO (T-PR-4). -/
theorem test_pageRequest :
    nextIs (exec (.pageRequest pageMsg) scalable)
      (fun t => readNat t.mem 0x200000 8 == 0x0000000500100101 && prsWord t.prq == 1) = true ∧
    nextIs (exec (.pageRequest pageMsg) { scalable with prq := { scalable.prq with pqt := 127 } })
      (fun t => prsWord t.prq == 2 && t.out ==
        [.respond 0x10 (.page { rid := 0x10, pp := true, pasid := 5, prgi := 0x12, rc := 0 })]) = true := by decide +kernel

/-- One GCMD_REG write as the next step. -/
def gcmdStep (s : State) (v : BitVec 64) : Result :=
  step { s with inputs := [{ ev := .softWrite 0x18 4 v, ch := Choice.plain }] }

/-- T-CMD-1, T-CMD-2: set QIE, clear TE, through GCMD_REG. -/
theorem test_gcmd_levels :
    nextIs (gcmdStep { State.reset with gsts := { State.reset.gsts with tes := true, rtps := true } } 0x84000000)
      (fun t => gstsWord t.gsts == 0xC4000000) = true ∧
    nextIs (gcmdStep { State.reset with gsts := { State.reset.gsts with tes := true, rtps := true, qies := true, ires := true } }
      0x06000000) (fun t => gstsWord t.gsts == 0x46000000) = true ∧
    nextIs (gcmdStep State.reset 0x80000000) (fun t => gstsWord t.gsts == 0x80000000) = true := by decide +kernel

/-- T-CMD-4: SRTP latches RTADDR_REG. -/
theorem test_gcmd_srtp :
    nextIs (gcmdStep { State.reset with rtaddr := { rta := 1, ttm := 1 } } 0x40000000)
      (fun t => t.latchedRt == { rta := 1, ttm := 1 } && gstsWord t.gsts == 0x40000000) = true := by decide +kernel

/-- T-CMD-13: SIRTP, IRE, CFI; then CFI and IRE cleared. -/
theorem test_gcmd_interrupts :
    nextIs (gcmdStep { State.reset with irta := { irta := 0x7F000, eime := true, size := 7 } } 0x01000000)
      (fun t => t.latchedIr == { irta := 0x7F000, eime := true, size := 7 } && gstsWord t.gsts == 0x01000000 &&
        nextIs (gcmdStep t 0x02000000) (fun u => gstsWord u.gsts == 0x03000000 &&
          nextIs (gcmdStep u 0x02800000) (fun v => gstsWord v.gsts == 0x03800000 &&
            nextIs (gcmdStep v 0x02000000) (fun w => gstsWord w.gsts == 0x03000000 &&
              nextIs (gcmdStep w 0) (fun x => gstsWord x.gsts == 0x01000000))))) = true := by decide +kernel

/-- T-IQ-8: disabling the queue clears IQH_REG and leaves IQT_REG. -/
theorem test_gcmd_qieDisable :
    nextIs (gcmdStep { State.reset with gsts := { State.reset.gsts with qies := true }, iq := { State.reset.iq with qh := 3, qt := 3 } } 0)
      (fun t => gstsWord t.gsts == 0 && iqPtrWord t.iq.qh == 0 && iqPtrWord t.iq.qt == 0x30) = true := by decide +kernel

/-- T-CMD-14: on a unit with RWBF the buffered store of the byte at 5000h reaches memory; on one without nothing happens. -/
theorem test_gcmd_wbf :
    nextIs (gcmdStep { State.reset with caps := { Caps.reset with cap := Config.capReg ||| 0x10 }, wbuf := [⟨0x5000,
        [7]⟩] } 0x08000000)
      (fun t => readByte t.mem 0x5000 == 7 && t.wbuf == [] && gstsWord t.gsts == 0) = true ∧
    nextIs (gcmdStep State.reset 0x08000000) (fun t => gstsWord t.gsts == 0) = true := by decide +kernel

/-- T-CMD-5 (a), T-CMD-6 (a): a global invalidation, and an incorrect one while the queue is on. -/
theorem test_ccmd :
    nextIs (exec (.ccmdIcc 1 0 0 0) { State.reset with caches := { Caches.reset with ctx := [ctxEntry 1 1] } })
      (fun t => t.ccmd.caig == 1 && !t.ccmd.icc && t.caches.ctx == []) = true ∧
    nextIs (exec (.ccmdIcc 1 0 0 0) { State.reset with
        gsts := { State.reset.gsts with qies := true }, caches := { Caches.reset with ctx := [ctxEntry 1 1] } })
      (fun t => t.ccmd.caig == 0 && t.caches.ctx == [ctxEntry 1 1]) = true := by decide +kernel

/-- T-CMD-8 (c), T-CMD-9: page-selective with AM=1, and AM above MAMV. -/
theorem test_iotlbCommand :
    nextIs (exec (.iotlbIvt 3 true true 7) { State.reset with
        iva := { addr := 0x40200, ih := false, am := 1 }
        caches := { Caches.reset with iotlb := [iotlbEntry 7 0x40201000, iotlbEntry 7 0x40202000] } })
      (fun t => iotlbWord t.iotlbReg == 0x3603000700000000 && t.caches.iotlb == [iotlbEntry 7 0x40202000]) = true ∧
    nextIs (exec (.iotlbIvt 3 false false 7) { State.reset with iva := { addr := 0x40200, ih := false, am := 19 } })
      (fun t => iotlbWord t.iotlbReg == 0x3000000700000000) = true := by decide +kernel

/-- T-CMD-10. -/
theorem test_pmen :
    nextIs (exec .pmenEpmEnable State.reset) (fun t => pmenWord t.pmr == 0x80000001 &&
      nextIs (exec .pmenEpmDisable t) (fun u => pmenWord u.pmr == 0)) = true := by decide +kernel

/-- The value of ECRSP_REG. -/
def ecrsp (t : State) : BitVec 64 := rspWord t.ecmd.rslt t.ecmd.sc t.ecmd.ip

/-- T-CMD-11 (a), (b), (f): counter 2 enabled, an unsupported event refused, counter 9 of 4 refused. -/
theorem test_ecmd_enable :
    nextIs (exec (.ecmdEnable 2) State.reset)
      (fun t => ecrsp t == 0 && (t.perf.counters.map (·.en)) == [false, false, true, false]) = true ∧
    nextIs (exec (.ecmdEnable 2) { State.reset with perf := { State.reset.perf with
        counters := State.reset.perf.counters.map (fun p => { p with es := 0x10 }) } })
      (fun t => ecrsp t == 0x20 && (t.perf.counters.map (·.en)) == [false, false, false, false]) = true ∧
    nextIs (exec (.ecmdDisable 9) State.reset) (fun t => ecrsp t == 0x20) = true ∧
    nextIs (exec (.ecmdDisable 0) { State.reset with perf := { State.reset.perf with
        counters := State.reset.perf.counters.map (fun p => { p with en := true, frozen := true, value := 9 }) } })
      (fun t => ecrsp t == 0 && (t.perf.counters.map (·.frozen)) == [false, true, true, true] &&
        (t.perf.counters.map (·.value)) == [9, 9, 9, 9]) = true := by decide +kernel

/-- R988, R989; T-CMD-11 (c) to (e). -/
theorem test_ecmd_all :
    nextIs (exec (.ecmdFreeze 0) State.reset) (fun t => ecrsp t == 0 && freezeWord t.perf 0 == 0xF &&
      nextIs (exec (.ecmdUnfreeze 0) t) (fun u => freezeWord u.perf 0 == 0)) = true ∧
    nextIs (exec (.ecmdResetConfig 0) { State.reset with perf := { State.reset.perf with
        counters := State.reset.perf.counters.map (fun p => { p with en := true, es := 1, value := 9 }) } })
      (fun t => (t.perf.counters.map (·.en)) == [false, false, false, false] && (t.perf.counters.map (·.value)) == [9, 9, 9,
          9] &&
        nextIs (exec (.ecmdResetValues 0) t) (fun u => (u.perf.counters.map (·.value)) == [0, 0, 0, 0])) = true ∧
    nextIs (exec (.ecmdReserved 0 0) State.reset) (fun t => ecrsp t == 2) = true := by decide +kernel

/-- The value of VCRSP_REG. -/
def vcrsp (t : State) : BitVec 64 := rspWord t.vcmd.rslt t.vcmd.sc t.vcmd.ip

/-- T-CMD-12: allocate hands out 00105h, free takes it back, a PASID never allocated is refused, null answers 0. -/
theorem test_vcmd :
    nextIs (exec (.vcmdAllocate 0) State.reset) (fun t => vcrsp t == 0x0000000001050000 && t.vcmd.allocated == [0x105] &&
      nextIs (exec (.vcmdFree 0x105) t) (fun u => vcrsp u == 0 && u.vcmd.allocated == [])) = true ∧
    nextIs (exec (.vcmdFree 0x105) State.reset) (fun t => vcrsp t == 0x20) = true ∧
    nextIs (exec (.vcmdNull 0) State.reset) (fun t => vcrsp t == 0 && t.vcmd.free == State.reset.vcmd.free) = true := by
  decide +kernel

/-- Program P2, traces A and B: the read goes to 0ABC_D234h; the write is blocked and recorded as fault 5h. -/
theorem test_untranslated :
    nextIs (exec (.untranslatedRequest (rdReq 0x10 0x40201234)) legacy95)
      (fun t => t.out.any (fun o => match o with | .forward f => f.hpa == 0xABCD234 | _ => false)) = true ∧
    nextIs (exec (.untranslatedRequest (wr 0x10 0x40201234)) legacy95)
      (fun t => (t.frcd.map frcdWord)[0]? == some 0x80000005000000100000000040201000 && fstsWord t == 2 &&
        ctlWord t.faultEv == 0xC0000000 && t.out == []) = true := by decide +kernel

/-- T-ATS-1: the leaf grants reading only; T-TR-3 n: TT=00b refuses translation requests. -/
theorem test_translation :
    nextIs (exec (.translationRequest (rdReq 0x10 0x40201234))
        { legacy95 with mem := writeNat legacy95.mem 0x2100 8 0x3005 })
      (fun t => t.out == [.respond 0x10 (.translation { addr := 0xABCD, s := false, n := false, g := false, priv := false, exe := false, u := false, w := false, r := true })]) =
      true ∧
    nextIs (exec (.translationRequest (rdReq 0x10 0x40201234)) legacy95)
      (fun t => (t.frcd.map frcdWord)[0]? == some 0xD000000D100000100000000040201000 &&
        t.out == [.respond 0x10 .ur]) = true := by decide +kernel

/-- T-TR-3 o: a translated write where TT=00b; with TT=01b it goes to the address it names (43 R1075). -/
theorem test_translated :
    nextIs (exec (.translatedRequest (wr 0x10 0x40201234)) legacy95)
      (fun t => (t.frcd.map frcdWord)[0]? == some 0xA000000D000000100000000040201000) = true ∧
    nextIs (exec (.translatedRequest (wr 0x11 0x40201234)) legacy)
      (fun t => readNat t.mem 0x40201234 4 == 0xABABABAB) = true := by decide +kernel

/-- A remapped interrupt, a posted one, and one whose entry is not present (44 R1110 to R1135). -/
theorem test_interrupt :
    nextIs (exec (.interruptRequest 0x10 0xFEE00218 3) remapping)
      (fun t => t.out == [.interrupt (.remapped { dst := 1, vector := 0x31, dlm := 0, rh := false, dm := false, tm := false,
                                                  asserted := true })]) = true ∧
    nextIs (exec (.interruptRequest 0x10 0xFEE002D0 0) remapping)
      (fun t => t.out == [.interrupt (.notification { dst := 1, vector := 0xF2, dlm := 0, rh := false, dm := false,
                                                      tm := false, asserted := true })] && readNat t.mem 0x8000 8 == 2 ^ 0x31 &&
        readNat t.mem 0x8020 8 == 0x0000010000F20001) = true ∧
    nextIs (exec (.interruptRequest 0x10 0xFEE00290 0) remapping)
      (fun t => (t.frcd.map frcdWord)[0]? == some 0x80000022000000100014000000000000) = true := by decide +kernel

/-- The second of two expected completions frees the ITag (43 R1085); one from another device sets ICE (40 R915). -/
theorem test_completion :
    nextIs (exec (.invalidationCompletion 0x0100 1 2) { queued with itags := [⟨0, 0x0100, 1⟩], iqPend := [.sent 0] })
      (fun t => t.itags == [] && t.iqPend == []) = true ∧
    nextIs (exec (.invalidationCompletion 0x0101 1 1) { queued with itags := [⟨0, 0x0100, 0⟩], iqPend := [.sent 0] })
      (fun t => fstsWord t == 0x20 && t.iqercd.icesid == 0x0101 && t.iqPend == [.sent 0]) = true := by decide +kernel

/-- The host's placing: the next step runs the instruction of a table word. -/
theorem test_withFetchWord :
    decodeTableWord 16 5 = some (.invWaitDsc false false false false 0 0) ∧
    nextIs (step (State.reset.withFetchWord 16 5)) (fun t => t.iq.qh == 2) = true ∧
    decodeTableWord 32 0x80000000 = some .gcmdTeEnable ∧
    nextIs (step (State.reset.withFetchWord 32 0x80000000)) (fun t => t.gsts.tes) = true ∧
    decodeTableWord 8 0xF4 = some (.ecmdFreeze 0) ∧
    nextIs (step (State.reset.withFetchWord 8 0xF4)) (fun t => freezeWord t.perf 0 == 0xF) = true := by decide +kernel

/-! ## Witnesses: states and operands that meet the hypotheses of each statement -/

/-- A next state comes out. -/
theorem exists_next {r : Result} (h : nextIs r (fun _ => true) = true) : ∃ t, r = .next t := by
  cases r with
  | next t => exact ⟨t, rfl⟩
  | fault _ => cases h
  | refused _ => cases h

/-- The state with one event to come. -/
def withEvent (s : State) (e : Event) : State := { s with inputs := [{ ev := e, ch := Choice.plain }] }

/-- The state that the event meets. -/
def met (s : State) : State := { s with inputs := [], choice := Choice.plain }

theorem next_met (s : State) (e : Event) : (withEvent s e).nextEvent e Choice.plain (met s) := ⟨[], rfl, rfl⟩

theorem witness_DecodeEncode :
    Instr.wf (.ccInvDsc 3 2 0x0308 3) = true ∧ Instr.wf (.pIotlbInvDsc 2 7 5 0 false 0) = true ∧
    Instr.wf (.ecmdReserved 255 0) = true ∧ Instr.wf (.untranslatedRequest (wr 0x10 0x1FFC)) = true ∧
    Instr.wf (.translationRequest { rdReq 0x10 0x1000 with len := 2 }) = true ∧
    Instr.wf (.translatedRequest (wr 0x10 0xFEE00218)) = true ∧
    Instr.wf (.interruptRequest 0x10 0xFEEFFFFC 0) = true := by decide

theorem witness_EncodeDecodeDescriptor :
    decode (.iqDsc true 0x0003030800020031) = .ok [.ccInvDsc 3 2 0x0308 3] ∧
    decode (.prqDsc 0x000000007F1230910000000501000101) =
      .ok [.pageReqDsc { pageMsg with rid := 0x0100, lpig := false }] := ⟨by rfl, by rfl⟩

/-- A queue with one cc_inv_dsc. -/
def oneDescriptor : State :=
  { queued with iq := { queued.iq with qt := 2 }, mem := memOf [(0x100000, 0x11)] }

theorem witness_StepRunsDescriptor :
    (withEvent oneDescriptor .iqTurn).nextEvent .iqTurn Choice.plain (met oneDescriptor) ∧
    (oneDescriptor.inputs = [] ∧ met oneDescriptor = { oneDescriptor with choice := Choice.plain }) ∧
    (met oneDescriptor).advance.canFetch = true ∧ queueRegError (met oneDescriptor).advance = none ∧
    (met oneDescriptor).advance.readable (met oneDescriptor).advance.headAddr (met oneDescriptor).advance.dscBytes = true ∧
    BitVec.ofNat 256 (readNat (met oneDescriptor).advance.flush.mem (met oneDescriptor).advance.headAddr
      (met oneDescriptor).advance.dscBytes) = 0x11 ∧
    decode (.iqDsc (met oneDescriptor).advance.iq.dw 0x11) = .ok [.ccInvDsc 1 0 0 0] :=
  ⟨next_met _ _, ⟨rfl, rfl⟩, by decide +kernel, by decide +kernel, by decide +kernel, by decide +kernel, by rfl⟩

theorem witness_StepRunsCommandWord :
    (withEvent State.reset (.softWrite 0x18 4 0xC4000000)).nextEvent (.softWrite 0x18 4 0xC4000000) Choice.plain
      (met State.reset) ∧
    0x18 % 4 = 0 ∧ 0x18 < (met State.reset).plat.regPages * 4096 ∧
    writeRefusal (met State.reset) 0x18 (loWord 0xC4000000) = none ∧
    commandWord (met State.reset) 0x18 (loWord 0xC4000000) = some (.gcmd 0 0xC4000000) ∧
    decode (.gcmd 0 0xC4000000) = .ok [.gcmdTeEnable, .gcmdSrtp, .gcmdQieEnable] ∧
    commandWord (met State.reset) 0x18 (loWord 0x80000000) = some (.gcmd 0 0x80000000) ∧
    decode (.gcmd 0 0x80000000) = .ok [.gcmdTeEnable] :=
  ⟨next_met _ _, rfl, by decide +kernel, by decide +kernel, by decide +kernel, by rfl, by decide +kernel, by rfl⟩

theorem witness_StepRunsMessages :
    (withEvent legacy (.device (.mem 0 (wr 0x10 0x1000)))).nextEvent (.device (.mem 0 (wr 0x10 0x1000))) Choice.plain
      (met legacy) ∧
    tooLong (met legacy) 0 (wr 0x10 0x1000) = false ∧
    decodeMem 0 (wr 0x10 0x1000) = .ok (.untranslatedRequest (wr 0x10 0x1000)) ∧
    (withEvent legacy (.device (.page pageMsg))).nextEvent (.device (.page pageMsg)) Choice.plain (met legacy) ∧
    (withEvent legacy (.device (.completion 0x10 1 1))).nextEvent (.device (.completion 0x10 1 1)) Choice.plain (met legacy) ∧
    (withEvent legacy (.prqWrite 1)).nextEvent (.prqWrite 1) Choice.plain (met legacy) ∧
    decode (.prqDsc 1) = .ok [.pageReqDsc { pageMsg with
      rid := 0, pp := false, pasid := 0, addr := 0, prgi := 0, lpig := false, rdr := false }] :=
  ⟨next_met _ _, by decide +kernel, by rfl, next_met _ _, next_met _ _, next_met _ _, by rfl⟩

/-- A state with memory, a pending Device-TLB invalidation and a PASID handed out. -/
def busy : State :=
  { queued with
    mem := legacy.mem, itags := [⟨0, 0x0100, 0⟩], iqPend := [.sent 0]
    vcmd := { State.reset.vcmd with free := [0x106], allocated := [0x105] } }

theorem witness_Inv : busy.Inv := by
  refine ⟨(by decide +kernel : Memory.wf busy.mem = true), ⟨by decide +kernel, by decide +kernel⟩,
    ⟨by decide +kernel, by decide +kernel, fun k => ?_⟩,
    ⟨?_, ?_, ?_, ?_, ?_, ?_, ?_, ?_, ?_, fun k p h => ?_⟩,
    (by decide +kernel : (busy.vcmd.free ++ busy.vcmd.allocated).Nodup)⟩
  · simp [busy, eq_comm]
  iterate 9 (· decide +kernel)
  · have hp : p = PerfCounter.reset := by
      have := List.mem_of_getElem? h
      simpa [busy, queued, State.reset] using this
    subst hp
    exact Nat.two_pow_pos _

/-- The machine steps from that state: hypotheses of the StepKeeps statements. -/
theorem witness_StepKeeps : busy.Inv ∧ ∃ t, step busy = .next t :=
  ⟨witness_Inv, exists_next (by decide +kernel)⟩

/-- A GCMD_REG write that asks for nothing, and the completion of another command (WBF), beside the instructions. -/
theorem witness_OnlyCommandsMovePointers :
    ((withEvent State.reset (.softWrite 0x18 4 0)).nextEvent (.softWrite 0x18 4 0) Choice.plain (met State.reset) ∧
      ∃ t, step (withEvent State.reset (.softWrite 0x18 4 0)) = .next t) ∧
    ((met { State.reset with pendCmds := [{ cmd := .instr .gcmdWbf, root := { rta := 5, ttm := 0 }, irt := State.reset.irta }] }).completes
      .gcmdWbf) ∧
    (∃ t, step State.reset = .next t) ∧ (∃ t, exec .gcmdWbf State.reset = .next t) ∧ Instr.gcmdWbf ≠ .gcmdSrtp ∧
        Instr.gcmdWbf ≠ .gcmdSirtp ∧
    Instr.gcmdWbf ≠ .gcmdTeEnable ∧ Instr.gcmdWbf ≠ .gcmdTeDisable ∧ Instr.gcmdWbf ≠ .gcmdIreEnable ∧
    Instr.gcmdWbf ≠ .gcmdIreDisable := by
  refine ⟨⟨next_met _ _, exists_next (by decide +kernel)⟩, ⟨_, _, rfl, rfl⟩, exists_next (by decide +kernel),
    exists_next (by decide +kernel), ?_⟩
  decide

theorem witness_DevicesReachNoControl :
    (∃ t, exec (.untranslatedRequest (wr 0x10 0x1000)) legacy = .next t) ∧
    (∃ t, exec (.translationRequest (rdReq 0x11 0x1000)) legacy = .next t) ∧
    (∃ t, exec (.translatedRequest (wr 0x11 0x1000)) legacy = .next t) ∧
    (∃ t, exec (.interruptRequest 0x10 0xFEE00218 3) remapping = .next t) ∧
    (∃ t, exec (.pageRequest pageMsg) scalable = .next t) ∧
    (∃ t, exec (.invalidationCompletion 0x0100 1 1) busy = .next t) :=
  by refine ⟨?_, ?_, ?_, ?_, ?_, ?_⟩ <;> exact exists_next (by decide +kernel)

/-- Hypotheses of ContextAndPasidCacheInvalidate, IotlbInvalidate, PasidIotlbInvalidate and InterruptCacheInvalidate: each
granularity, AM at and above MAMV, IM at MHMV. -/
theorem witness_Invalidate :
    (∀ g : BitVec 2, g ≠ 0 ↔ g = 1 ∨ g = 2 ∨ g = 3) ∧ queued.choice.coarser = 0 ∧ queued.caps.psi = true ∧
    2 ≤ queued.caps.verMax ∧ queued.caps.mamv = 18 ∧ queued.latchedRt.ttm ≠ 0 ∧ queued.caps.mhmv = 15 := by
  decide +kernel

/-- One ITag, taken. -/
def noTag : State :=
  { queued with plat := { queued.plat with numItag := 1 }, itags := [⟨0, 0x0100, 0⟩], iqPend := [.sent 0] }

theorem witness_DeviceTlbInvalidates :
    (queued.caps.dt = true ∧ queued.caps.dit = true ∧ queued.latchedRt.ttm ≠ 0 ∧ queued.onlySent ∧
      queued.freeTag = some 0 ∧
      ({ queued with choice := { Choice.plain with pick := 31 } } : State).freeTag = some 31) ∧
    (noTag.caps.dt = true ∧ noTag.caps.dit = true ∧ noTag.latchedRt.ttm ≠ 0 ∧ noTag.onlySent ∧ noTag.freeTag = none) :=
  ⟨⟨by decide +kernel, by decide +kernel, by decide +kernel, by unfold State.onlySent; decide +kernel, by decide +kernel⟩,
    ⟨by decide +kernel, by decide +kernel, by decide +kernel, by unfold State.onlySent; decide +kernel, by decide +kernel⟩⟩

/-- The three clauses of WaitCompletesOrWaits. -/
theorem witness_WaitCompletes :
    queued.iqPend = [] ∧ queued.fsts.ite = false ∧ queued.caps.pds = true ∧ queued.quiet .inv ∧ queued.memoryForm ∧
    queued.writable (4 * (0x44000 : BitVec 62).toNat) 4 = true :=
  ⟨rfl, rfl, by decide +kernel, Or.inl rfl, (by decide +kernel : Memory.wf queued.mem = true), by decide +kernel⟩

theorem witness_WaitWaits :
    noTag.onlySent ∧ noTag.iqPend ≠ [] ∧ noTag.caps.pds = true ∧
    rangeIsMemory noTag.plat (4 * (0x44000 : BitVec 62).toNat) 4 = true ∧
    rangeIsMemory noTag.plat (4 * (2 ^ 44 : BitVec 62).toNat) 4 = false :=
  ⟨by unfold State.onlySent; decide +kernel, by decide +kernel⟩

theorem witness_PageGroupResponse : noTag.latchedRt.ttm ≠ 0 ∧ noTag.onlySent :=
  ⟨by decide +kernel, by unfold State.onlySent; decide +kernel⟩

/-- A unit without any optional capability. -/
def bare : State := { State.reset with caps := { Caps.reset with cap := 0, ecap := 0, eccap1 := 0, vccap := 0 } }

theorem witness_InvalidationCompletions :
    (noTag.gsts.tes = true ∧ noTag.inFlight = [] ∧ noTag.onlySent ∧
      (∀ k < 32, bitAt (1 : BitVec 32) k = true → ∃ x ∈ noTag.itags, x.tag = k ∧ x.sid = 0x0100)) ∧
    State.reset.gsts.tes = false ∧ noTag.quiet .fault ∧ noTag.caps.dt = true ∧
    (bare.caps.dt = false ∧ bare.quiet .fault ∧ ({ bare with gsts := { bare.gsts with tes := true } } : State).gsts.tes = true ∧
      bare.inFlight = [] ∧ bare.itags = []) ∧
    (∃ k < 32, bitAt (2 : BitVec 32) k = true ∧ ∀ x ∈ noTag.itags, ¬ (x.tag = k ∧ x.sid = 0x0100)) :=
  ⟨⟨rfl, rfl, by unfold State.onlySent; decide +kernel, by decide +kernel⟩, rfl, Or.inl rfl, by decide +kernel,
    ⟨by decide +kernel, Or.inl rfl, rfl, rfl, rfl⟩, by decide +kernel⟩

/-- An unexpected completion: with Device-TLBs ICE is set, without them nothing happens (40 R915, 11 R250). -/
theorem test_unexpectedCompletion :
    nextIs (exec (.invalidationCompletion 0x0100 2 1) noTag) (fun t => t.fsts.ice && fstsWord t == 0x20) = true ∧
    nextIs (exec (.invalidationCompletion 0x0100 2 1) { bare with gsts := { bare.gsts with tes := true } })
      (fun t => !t.fsts.ice && !t.faultEv.ip && !t.faultStatusAny) = true := by decide +kernel

/-- A wait behind one Device-TLB invalidation that expects two completions and has had one. -/
def oneWait : State :=
  { queued with itags := [⟨0, 0x0100, 1⟩], iqPend := [.sent 0, .wait false true true false 0xAA 0x44000] }

theorem witness_CompletionReleasesWait :
    oneWait.gsts.tes = true ∧ oneWait.inFlight = [] ∧ oneWait.fsts.ite = false ∧ oneWait.memoryForm ∧
    oneWait.itags = [ITag.mk 0 0x0100 1] ∧ oneWait.iqPend = [.sent 0, .wait false true true false 0xAA 0x44000] ∧
    (∀ j < 32, bitAt (1 : BitVec 32) j = true ↔ j = 0) ∧ 1 + 1 = (if (2 : BitVec 3) = 0 then 8 else (2 : BitVec 3).toNat) ∧
    oneWait.writable (4 * (0x44000 : BitVec 62).toNat) 4 = true :=
  ⟨rfl, rfl, rfl, (by decide +kernel : Memory.wf oneWait.mem = true), rfl, rfl, by decide +kernel⟩

theorem witness_DescriptorQueueErrors :
    queued.quiet .fault ∧ queued.latchedRt.ttm ≠ 0 ∧ bare.caps.psi = false ∧
    ({ queued with caps := { queued.caps with ecap := 4 } } : State).caps.dt = true ∧
    ({ queued with caps := { queued.caps with ecap := 4 } } : State).caps.dit = false ∧
    bare.caps.pds = false ∧ bare.caps.dt = false ∧ bare.quiet .fault ∧ bare.latchedRt.ttm = 0 :=
  ⟨Or.inl rfl, by decide +kernel, by decide +kernel, by decide +kernel, by decide +kernel, by decide +kernel,
    by decide +kernel, Or.inl rfl, rfl⟩

/-- The queue with another tail. -/
def atTail (qt : BitVec 15) (ttm : BitVec 2) (dw : Bool) : State :=
  { queued with iq := { queued.iq with qt := qt, dw := dw }, latchedRt := { rta := 1, ttm := ttm } }

/-- A head left odd by 128-bit descriptors, DW set over it since: it counts as 8 (11 R280). -/
def oddHead (qt : BitVec 15) : State := { met (atTail qt 1 true) with iq := { (atTail qt 1 true).iq with qh := 9 } }

/-- R280: bit 4 of IQH_REG reads 0, the queue is empty at a tail of 8, and a fetch moves the head to 10. -/
theorem test_oddHead :
    regWindow (oddHead 8) 0x80 0 = 0x80 ∧ (oddHead 8).canFetch = false ∧ (oddHead 10).canFetch = true ∧
    (oddHead 10).headAddr = 0x100080 ∧ (oddHead 10).advanceHead.iq.qh = 10 := by decide +kernel

theorem witness_FetchConditions :
    (withEvent queued .iqTurn).nextEvent .iqTurn Choice.plain (met queued) ∧
    (met State.reset).advance.gsts.qies = false ∧
    (met (atTail 0 1 true)).advance.headUnit = (met (atTail 0 1 true)).advance.iq.qt.toNat ∧
    (oddHead 8).advance.headUnit = (oddHead 8).advance.iq.qt.toNat ∧ (oddHead 10).headUnit ≠ (oddHead 10).iq.qt.toNat ∧
    (met { queued with fsts := { queued.fsts with iqe := true } }).advance.fsts.iqe = true ∧
    (met { queued with fsts := { queued.fsts with ite := true } }).advance.fsts.ite = true ∧
    (∃ p ∈ (met oneWait).advance.iqPend, p.isFence = true) ∧
    ((met queued).iqPend = [] ∧ (met queued).gsts.qies = true ∧ (met queued).headUnit ≠ (met queued).iq.qt.toNat ∧
      (met queued).fsts.iqe = false ∧ (met queued).fsts.ite = false ∧ (met queued).quiet .fault) :=
  ⟨next_met _ _, by decide +kernel, by decide +kernel, by decide +kernel, by decide +kernel, by decide +kernel,
    by decide +kernel, by decide +kernel, rfl, rfl, by decide +kernel, rfl, rfl, Or.inl rfl⟩

/-- The queue-level errors, at the boundary of the tail: 131h with DW=1; 256 and 255 of 256 entries. -/
theorem witness_FetchErrors :
    ((atTail 0x131 1 true).iq.dw = true ∧ bitAt (atTail 0x131 1 true).iq.qt 0 = true) ∧
    (¬ ((atTail 256 0 false).iq.dw = true ∧ bitAt (atTail 256 0 false).iq.qt 0 = true) ∧
      2 ^ ((atTail 256 0 false).iq.qs.toNat + 8) ≤ (atTail 256 0 false).iq.qt.toNat) ∧
    (¬ ((atTail 255 2 false).iq.dw = true ∧ bitAt (atTail 255 2 false).iq.qt 0 = true) ∧
      (atTail 255 2 false).iq.qt.toNat < 2 ^ ((atTail 255 2 false).iq.qs.toNat + 8) ∧ (atTail 255 2 false).latchedRt.ttm = 2) ∧
    ((atTail 255 1 false).latchedRt.ttm = 1 ∧ (atTail 255 1 false).caps.smts = true ∧ (atTail 255 1 false).iq.dw = false) ∧
    bare.caps.smts = false ∧ bare.caps.adms = false ∧ (atTail 8 0 true).latchedRt.ttm = 0 := by decide +kernel

theorem witness_TimeoutAbortsWaits :
    (withEvent oneWait (.devTlbTimeout 0)).nextEvent (.devTlbTimeout 0) Choice.plain (met oneWait) ∧
    (met oneWait).itags = [ITag.mk 0 0x0100 1] ∧ (∀ p ∈ (met oneWait).iqPend, p = .sent 0 ∨ p.isWait = true) ∧
    (met oneWait).quiet .fault :=
  ⟨next_met _ _, rfl, by decide +kernel, Or.inl rfl⟩

/-- T-DMA-3: protected low memory [0010_0000h, 001F_FFFFh]. -/
def guarded : State :=
  { State.reset with pmr := { State.reset.pmr with epm := true, prs := true, plmBase := 0x100000, plmLimit := 0x100000 } }

/-- Hypotheses of TranslationEnableDisable, QueueAndInterruptCommands and ProtectedMemoryEnable. -/
theorem witness_RegisterCommands :
    State.reset.atOnce ∧ State.reset.caps.qi = true ∧ State.reset.caps.ir = true ∧ State.reset.caps.plmr = true ∧
    State.reset.pmr.prs = false ∧ guarded.pmr.prs = true ∧ guarded.atOnce ∧ guarded.caps.plmr = true :=
  ⟨rfl, by decide +kernel, by decide +kernel, by decide +kernel, rfl, rfl, rfl, by decide +kernel⟩

/-- A unit without ESRTPS that translates, with a cached context entry and another mode in RTADDR_REG. -/
def midway : State :=
  { bare with gsts := { bare.gsts with tes := true }, rtaddr := { rta := 1, ttm := 1 }, caches := { Caches.reset with ctx := [ctxEntry 1 1] } }

theorem witness_SetRootTablePointer :
    (State.reset.atOnce ∧ State.reset.gsts.tes = false) ∧
    (midway.atOnce ∧ ¬ (midway.gsts.tes = false ∨ midway.caps.esrtps = true ∨ midway.rtaddr.ttm = midway.latchedRt.ttm ∨
      (midway.caches.ctx = [] ∧ midway.caches.pasid = [] ∧ midway.caches.iotlb = [] ∧ midway.caches.psc = []))) :=
  ⟨⟨rfl, rfl⟩, rfl, by decide +kernel⟩

/-- A unit with a write buffer that holds one byte. -/
def withBuffer : State :=
  { State.reset with caps := { Caps.reset with cap := Config.capReg ||| 0x10 }, wbuf := [{ addr := 0x5000, data := [7] }] }

theorem witness_WriteBufferFlush :
    withBuffer.atOnce ∧ withBuffer.caps.rwbf = true ∧ withBuffer.memoryForm ∧
    withBuffer.wbuf = [] ++ { addr := 0x5000, data := [7] } :: [] ∧ 0 < [(7 : Byte)].length ∧
    (∀ q ∈ ([] : List StorePiece), ¬ q.names 0x5000) ∧
    ({ withBuffer with choice := { Choice.plain with defer := true } } : State).choice.defer = true ∧
    rangeIsMemory withBuffer.plat 0x5000 8 = true ∧ rangeIsMemory withBuffer.plat 0x5FF0 16 = true :=
  ⟨rfl, by decide +kernel, (by decide +kernel : Memory.wf withBuffer.mem = true), rfl, by decide, nofun, by decide +kernel⟩

/-- R511: an aligned store of 16 bytes waits as one piece, and one that crosses a block of 16 bytes as two. -/
theorem test_storePieces :
    storePieces 16 0x5FF0 (List.replicate 16 1) = [{ addr := 0x5FF0, data := List.replicate 16 1 }] ∧
    storePieces 8 0x500C (List.replicate 8 1) =
      [{ addr := 0x500C, data := List.replicate 4 1 }, { addr := 0x5010, data := List.replicate 4 1 }] := by decide +kernel

theorem witness_UnsupportedCommandIgnored :
    bare.caps.rwbf = false ∧ bare.caps.qi = false ∧ bare.caps.ir = false ∧ bare.caps.plmr = false ∧
    bare.caps.phmr = false := by decide +kernel

theorem witness_ContextCommand :
    State.reset.atOnce ∧
    ((6 ≤ State.reset.caps.verMax ∨ State.reset.latchedRt.ttm ≠ 0 ∨ (0 : BitVec 2) = 0 ∨ State.reset.gsts.qies = true)) ∧
    ¬ (6 ≤ State.reset.caps.verMax ∨ State.reset.latchedRt.ttm ≠ 0 ∨ (1 : BitVec 2) = 0 ∨ State.reset.gsts.qies = true) :=
  ⟨rfl, by decide +kernel⟩

/-- AM at MAMV, and one above it. -/
def withAm (am : BitVec 6) : State := { State.reset with iva := { addr := 0x40200, ih := false, am := am } }

theorem witness_IotlbCommand :
    (withAm 19).atOnce ∧ ((3 : BitVec 2) = 3 ∧ (withAm 19).caps.psi = true ∧ (withAm 19).caps.mamv < (withAm 19).iva.am.toNat) ∧
    ¬ (6 ≤ (withAm 18).caps.verMax ∨ (withAm 18).latchedRt.ttm ≠ 0 ∨ (3 : BitVec 2) = 0 ∨ (withAm 18).gsts.qies = true ∨
      ((3 : BitVec 2) = 3 ∧ (withAm 18).caps.psi = true ∧ (withAm 18).caps.mamv < (withAm 18).iva.am.toNat)) ∧
    2 ≤ (withAm 18).caps.verMax ∧ bare.caps.verMax = 5 ∧ (withAm 18).caps.drd = true ∧ (withAm 18).caps.dwd = true :=
  ⟨rfl, by decide +kernel⟩

theorem witness_ecmdReady (s : State) (h1 : s.caps.ecmds = true) (h2 : s.ecmd.ip = false) (h3 : s.choice.defer = false)
    (h4 : s.pendCmds = []) : s.ecmdReady := ⟨h1, h2, h3, by rw [State.noGcmdPending, h4]; rfl⟩

theorem witness_EnhancedCounterCommands :
    State.reset.ecmdReady ∧ bitAt State.reset.caps.eccap1 112 = true ∧ bitAt State.reset.caps.eccap1 114 = true ∧
    bitAt State.reset.caps.eccap1 115 = true ∧ bitAt State.reset.caps.eccap1 116 = true ∧
    bitAt State.reset.caps.eccap1 117 = true ∧ perfEnableChecks State.reset (3 : BitVec 48).toNat = true ∧
    perfEnableChecks State.reset (4 : BitVec 48).toNat = false :=
  ⟨witness_ecmdReady _ (by decide +kernel) rfl rfl rfl, by decide +kernel⟩

theorem witness_EnhancedDisable :
    State.reset.ecmdReady ∧ bitAt State.reset.caps.eccap1 113 = true ∧ State.reset.caps.ncntr ≤ (4 : BitVec 48).toNat ∧
    (3 : BitVec 48).toNat < State.reset.caps.ncntr ∧ State.reset.pendCmds = [] :=
  ⟨witness_ecmdReady _ (by decide +kernel) rfl rfl rfl, by decide +kernel⟩

/-- Enhanced commands present, none of them reported. -/
def noEccap : State := { State.reset with caps := { Caps.reset with eccap1 := 0 } }

theorem witness_EnhancedReserved :
    noEccap.ecmdReady ∧ noEccap.pendCmds = [] ∧ ((239 : BitVec 8) < 240 ∨ 245 < (239 : BitVec 8)) ∧
    ((246 : BitVec 8) < 240 ∨ 245 < (246 : BitVec 8)) ∧
    bitAt noEccap.caps.eccap1 112 = false ∧ bitAt noEccap.caps.eccap1 113 = false ∧ bitAt noEccap.caps.eccap1 114 = false ∧
    bitAt noEccap.caps.eccap1 115 = false ∧ bitAt noEccap.caps.eccap1 116 = false ∧ bitAt noEccap.caps.eccap1 117 = false :=
  ⟨witness_ecmdReady _ (by decide +kernel) rfl rfl rfl, by decide +kernel⟩

/-- No PASID left, and no virtual command reported. -/
def noPool : State := { State.reset with vcmd := { State.reset.vcmd with free := [], allocated := [0x105] } }

theorem witness_VirtualCommands :
    (State.reset.caps.vcs = true ∧ State.reset.vcmd.ip = false ∧ State.reset.atOnce) ∧
    bitAt State.reset.caps.vccap 0 = true ∧ bitAt State.reset.caps.vccap 1 = true ∧ bitAt State.reset.caps.vccap 2 = true ∧
    State.reset.vcmd.free ≠ [] ∧ noPool.vcmd.free = [] ∧ field (0x105 : BitVec 48) 0 20 ∈ noPool.vcmd.allocated ∧
    field (0x106 : BitVec 48) 0 20 ∉ noPool.vcmd.allocated ∧ State.reset.caps.pasids = true ∧ bare.caps.pasids = false ∧
    bitAt bare.caps.vccap 0 = false ∧
    bitAt bare.caps.vccap 1 = false ∧ bitAt bare.caps.vccap 2 = false :=
  ⟨⟨by decide +kernel, rfl, rfl⟩, by decide +kernel, by decide +kernel, by decide +kernel, by decide +kernel, rfl,
    by decide +kernel⟩

/-- A command of each interface that stays pending, as its completion finds it. -/
def pendingCmd (i : Instr) : State :=
  { guarded with
    pmr := { guarded.pmr with epm := false }
    ccmd := { icc := true, cirg := 1, caig := 0, fm := 0, sid := 2, did := 3 }
    iotlbReg := { ivt := true, iirg := 1, iaig := 0, dr := true, dw := true, did := 3 }
    ecmd := { State.reset.ecmd with oa := 2, cmd := 240, ip := true }
    vcmd := { State.reset.vcmd with cmd := 1, ip := true }
    pendCmds := [{ cmd := .instr i, root := { rta := 5, ttm := 0 }, irt := State.reset.irta }] }

theorem witness_PendingCommand :
    ({ State.reset with choice := { Choice.plain with defer := true } } : State).choice.defer = true ∧
    (State.reset.caps.qi = true ∧ State.reset.caps.ir = true ∧ State.reset.caps.plmr = true ∧ State.reset.caps.ecmds = true ∧
      State.reset.caps.vcs = true ∧ withBuffer.caps.rwbf = true) ∧
    encode (.ecmdEnable 2) = .ecmd 0x200F0 ∧ encode (.vcmdAllocate 0) = .vcmd 1 ∧
    (∀ i, (withEvent (pendingCmd i) .complete).nextEvent .complete Choice.plain (met (pendingCmd i)) ∧
      (met (pendingCmd i)).pendCmds = { cmd := .instr i, root := { rta := 5, ttm := 0 }, irt := State.reset.irta } :: []) ∧
    ((met (pendingCmd .pmenEpmDisable)).pmr.epm = false ∧ (met (pendingCmd .pmenEpmDisable)).pmr.prs = true) ∧
    ((met (pendingCmd (.ecmdEnable 2))).ecmd.oa = field (0x200F0 : BitVec 64) 16 48 ∧
      (met (pendingCmd (.ecmdEnable 2))).ecmd.cmd = field (0x200F0 : BitVec 64) 0 8) ∧
    ((met (pendingCmd (.vcmdAllocate 0))).vcmd.oa = field (1 : BitVec 64) 16 48 ∧
      (met (pendingCmd (.vcmdAllocate 0))).vcmd.cmd = field (1 : BitVec 64) 0 8) ∧
    (met (pendingCmd .gcmdSrtp)).caps.esrtps = true :=
  ⟨rfl, by decide +kernel, by rfl, by rfl, fun _ => ⟨next_met _ _, rfl⟩, ⟨rfl, rfl⟩, by decide +kernel⟩

/-- Every access kind at an address that is memory, and a write at one that is not (2^46). -/
theorem witness_BypassedRequest :
    (∀ r ∈ [wr 0x10 0x1000, rdReq 0x10 0x1000, { rdReq 0x10 0x1000 with access := .zlr },
        { wr 0x10 0x1000 with access := .atomic }, wr 0x10 (2 ^ 46)],
      Instr.wf (.untranslatedRequest r) = true ∧ inInterruptRange r.addr = false ∧
      pmrBlocks State.reset .untranslated r r.addr true = false) ∧
    State.reset.gsts.tes = false ∧ State.reset.quiet .perf ∧ State.reset.memoryForm ∧
        rangeIsMemory State.reset.plat (wr 0x10 0x1000).addr.toNat (wr 0x10 0x1000).len = true ∧
    rangeIsMemory State.reset.plat (wr 0x10 (2 ^ 46)).addr.toNat (wr 0x10 (2 ^ 46)).len = false :=
  ⟨by decide +kernel, rfl, Or.inl rfl,
    (by decide +kernel : Memory.wf State.reset.mem = true), by decide +kernel⟩

theorem witness_ProtectedMemoryBlocks :
    Instr.wf (.untranslatedRequest (wr 0x10 0x100000)) = true ∧ Instr.wf (.untranslatedRequest (rdReq 0x10 0x1FFFFC)) = true ∧
    guarded.gsts.tes = false ∧ inInterruptRange (0x100000 : Addr) = false ∧ guarded.pmr.prs = true ∧
    (wr 0x10 0x100000).cxlCache = false ∧ meetsPmr guarded 0x100000 4 = true ∧ meetsPmr guarded 0x1FFFFC 4 = true ∧
    guarded.quiet .perf :=
  ⟨by decide +kernel, by decide +kernel, rfl, by decide +kernel, rfl, rfl, by decide +kernel, by decide +kernel, Or.inl rfl⟩

/-- The context entries of `legacy`: SSPTPTR 3000h or none, the translation type, AW=001b, DID 1. -/
def legacyCe (lo : Nat) : BitVec 256 := BitVec.ofNat 256 (lo + 0x101 * 2 ^ 64)

theorem witness_legacyContext :
    legacy.legacyContext 0x10 0x2100 (legacyCe 0x3001) ∧ legacy.legacyContext 0x11 0x2110 (legacyCe 0x3005) ∧
    legacy.legacyContext 0x12 0x2120 (legacyCe 0x9) ∧ legacy.legacyOn ∧ legacy.uncached ∧ legacy.memoryForm ∧
    legacy.quiet .perf ∧ legacy.quiet .fault :=
  ⟨⟨⟨0x2001, by decide +kernel⟩, ⟨_, by decide +kernel, rfl⟩, by decide +kernel⟩,
    ⟨⟨0x2001, by decide +kernel⟩, ⟨_, by decide +kernel, rfl⟩, by decide +kernel⟩,
    ⟨⟨0x2001, by decide +kernel⟩, ⟨_, by decide +kernel, rfl⟩, by decide +kernel⟩,
    ⟨rfl, rfl⟩, ⟨rfl, rfl⟩, (by decide +kernel : Memory.wf legacy.mem = true), Or.inl rfl, Or.inl rfl⟩

/-- A second-stage entry on a walk that owes `want`. -/
def used (hpa : Addr) (e want : BitVec 64) : UsedEntry := { hpa := hpa, e := e, want := want, w := true }

/-- The three entries of `legacy` for page 1h. -/
def legacyPath : List UsedEntry := [used 0x3000 0x4003 0x100, used 0x4000 0x5003 0x100, used 0x5008 0xABCD003 0x100]

/-- The tables of `legacy` map page 1h by three levels; those of `legacy95` map page 4020_1h by four, the leaf granting reading
only; with an entry of 2 MBytes in place of the last table but one, a large page. -/
theorem witness_legacyMapped : legacy.legacyMapped (legacyCe 0x3001) 0x1234 legacyPath 12 ∧
    legacy.legacyMapped (legacyCe 0x3005) 0x1234 legacyPath 12 ∧
    legacy95.legacyMapped (BitVec.ofNat 256 (0x3001 + 0x102 * 2 ^ 64)) 0x40201234
      [used 0x3000 0x4003 0x100, used 0x4008 0x5003 0x100, used 0x5008 0x6003 0x100, used 0x6008 0xABCD001 0x100] 12 ∧
    ({ legacy with mem := memOf [(0x3000, 0x4003), (0x4000, 0xAA00083)] } : State).legacyMapped (legacyCe 0x3001) 0x1234
      [used 0x3000 0x4003 0x100, used 0x4000 0xAA00083 0x100] 21 :=
  ⟨⟨by decide +kernel, by rw [show levels (agawLevels (ceAw (legacyCe 0x3001))) = [30, 21, 12] by decide +kernel, legacyPath]
                          simp only [State.ssUses]; decide +kernel⟩,
    ⟨by decide +kernel, by rw [show levels (agawLevels (ceAw (legacyCe 0x3005))) = [30, 21, 12] by decide +kernel, legacyPath]
                           simp only [State.ssUses]; decide +kernel⟩,
    ⟨by decide +kernel, by rw [show levels (agawLevels (ceAw _)) = [39, 30, 21, 12] by decide +kernel]
                           simp only [State.ssUses]; decide +kernel⟩,
    ⟨by decide +kernel, by rw [show levels (agawLevels (ceAw (legacyCe 0x3001))) = [30, 21, 12] by decide +kernel]
                           simp only [State.ssUses]; decide +kernel⟩⟩

/-- A request of every kind to the same place. -/
def kinds (sid : SourceId) (a : Addr) : List MemReq :=
  [wr sid a, rdReq sid a, { rdReq sid a with access := .zlr }, { wr sid a with access := .atomic }]

/-- With the two theorems above: every hypothesis of LegacyTranslation, for requests of every kind. -/
theorem witness_LegacyTranslation :
    (∀ r ∈ kinds 0x10 0x1234, Instr.wf (.untranslatedRequest r) = true ∧ r.pasid = none ∧
      inInterruptRange r.addr = false ∧ legacy.outputOf (leafOf legacyPath) 12 r.addr = 0xABCD234 ∧
      pmrBlocks legacy .untranslated r 0xABCD234 false = false) ∧
    inInterruptRange (0xABCD234 : Addr) = false ∧ allSet legacyPath 0 = true ∧ allSet legacyPath 1 = true ∧
    ceTt (legacyCe 0x3001) = 0 ∧ ceTt (legacyCe 0x3005) = 1 ∧
    ({ legacy with choice := { Choice.plain with fill := [.iotlb] } } : State).choice.fill = [.iotlb] := by decide +kernel

/-- `legacy` with a cached translation of page 7h, which its tables do not map. -/
def warm : State :=
  { legacy with
    choice := { Choice.plain with use := [.iotlb] }
    caches := { Caches.reset with iotlb := [{ iotlbEntry 1 0x7000 with pgtt := 2, ce := legacyCe 0x3001 }] } }

/-- Every hypothesis of the second half of LegacyTranslation. -/
theorem witness_CachedTranslation :
    (∀ y, (y ∈ warm.caches.iotlb ∧ y.serves warm.plat.iotlbCrossHit false 0x10 none 0x7234 = true) ↔
      y = { iotlbEntry 1 0x7000 with pgtt := 2, ce := legacyCe 0x3001 }) ∧
    warm.legacyOn ∧ warm.choice.use = [.iotlb] ∧ warm.choice.fill = [] ∧
    (ceP (legacyCe 0x3001) = true ∧ ctxRsvd warm.caps warm.plat.haw (legacyCe 0x3001) = false ∧
      warm.caps.awOk (ceAw (legacyCe 0x3001)) = true ∧ usesFs 2 = false ∧ peSsade 0 = false) ∧
    (iotlbEntry 1 0x7000).page.output 0x7234 = 0xABCD234 ∧
    ∀ r ∈ kinds 0x10 0x7234, Instr.wf (.untranslatedRequest r) = true ∧
        pmrBlocks warm .untranslated r 0xABCD234 false = false := by
  refine ⟨fun y => ⟨fun h => ?_, fun h => ?_⟩, ⟨rfl, rfl⟩, rfl, rfl, by decide +kernel⟩
  · simpa [warm] using h.1
  · subst h; exact ⟨by simp [warm], by decide +kernel⟩

theorem witness_LegacyPassThrough :
    (∀ r ∈ kinds 0x12 0x5000, Instr.wf (.untranslatedRequest r) = true ∧ r.pasid = none ∧
      pmrBlocks legacy .untranslated r 0x5000 true = false) ∧
    inInterruptRange (0x5000 : Addr) = false ∧ ceTt (legacyCe 0x9) = 2 ∧ (0x5000 : Addr).toNat < legacy.hpaEnd := by
  decide +kernel

/-- With witness_legacyContext and witness_legacyMapped: every hypothesis of TranslationRequestAnswered. -/
theorem witness_TranslationRequestAnswered :
    Instr.wf (.translationRequest (rdReq 0x11 0x1234)) = true ∧ State.reset.gsts.tes = false ∧ State.reset.quiet .perf ∧
    ceTt (legacyCe 0x3005) = 1 ∧ inInterruptRange (0x1234 : Addr) = false ∧ allSet legacyPath 0 = true ∧
    regionMeetsInterruptRange (pgAddr legacy.plat.haw (leafOf legacyPath) 12) 12 = false :=
  ⟨by decide +kernel, rfl, Or.inl rfl, by decide +kernel⟩

/-- `legacy` for device 0011h with a 2-MByte page that may only be written. -/
def writeOnly : State :=
  { legacy with mem := memOf [(0x1000, 0x2001), (0x2110, 0x3005), (0x2118, 0x101), (0x3000, 0x4003), (0x4000, 0xAA00082)] }

/-- 43 R1060: of a page that may only be written, a request that asks for no write gets no permission, any other gets W. -/
theorem test_completionWithoutPermissions :
    writeOnly.caps.nwfs = true ∧
    nextIs (exec (.translationRequest (rdReq 0x11 0x1234)) writeOnly) (fun t => match t.out with
      | .respond 0x11 (.translation c) :: _ => !c.r && c.w && c.s
      | _ => false) = true ∧
    nextIs (exec (.translationRequest { rdReq 0x11 0x1234 with nw := true }) writeOnly) (fun t => match t.out with
      | .respond 0x11 (.translation c) :: _ => !c.r && !c.w && c.addr == 0
      | _ => false) = true := by decide +kernel

theorem witness_TranslatedRequestForwarded :
    (∀ r ∈ kinds 0x11 0x5000, Instr.wf (.translatedRequest r) = true ∧ r.cxlCache = false ∧
      Instr.wf (.translatedRequest { r with cxlCache := true }) = true ∧
      pmrBlocks legacy .translated r 0x5000 false = false) ∧
    (0x5000 : Addr).toNat < legacy.hpaEnd ∧ inInterruptRange (0x5000 : Addr) = false ∧ ceTt (legacyCe 0x3005) = 1 := by
  decide +kernel

/-- With `witness_scalableContext`: the scalable-mode clause of TranslatedRequestForwarded, for requests of every kind. -/
theorem witness_TranslatedRequestScalable :
    (∀ r ∈ kinds 0x10 0x5000, Instr.wf (.translatedRequest r) = true ∧ r.cxlCache = false ∧
      pmrBlocks scalable .translated r 0x5000 false = false) ∧
    (scalable.gsts.tes = true ∧ scalable.latchedRt.ttm = 1 ∧ scalable.caps.smts = true) ∧ smDte 0x801D = true ∧
    (smRidPasid scalable.caps 0x801D).toNat < 2 ^ scalable.caps.pssBits ∧ (0x5000 : Addr).toNat < scalable.hpaEnd := by
  decide +kernel

theorem witness_ZeroLengthReadOfInterruptRange :
    Instr.wf (.untranslatedRequest { rdReq 0x10 0xFEE00000 with access := .zlr }) = true ∧
    (rdReq 0x10 0xFEE00000).pasid = none ∧ inInterruptRange (0xFEE00000 : Addr) = true ∧
    inInterruptRange (0xFEEFFFFC : Addr) = true ∧ State.reset.quiet .perf :=
  ⟨by decide +kernel, rfl, by decide +kernel, by decide +kernel, Or.inl rfl⟩

/-- Compatibility format blocked (CFIS=0) and passed (CFIS=1). -/
theorem witness_InterruptNotRemapped :
    (State.reset.gsts.ires = false ∧ State.reset.inFlight = [] ∧ State.reset.quiet .perf) ∧
    (remapping.gsts.ires = true ∧ bitAt (0xFEE01000 : BitVec 32) 4 = false ∧ remapping.inFlight = [] ∧ remapping.quiet .perf ∧
      remapping.gsts.cfis = false ∧ remapping.recordFree 0x10 ∧ remapping.quiet .fault ∧ remapping.latchedIr.eime = false) ∧
    ({ remapping with gsts := { remapping.gsts with cfis := true } } : State).gsts.cfis = true :=
  ⟨⟨rfl, rfl, Or.inl rfl⟩,
    ⟨rfl, by decide +kernel, rfl, Or.inl rfl, rfl, ⟨rfl, ⟨Frcd.reset, by decide +kernel, rfl⟩, by decide +kernel⟩, Or.inl rfl,
        rfl⟩,
    rfl⟩

/-- The request for each entry of `remapping`, and for index 32, the first beyond the table. -/
theorem witness_remapsTo :
    remapping.remapsTo 0xFEE00218 3 0x13 0x0000010000310001 ∧ remapping.remapsTo 0xFEE002D0 0 0x16 0x0000800000318001 ∧
    remapping.remapsTo 0xFEE00290 0 0x14 0 ∧ remapping.remapsTo 0xFEE002B0 0 0x15 2 := by
  refine ⟨?_, ?_, ?_, ?_⟩ <;>
    exact ⟨rfl, by decide +kernel, by decide +kernel, by decide +kernel, by decide +kernel, ⟨rfl, rfl⟩, by decide +kernel,
        by decide +kernel⟩

theorem witness_InterruptRemapped :
    irteFault remapping 0x10 0x0000010000310001 = none ∧ irteIm 0x0000010000310001 = false ∧ remapping.inFlight = [] := by
  decide +kernel

theorem witness_InterruptPosted :
    irteFault remapping 0x10 0x0000800000318001 = none ∧ irteIm 0x0000800000318001 = true ∧
    (irtePid 0x0000800000318001).toNat = 0x8000 ∧ remapping.readable 0x8000 64 = true ∧ remapping.writable 0x8000 64 = true ∧
    readNat remapping.flush.mem 0x8000 64 = 0x0000010000F20000 * 2 ^ 256 ∧
    pidRsvd remapping.latchedIr.eime (BitVec.ofNat 512 (0x0000010000F20000 * 2 ^ 256)) = false ∧
    Memory.wf remapping.mem = true := by decide +kernel

/-- Entries that refuse a request, for each reason of irteRefuses: not present; reserved bit 12; the requester not 0011h; a
descriptor that reads poisoned; a descriptor with a reserved bit set (bit 258). -/
theorem witness_irteRefuses :
    remapping.irteRefuses 0x10 0 0x22 ∧ remapping.irteRefuses 0x10 0x0000010000311001 0x24 ∧
    remapping.irteRefuses 0x10 (BitVec.ofNat 128 (0x0000010000310001 + 0x40011 * 2 ^ 64)) 0x26 ∧
    ({ remapping with choice := { Choice.plain with badReads := [0x8000] } } : State).irteRefuses 0x10 0x0000800000318001 0x27 ∧
    ({ remapping with mem := writeNat remapping.mem 0x8020 8 4 } : State).irteRefuses 0x10 0x0000800000318001 0x28 :=
  ⟨.inl (by decide +kernel), .inr (.inl ⟨rfl, by decide +kernel⟩),
    .inr (.inr (.inl (by decide +kernel))), .inr (.inr (.inr ⟨by decide +kernel, by decide +kernel, .inl (by decide +kernel)⟩)),
    .inr (.inr (.inr ⟨by decide +kernel, by decide +kernel, .inr (by decide +kernel)⟩))⟩

/-- With witness_remapsTo: indexes 1Fh and 20h at the end of the table, an entry that cannot be read, a subhandle with a
reserved field, and a table that ends beyond 2^HAW. -/
theorem witness_InterruptFaults :
    remapping.quiet .perf ∧ remapping.quiet .fault ∧ remapping.recordFree 0x10 ∧ irteFpd 0 = false ∧ irteFpd 2 = true ∧
    2 ^ (remapping.latchedIr.size.toNat + 1) = interruptIndex 0xFEE00410 0 ∧ interruptIndex 0xFEE003F0 0 = 0x1F ∧
    (intShv 0xFEE00218 = true ∧ field (0x10003 : BitVec 32) 16 16 ≠ 0) ∧
    ({ remapping with choice := { Choice.plain with badReads := [0x7130] } } : State).readable
      (remapping.pageBase remapping.latchedIr.irta + 16 * 0x13) 16 = false ∧
    ({ remapping with plat := { remapping.plat with haw := 13 }, latchedIr := { remapping.latchedIr with irta := 1, size := 15 } } :
        State).hpaEnd ≤
      ({ remapping with plat := { remapping.plat with haw := 13 }, latchedIr := { remapping.latchedIr with irta := 1, size := 15 } } :
        State).pageBase 1 + 16 * 0x100 :=
  ⟨Or.inl rfl, Or.inl rfl, ⟨rfl, ⟨Frcd.reset, by decide +kernel, rfl⟩, by decide +kernel⟩, by decide +kernel⟩

/-- R1023: a read, an AtomicOp and a write of two DWORDs to the interrupt range. -/
theorem witness_IllegalInterruptRange :
    ∀ r ∈ [rdReq 0x10 0xFEE00000, { wr 0x10 0xFEE00000 with access := .atomic },
        { wr 0x10 0xFEE00000 with len := 8, data := [1, 2, 3, 4, 5, 6, 7, 8] }],
      Instr.wf (.untranslatedRequest r) = true ∧ r.pasid = none ∧ inInterruptRange r.addr = true ∧ r.access ≠ .zlr := by
  decide +kernel

/-- The PASID-table entry of PASID 5 in `scalable`. -/
@[irreducible] def scalablePe : BitVec 512 := BitVec.ofNat 512 (0x41 + 0x800007 * 2 ^ 64 + 0x6000 * 2 ^ 128)
/-- That of PASID 6. -/
@[irreducible] def secondPe : BitVec 512 := BitVec.ofNat 512 (0xD285 + 0x800007 * 2 ^ 64)
/-- That of PASID 7. -/
@[irreducible] def nestedPe : BitVec 512 := BitVec.ofNat 512 (0xD2C5 + 0x800007 * 2 ^ 64 + 0x6000 * 2 ^ 128)
/-- That of PASID 0. -/
@[irreducible] def throughPe : BitVec 512 := BitVec.ofNat 512 (0x101 + 7 * 2 ^ 64)

theorem witness_scalableContext : scalable.scalableContext 0x10 0x2200 0x801D :=
  ⟨⟨0x2001, by decide +kernel⟩, ⟨0x801D, by decide +kernel, rfl⟩, by decide +kernel⟩

theorem witness_scalableOn : scalable.scalableOn := ⟨rfl, rfl, by decide +kernel⟩

theorem witness_scalablePasid :
    scalable.scalablePasid 0x801D 5 0x8000 0x9140 scalablePe ∧ scalable.scalablePasid 0x801D 6 0x8000 0x9180 secondPe ∧
    scalable.scalablePasid 0x801D 7 0x8000 0x91C0 nestedPe ∧ scalable.scalablePasid 0x801D 0 0x8000 0x9000 throughPe := by
  refine ⟨⟨0x9001, ?_⟩, ⟨0x9001, ?_⟩, ⟨0x9001, ?_⟩, ⟨0x9001, ?_⟩⟩ <;>
    (unfold State.pasidDirectory State.pasidTable State.pasidProgrammed; decide +kernel)

theorem witness_pageLookup : scalable.pageLookup pageMsg 0x2200 0x8000 0x9140 5 scalablePe :=
  ⟨witness_scalableOn, ⟨rfl, rfl⟩, _, witness_scalableContext, by decide +kernel, by unfold State.pagePasid; decide +kernel,
    witness_scalablePasid.1⟩

/-- The same for the other translation types: second stage, nested, and pass-through by RID_PASID. -/
theorem witness_pageLookupTypes :
    scalable.pageLookup { pageMsg with pasid := 6 } 0x2200 0x8000 0x9180 6 secondPe ∧
    scalable.pageLookup { pageMsg with pasid := 7 } 0x2200 0x8000 0x91C0 7 nestedPe ∧
    scalable.pageLookup { pageMsg with pp := false, pasid := 0 } 0x2200 0x8000 0x9000 0 throughPe ∧
    pePgtt secondPe = 2 ∧ pePgtt nestedPe = 3 ∧ pePgtt throughPe = 4 :=
  ⟨⟨witness_scalableOn, ⟨rfl, rfl⟩, _, witness_scalableContext, by decide +kernel,
      by unfold State.pagePasid; decide +kernel, witness_scalablePasid.2.1⟩,
    ⟨witness_scalableOn, ⟨rfl, rfl⟩, _, witness_scalableContext, by decide +kernel,
      by unfold State.pagePasid; decide +kernel, witness_scalablePasid.2.2.1⟩,
    ⟨witness_scalableOn, ⟨rfl, rfl⟩, _, witness_scalableContext, by decide +kernel,
      by unfold State.pagePasid; decide +kernel, witness_scalablePasid.2.2.2⟩,
    by decide +kernel, by decide +kernel, by decide +kernel⟩

/-- The queue with room, full (entry 127 of 128), and with PRO set. -/
theorem witness_PageRequestQueued :
    scalable.prq.pro = false ∧ scalable.prqFull = false ∧ scalable.writable scalable.prqAddr 32 = true ∧ scalable.quiet .perf ∧
    scalable.quiet .page ∧ scalable.memoryForm ∧ pePgtt scalablePe = 1 ∧
    ({ scalable with prq := { scalable.prq with pqt := 127 } } : State).prqFull = true ∧
    ({ scalable with prq := { scalable.prq with pro := true } } : State).prq.pro = true ∧ State.reset.gsts.tes = false :=
  ⟨rfl, by decide +kernel, by decide +kernel, Or.inl rfl, Or.inl rfl, (by decide +kernel : Memory.wf scalable.mem = true),
    by decide +kernel, by decide +kernel, rfl, rfl⟩

theorem witness_PageDescriptorWritten :
    ({ scalable with prq := { scalable.prq with pqa := 0x400000000 } } : State).writable
      ({ scalable with prq := { scalable.prq with pqa := 0x400000000 } } : State).prqAddr 32 = true ∧
    ({ scalable with choice := { Choice.plain with badWrites := [0x200000] } } : State).writable
      ({ scalable with choice := { Choice.plain with badWrites := [0x200000] } } : State).prqAddr 32 = false := by
  decide +kernel

/-- An unmasked event whose message address is plain memory (F000h). -/
def plainEvent : State :=
  { State.reset with invEv := { State.reset.invEv with im := false, imd := 0x50, ma := 0x3C00 } }

/-- The same event, masked and held. -/
def heldEvent : State := { plainEvent with invEv := { plainEvent.invEv with im := true, ip := true } }

theorem witness_EventRaised :
    plainEvent.choice.hold = false ∧ ¬ plainEvent.quiet .inv ∧ plainEvent.memoryForm ∧ State.reset.quiet .inv ∧
    (∀ e : EventName, fixedAt (met State.reset) e.controlOffset = true) ∧
    (withEvent heldEvent (.softWrite 0xA0 4 0)).nextEvent (.softWrite 0xA0 4 0) Choice.plain (met heldEvent) ∧
    ((met heldEvent).evRegs .inv).im = true ∧ ((met heldEvent).evRegs .inv).ip = true ∧
    ((met heldEvent).evRegs .inv).isInterrupt = false ∧
    (met heldEvent).writable ((met heldEvent).evRegs .inv).msgAddr.toNat 4 = true :=
  ⟨rfl, by unfold State.quiet; decide +kernel, (by decide +kernel : Memory.wf plainEvent.mem = true), Or.inl rfl,
    fun e => by cases e <;> decide +kernel, next_met _ _, rfl, rfl, by decide +kernel⟩

/-- A fault report: its record when the slot is free, when it is taken, and when FPD suppresses it. -/
theorem witness_FaultReported :
    State.reset.quiet .fault ∧ State.reset.fsts.pfo = false ∧ State.reset.plat.faultCompression = false ∧
    (∃ old, State.reset.frcd[State.reset.faultIdx]? = some old ∧ old.f = false) ∧
    (∃ old, ({ State.reset with frcd := [{ Frcd.reset with f := true }, Frcd.reset] } : State).frcd[State.reset.faultIdx]? =
      some old ∧ old.f = true) :=
  ⟨Or.inl rfl, rfl, rfl, ⟨_, rfl, rfl⟩, ⟨_, rfl, rfl⟩⟩

/-- A unit with a fault record set, and a variable-range MTRR pair for the lowest 2 GBytes but the first MByte's fixed ranges.
-/
def written : State :=
  { State.reset with
    frcd := [{ Frcd.reset with f := true }, Frcd.reset]
    mtrr := { State.reset.mtrr with
              var := [{ base := 0, type := 6, mask := 0x3FFF80000, valid := true },
                  { base := 0, type := 4, mask := 0x3FFF80000, valid := true }] } }

/-- FRCD[0].F stands at 22Ch; MTRRDEF_REG at 108h; addresses that one pair, both pairs or none cover. -/
theorem witness_RegisterAccesses :
    (withEvent State.reset (.softWrite 0x34 4 0x71)).nextEvent (.softWrite 0x34 4 0x71) Choice.plain (met State.reset) ∧
    (withEvent State.reset (.softWrite 0x20 8 0x1400)).nextEvent (.softWrite 0x20 8 0x1400) Choice.plain (met State.reset) ∧
    (withEvent State.reset (.softRead 0x1C 4)).nextEvent (.softRead 0x1C 4) Choice.plain (met State.reset) ∧
    (withEvent written (.softWrite 0x22C 4 0x80000000)).nextEvent (.softWrite 0x22C 4 0x80000000) Choice.plain (met written) ∧
    (0x22C = 16 * (met written).caps.fro + 16 * 0 + 12 ∧ 0 < (met written).frcd.length ∧
      0x22C < (met written).plat.regBytes ∧ fixedAt (met written) (0x22C - 4) = false ∧
      (met written).caps.iro ≠ (met written).caps.fro + 0) ∧
    (withEvent written (.softWrite 0x108 8 0xC06)).nextEvent (.softWrite 0x108 8 0xC06) Choice.plain (met written) ∧
    ((met written).caps.mts = true ∧ (met written).caps.iro ≠ 16 ∧ (met written).caps.vcnt = 10 ∧
      bitAt (0xC06 : BitVec 64) 11 = true ∧ field (0xC06 : BitVec 64) 0 8 = 6) ∧
    0 < (met State.reset).plat.regPages ∧ (met State.reset).iotlbReg.ivt = false :=
  ⟨next_met _ _, next_met _ _, next_met _ _, next_met _ _, by decide +kernel, next_met _ _, by decide +kernel,
    by decide +kernel, rfl⟩

theorem witness_covers :
    (∀ m ∈ written.mtrr.var, m.covers 0x100000 ∧ m.covers 0x7FFFFFFF ∧ ¬ m.covers 0x80000000) := by
  unfold MtrrVar.covers
  decide +kernel

/-- Counter 0 counts event 0 of group 0; at 2^48 - 1 it overflows, below that it counts. -/
def counting (v : BitVec 64) : PerfCounter := { PerfCounter.reset with es := 1, en := true, value := v }

/-- One occurrence of event 0 of group 0. -/
def occurrence : Occurrence := ⟨0, 0, 0x10, none, none, 0, none, 1⟩

theorem witness_CounterCounts :
    ({ State.reset with perf := { pis := false, counters := [counting 0xFFFFFFFFFFFF] } } : State).perf.counters[0]? =
      some (counting 0xFFFFFFFFFFFF) ∧
    (counting 5).en = true ∧ (counting 5).frozen = false ∧ (counting 5).egi.toNat = occurrence.group ∧
    bitAt (counting 5).es occurrence.event = true ∧ filterPass (counting 5) occurrence = true ∧
    filterPass (counting 0xFFFFFFFFFFFF) occurrence = true ∧ State.reset.quiet .perf ∧
    (counting 0xFFFFFFFFFFFE).value.toNat + occurrence.amount < 2 ^ State.reset.caps.counterWidth 0 ∧
    2 ^ State.reset.caps.counterWidth 0 ≤ (counting 0xFFFFFFFFFFFF).value.toNat + occurrence.amount :=
  ⟨rfl, rfl, rfl, by decide +kernel, by decide +kernel, by decide +kernel, by decide +kernel, Or.inl rfl, by decide +kernel⟩

theorem witness_StickyFieldsSurvive :
    (withEvent busy (.reset false)).nextEvent (.reset false) Choice.plain (met busy) ∧
    (withEvent busy (.reset true)).nextEvent (.reset true) Choice.plain (met busy) := ⟨next_met _ _, next_met _ _⟩

/-- The constants of State.reset form a legal unit on a legal platform (10_state.md R123; 00_scope.md R7). -/
theorem test_legal : Caps.legal Caps.reset 46 = true ∧ Platform.legal Platform.reset Caps.reset = true := by decide +kernel

/-- R1232: 15 event groups are legal, 16 are not. -/
theorem test_eventGroups :
    [(15 : BitVec 64), 16].map (fun (g : BitVec 64) => Caps.legal
      { Caps.reset with perfcap := (Caps.reset.perfcap &&& ~~~(0x1F000000 : BitVec 64)) ||| (g <<< (24 : Nat)) } 46) = [true, false] := by decide +kernel

/-! ## Scalable translations: the entries used, for each translation type -/

/-- A first-stage entry where nothing nests it. -/
theorem fsPlace_here (s : State) (pe : BitVec 512) (a : Addr) (h : pePgtt pe ≠ 3) : s.fsPlace pe a a true [] := by
  rw [State.fsPlace, if_neg h]
  exact ⟨rfl, rfl, rfl⟩

/-- A first-stage entry where the second stage puts it. -/
theorem fsPlace_nested (s : State) (pe : BitVec 512) (a b : Addr) (l : List UsedEntry) (k : Nat) (h : pePgtt pe = 3)
    (w : allSet l 1 = true) (p : s.ssTranslates pe (placingAccess pe) a b l k) :
    s.fsPlace pe a b true l := by
  rw [State.fsPlace, if_pos h]
  exact ⟨⟨k, p⟩, w.symm⟩

/-- The first-stage entries for address 1234h: A in each, D in the leaf where `d`. -/
def firstPath (d : Bool) : List UsedEntry :=
  [used 0x6000 0xA007 0x20, used 0xA000 0xB007 0x20, used 0xB000 0xC007 0x20, used 0xC008 0xABCD007 (if d then 0x60 else 0x20)]

/-- The second-stage entries for a guest address in the lowest 2 MBytes, of a writing access. -/
def lowPath : List UsedEntry := [used 0xD000 0xE003 0x100, used 0xE000 0x83 0x300]

/-- Those for a guest address in the 2 MBytes at AA0_0000h. -/
def highPath : List UsedEntry := [used 0xD000 0xE003 0x100, used 0xE2A8 0xAA00083 0x300]

theorem low_translates (a : Addr) (h : a ∈ [0x6000, 0xA000, 0xB000, 0xC008]) :
    scalable.ssTranslates nestedPe .atomic a a lowPath 21 := by
  fin_cases h <;>
  · refine ⟨⟨by decide +kernel, ?_⟩, ⟨by decide +kernel, by decide +kernel⟩, by decide +kernel⟩
    rw [show levels (agawLevels (peAw nestedPe)) = [30, 21, 12] by decide +kernel, lowPath]
    simp only [State.ssUses]; decide +kernel

theorem high_translates (pe : BitVec 512) (h : pe = secondPe ∨ pe = nestedPe) :
    scalable.ssTranslates pe .write 0xABCD234 0xABCD234 highPath 21 := by
  rcases h with rfl | rfl <;>
  · refine ⟨⟨by decide +kernel, ?_⟩, by unfold ssGrants; decide +kernel, by decide +kernel⟩
    rw [show levels (agawLevels (peAw _)) = [30, 21, 12] by decide +kernel, highPath]
    simp only [State.ssUses]; decide +kernel

theorem first_uses (d : Bool) : scalable.fsUses scalablePe d 0x1234 [39, 30, 21, 12] 0x6000 (firstPath d) [] 12 := by
  have q : pePgtt scalablePe ≠ 3 := by decide +kernel
  have p : ∀ a, scalable.fsPlace scalablePe a a true [] := fun a => fsPlace_here _ _ a q
  have b : ∀ e k, scalable.fsInBound scalablePe e k := fun e k h => absurd h q
  cases d
  all_goals
    refine ⟨[], [], rfl, p 0x6000, by decide +kernel, by decide +kernel, by decide +kernel, b _ _, by decide +kernel, ?_⟩
    refine ⟨[], [], rfl, p 0xA000, by decide +kernel, by decide +kernel, by decide +kernel, b _ _, by decide +kernel, ?_⟩
    refine ⟨[], [], rfl, p 0xB000, by decide +kernel, by decide +kernel, by decide +kernel, b _ _, by decide +kernel, ?_⟩
    exact ⟨[], [], rfl, p 0xC008, by decide +kernel, by decide +kernel, by decide +kernel, b _ _, by decide +kernel,
      by rw [if_pos (by decide +kernel)]; exact ⟨rfl, rfl, rfl⟩⟩

theorem nested_uses (d : Bool) :
    scalable.fsUses nestedPe d 0x1234 [39, 30, 21, 12] 0x6000 (firstPath d) (lowPath ++ lowPath ++ lowPath ++ lowPath) 12 := by
  have q : pePgtt nestedPe = 3 := by decide +kernel
  have g : placingAccess nestedPe = .atomic := by decide +kernel
  have p : ∀ a ∈ [0x6000, 0xA000, 0xB000, 0xC008], scalable.fsPlace nestedPe a a true lowPath := fun a h =>
    fsPlace_nested _ _ a a _ 21 q (by decide +kernel) (by rw [g]; exact low_translates a h)
  cases d
  all_goals
    refine ⟨lowPath, _, by rfl, p 0x6000 (by decide), by decide +kernel, by decide +kernel, by decide +kernel,
      by unfold State.fsInBound; decide +kernel, by decide +kernel, ?_⟩
    refine ⟨lowPath, _, by rfl, p 0xA000 (by decide), by decide +kernel, by decide +kernel, by decide +kernel,
      by unfold State.fsInBound; decide +kernel, by decide +kernel, ?_⟩
    refine ⟨lowPath, _, by rfl, p 0xB000 (by decide), by decide +kernel, by decide +kernel, by decide +kernel,
      by unfold State.fsInBound; decide +kernel, by decide +kernel, ?_⟩
    exact ⟨lowPath, [], by rfl, p 0xC008 (by decide), by decide +kernel, by decide +kernel, by decide +kernel,
      by unfold State.fsInBound; decide +kernel, by decide +kernel,
      by rw [if_pos (by decide +kernel)]; exact ⟨rfl, rfl, rfl⟩⟩

/-- With the flags of a read (`false`) or of a write: the first-stage tables of `scalable` map page 1h, alone and nested. -/
theorem first_maps (d : Bool) : scalable.fsMaps scalablePe d 0x1234 (firstPath d) [] 12 := by
  refine ⟨by decide +kernel, ?_⟩
  rw [show fsLevelsOf scalablePe = [39, 30, 21, 12] by decide +kernel,
    show peFsptptr scalable.plat.haw scalablePe = 0x6000 by decide +kernel]
  exact first_uses d

theorem nested_maps (d : Bool) :
    scalable.fsMaps nestedPe d 0x1234 (firstPath d) (lowPath ++ lowPath ++ lowPath ++ lowPath) 12 := by
  refine ⟨by decide +kernel, ?_⟩
  rw [show fsLevelsOf nestedPe = [39, 30, 21, 12] by decide +kernel,
    show peFsptptr scalable.plat.haw nestedPe = 0x6000 by decide +kernel]
  exact nested_uses d

/-- A write of device 0010h with a PASID. -/
def pasidWr (p : Pasid) (a : Addr) : MemReq := { wr 0x10 a with pasid := some ⟨p, false, false⟩ }

/-- The requests reach their PASID-table entries. -/
theorem witness_requestEntry :
    scalable.requestEntry (pasidWr 5 0x1234) 0x2200 0x8000 0x9140 0x801D 5 scalablePe ∧
    scalable.requestEntry (pasidWr 6 0xABCD234) 0x2200 0x8000 0x9180 0x801D 6 secondPe ∧
    scalable.requestEntry (pasidWr 7 0x1234) 0x2200 0x8000 0x91C0 0x801D 7 nestedPe ∧
    scalable.requestEntry (wr 0x10 0x5000) 0x2200 0x8000 0x9000 0x801D 0 throughPe := by
  exact ⟨⟨⟨witness_scalableOn, witness_scalableContext, ⟨by decide +kernel, rfl, by decide +kernel⟩,
        witness_scalablePasid.1⟩, by decide +kernel, fun p e => by cases e; nofun⟩,
    ⟨⟨witness_scalableOn, witness_scalableContext, ⟨by decide +kernel, rfl, by decide +kernel⟩,
        witness_scalablePasid.2.1⟩, by decide +kernel, fun p e => by cases e; nofun⟩,
    ⟨⟨witness_scalableOn, witness_scalableContext, ⟨by decide +kernel, rfl, by decide +kernel⟩,
        witness_scalablePasid.2.2.1⟩, by decide +kernel, fun p e => by cases e; nofun⟩,
    ⟨⟨witness_scalableOn, witness_scalableContext,
        ⟨by decide +kernel, (by decide +kernel : (0 : Pasid) = smRidPasid scalable.caps 0x801D)⟩,
        witness_scalablePasid.2.2.2⟩, by decide +kernel, nofun⟩⟩

/-- Their tables map them: first stage, second stage, nested, pass-through. -/
theorem witness_scalableMapped :
    scalable.scalableMapped scalablePe false .write 0x1234 0xABCD234 (firstPath true) [] [] 12 ∧
    scalable.scalableMapped secondPe false .write 0xABCD234 0xABCD234 [] [] highPath 12 ∧
    scalable.scalableMapped nestedPe false .write 0x1234 0xABCD234 (firstPath true)
      (lowPath ++ lowPath ++ lowPath ++ lowPath) highPath 12 ∧
    scalable.scalableMapped throughPe false .write 0x5000 0x5000 [] [] [] 12 := by
  refine ⟨?_, ?_, ?_, ?_⟩
  · rw [State.scalableMapped, show (pePgtt scalablePe).toNat = 1 by decide +kernel]
    exact ⟨⟨first_maps true, .inr (by decide +kernel), by decide +kernel, by decide +kernel⟩, rfl⟩
  · rw [State.scalableMapped, show (pePgtt secondPe).toNat = 2 by decide +kernel]
    exact ⟨⟨21, high_translates _ (.inl rfl)⟩, rfl, rfl⟩
  · rw [State.scalableMapped, show (pePgtt nestedPe).toNat = 3 by decide +kernel]
    exact ⟨0xABCD234, 21, ⟨nested_maps true, .inr (by decide +kernel), by decide +kernel, by decide +kernel⟩,
      high_translates _ (.inr rfl)⟩
  · rw [State.scalableMapped, show (pePgtt throughPe).toNat = 4 by decide +kernel]
    exact ⟨rfl, by decide +kernel, rfl, rfl, rfl⟩

/-- The other hypotheses of ScalableTranslation. -/
theorem witness_ScalableTranslation :
    scalable.canSetFlags scalablePe (owedEntries scalablePe (firstPath true) [] []) ∧
    scalable.canSetFlags secondPe (owedEntries secondPe [] [] highPath) ∧
    scalable.canSetFlags nestedPe
      (owedEntries nestedPe (firstPath true) (lowPath ++ lowPath ++ lowPath ++ lowPath) highPath) ∧
    scalable.uncached ∧ scalable.quiet .perf ∧ scalable.memoryForm ∧ scalable.wbuf = [] ∧
    (∀ r ∈ [pasidWr 5 0x1234, pasidWr 6 0xABCD234, pasidWr 7 0x1234, wr 0x10 0x5000],
      Instr.wf (.untranslatedRequest r) = true ∧ pmrBlocks scalable .untranslated r 0xABCD234 false = false ∧
      pmrBlocks scalable .untranslated r 0x5000 true = false) :=
  ⟨by unfold State.canSetFlags; decide +kernel, by unfold State.canSetFlags; decide +kernel,
    by unfold State.canSetFlags; decide +kernel, ⟨rfl, rfl⟩, Or.inl rfl,
    (by decide +kernel : Memory.wf scalable.mem = true), rfl, by decide +kernel⟩

/-- The nested write sets A and D of the second stage, and A and D of the first, and stores behind them. -/
theorem test_nestedFlags :
    nextIs (exec (.untranslatedRequest (pasidWr 7 0x1234)) scalable)
      (fun t => readNat t.mem 0xABCD234 4 == 0xABABABAB && readNat t.mem 0xD000 8 == 0xE103 && readNat t.mem 0xE000 8 == 0x383 &&
        readNat t.mem 0xE2A8 8 == 0xAA00383 && readNat t.mem 0x6000 8 == 0xA027 && readNat t.mem 0xC008 8 == 0xABCD067) = true := by
  decide +kernel

/-! ## What the caches keep (23 R810, R815, R821) -/

/-- The state with every cache filled and none used; `cm`: with CAP_REG.CM set. -/
def filling (cm : Bool) (s : State) : State :=
  { s with
    caps := { s.caps with cap := s.caps.cap ||| (if cm then 0x80 else 0) }
    choice := { Choice.plain with fill := [.ctx, .pasid, .iotlb, .psc] } }

/-- `scalable` with other entries. -/
def scalableWith (l : List (Nat × Nat)) : State :=
  { scalable with mem := l.foldl (fun m x => writeNat m x.1 8 x.2) scalable.mem }

/-- R810, R815 with CM=0: a PASID whose own entry is not present leaves the good context entry cached, a PASID beyond the
directory (SCT.7) leaves nothing. -/
theorem test_goodContextKept :
    nextIs (exec (.untranslatedRequest (pasidWr 63 0x1000)) (filling false scalable))
      (fun t => t.caches.ctx.map (·.sid) == [0x10] && t.caches.pasid == []) = true ∧
    nextIs (exec (.untranslatedRequest (pasidWr 0x2000 0x1000)) (filling false scalable)) (fun t => t.caches.ctx == []) = true := by
  decide +kernel

/-- R821 with CM=1: a write that the second stage refuses (SGN.6) is kept only once the Accessed flags are set: those of SSADE
for PASID 6, and under nesting (PASID 7) those of the first stage too. -/
theorem test_refusedKept :
    nextIs (exec (.untranslatedRequest (pasidWr 6 0x1234)) (filling true (scalableWith [(0xE000, 0x81)])))
      (fun t => t.caches.iotlb == []) = true ∧
    nextIs (exec (.untranslatedRequest (pasidWr 6 0x1234)) (filling true (scalableWith [(0xD000, 0xE103), (0xE000, 0x181)])))
      (fun t => t.caches.iotlb.map (·.fault) == [some .sgn6]) = true ∧
    nextIs (exec (.untranslatedRequest (pasidWr 7 0x1234))
        (filling true (scalableWith [(0xD000, 0xE103), (0xE000, 0x383), (0xE2A8, 0xAA00181)])))
      (fun t => t.caches.iotlb == []) = true ∧
    nextIs (exec (.untranslatedRequest (pasidWr 7 0x1234)) (filling true (scalableWith [(0xD000, 0xE103), (0xE000, 0x383),
        (0xE2A8, 0xAA00181), (0x6000, 0xA027), (0xA000, 0xB027), (0xB000, 0xC027), (0xC008, 0xABCD067)])))
      (fun t => t.caches.iotlb.map (·.fault) == [some .sgn6]) = true := by decide +kernel

/-- A translation request with PASID. -/
def pasidTr (pasid : Pasid) (nw : Bool) : MemReq := { pasidWr pasid 0x1234 with access := .read, data := [], nw := nw }

/-- R and W of the last translation completion. -/
def lastRights (s : State) : Option (Bool × Bool) :=
  match s.out with
  | .respond _ (.translation c) :: _ => some (c.r, c.w)
  | _ => none

/-- R706, R744: of a second-stage page that may only be written, a translation request that asks for no write has no permission
left: the walk ends and sets no flag. Any other gets W, and A and D are set; from then on the cached translation answers the
same. -/
theorem test_noEffectiveRights :
    nextIs (exec (.translationRequest (pasidTr 6 true)) (scalableWith [(0xE000, 0x82)]))
      (fun t => lastRights t == some (false, false) && t.mem == (scalableWith [(0xE000, 0x82)]).mem) = true ∧
    nextIs (exec (.translationRequest (pasidTr 6 false)) (filling false (scalableWith [(0xE000, 0x82)])))
      (fun t => lastRights t == some (false, true) && readNat t.mem 0xE000 8 == 0x382 &&
        nextIs (exec (.translationRequest (pasidTr 6 true)) { t with choice := { Choice.plain with use := [.iotlb] }, mem := [] })
          (fun u => lastRights u == some (false, false))) = true := by decide +kernel

/-- The same under nesting, where the first stage refuses writing and the second stage reading (R750). -/
theorem test_noEffectiveRightsNested :
    nextIs (exec (.translationRequest (pasidTr 7 false)) (scalableWith [(0xE2A8, 0xAA00082), (0xC008, 0xABCD005)]))
      (fun t => lastRights t == some (false, false) && readNat t.mem 0xE2A8 8 == 0xAA00082) = true ∧
    nextIs (exec (.translationRequest (pasidTr 7 false)) (scalableWith [(0xE2A8, 0xAA00082)]))
      (fun t => lastRights t == some (false, true) && readNat t.mem 0xE2A8 8 == 0xAA00382) = true := by decide +kernel

/-- A leaf with SNP under which no permission is left: R at 5000h's table, W at the leaf. -/
def noRights : State :=
  filling true { legacy with mem := memOf [(0x1000, 0x2001), (0x2110, 0x3005), (0x2118, 0x101), (0x3000, 0x4003),
    (0x4000, 0x5001), (0x5008, 0xABCD802)] }

/-- The N bit of the last translation completion. -/
def lastN (s : State) : Option Bool :=
  match s.out with
  | .respond _ (.translation c) :: _ => some (c.n && !c.r && !c.w)
  | _ => none

/-- R1060, R1062 with CM=1: a completion without permissions has the N of the leaf, from the walk and from the cached fault. -/
theorem test_noRightsN :
    nextIs (exec (.translationRequest (rdReq 0x11 0x1000)) noRights) (fun t => lastN t == some true &&
      t.caches.iotlb.map (·.fault) == [some .lgn2] &&
      nextIs (exec (.translationRequest (rdReq 0x11 0x1000)) { t with choice := { Choice.plain with use := [.iotlb] }, mem := [] })
        (fun u => lastN u == some true)) = true := by decide +kernel

/-- R1137: the completion of a read of device 0010h pushes its interrupt ahead, not that of device 0011h. -/
theorem test_readCompletion :
    nextIs ({ State.reset with intrFlight := [⟨0x11, .compat 0x11 0 0⟩, ⟨0x10,
        .compat 0x10 0 0⟩] }.process (.readCompletion 0x10))
      (fun t => t.intrFlight.map (·.sid) == [0x11] && t.out == [.interrupt (.compat 0x10 0 0)]) = true := by decide +kernel

/-- R431 to R434: the low bits of the perfmon offsets read 0. -/
theorem test_perfOffsets :
    fixedWindow { State.reset with caps := { Caps.reset with perfcfgoff := 0x10FF, perffrzoff := 0x1807 } } 0x310 0 =
      0x0000180000001000 ∧
    fixedWindow { State.reset with caps := { Caps.reset with perfovfoff := 0x180F, perfcntroff := 0x2FFF } } 0x318 0 =
      BitVec.ofNat 64 ((0x2FFF / 2 ^ (Caps.reset.cs + 10) * 2 ^ (Caps.reset.cs + 10)) * 2 ^ 32 + 0x1808) := by decide +kernel

/-! ## The DMAR table (47 R1310) -/

/-- A little-endian field. -/
def le (n v : Nat) : List Byte := toBytes n v

/-- The example table of 47 R1310 from offset 48 on: three units and an SATC structure. -/
def dmarStructures : List Byte :=
  (le 2 0 ++ le 2 32 ++ [0, 0] ++ le 2 0 ++ le 8 0xFED90000 ++ [1, 8, 0, 0, 0, 0, 4, 0] ++ [1, 8, 0, 0, 0, 0, 5, 0]) ++
  (le 2 0 ++ le 2 24 ++ [0, 0] ++ le 2 0 ++ le 8 0xFED91000 ++ [2, 8, 0, 0, 0, 0, 7, 0]) ++
  (le 2 0 ++ le 2 32 ++ [1, 0] ++ le 2 0 ++ le 8 0xFED92000 ++ [3, 8, 0, 0, 8, 0, 31, 7] ++ [4, 8, 0, 0, 0, 0, 31, 6]) ++
  (le 2 5 ++ le 2 16 ++ [1, 0] ++ le 2 0 ++ [1, 8, 0, 0, 0, 0, 5, 0])

/-- The whole table with its checksum byte. -/
def dmar (c : Byte) : List Byte :=
  Acpi.signature ++ le 4 152 ++ [1, c] ++ List.replicate 26 0 ++ [38, 1] ++ List.replicate 10 0 ++ dmarStructures

/-- The table read, or an empty one. -/
def dmarTable : Acpi.Table :=
  match Acpi.readTable (dmar (0 - Acpi.checksum (dmar 0))) with
  | .ok t => t
  | .error _ =>
    { oemId := [], oemTableId := [], oemRevision := 0, creatorId := 0, creatorRevision := 0, haw := 0, flags := 0, reserved := 0,
      structures := [] }

/-- The base of the unit a PCI device of segment 0 reaches. -/
def unitBase (dev : SourceId) (upstream : List SourceId) : Option Nat :=
  (dmarTable.unitOf (fun _ _ => 0) { segment := 0, owner := dev, upstream := upstream, pci := true }).map (·.base.toNat)

/-- 47 R1310: the table is well formed; unit #1 holds (4:0) and (5:0), unit #2 what is behind (7:0), unit #3 the I/OxAPIC with
source-id 00FFh, the HPET with 00FEh and every other device; SATC requires the ATC of (5:0). -/
theorem test_dmar :
    dmarTable.haw = 39 ∧ dmarTable.ok = true ∧
    dmarTable.units.map (fun u => u.scopes.map (fun e => e.sourceId (fun _ _ => 0))) =
      [[some 0x20, some 0x28], [some 0x38], [some 0xFF, some 0xFE]] ∧
    unitBase 0x20 [] = some 0xFED90000 ∧ unitBase 0x28 [] = some 0xFED90000 ∧ unitBase 0x100 [0x38] = some 0xFED91000 ∧
    unitBase 0xFF [] = some 0xFED92000 ∧ unitBase 0x200 [0x48] = some 0xFED92000 ∧
    (dmarTable.structures.getLast?.map (fun x => match x with
      | .satc l => l.flag && l.scopes.map (fun e => e.sourceId (fun _ _ => 0)) == [some 0x28]
      | _ => false)) = some true := by decide +kernel

/-- The example table with structures put after its own, which breaks no order of types for SATC and SIDP. -/
def dmarWith (l : List Acpi.Structure) : Bool := ({ dmarTable with structures := dmarTable.structures ++ l } : Acpi.Table).ok

/-- 47 R1298, R1292: a second SATC of the segment and flag, a reserved Flags bit, a scope entry of a reserved Type; another flag
is another SATC. -/
theorem test_dmarLists :
    dmarWith [.satc { flags := 1, reserved := 0, segment := 0, scopes := [] }] = false ∧
    dmarWith [.satc { flags := 2, reserved := 0, segment := 0, scopes := [] }] = false ∧
    dmarWith [.satc { flags := 0, reserved := 0, segment := 0, scopes := [] }] = true ∧
    dmarWith [.sidp { flags := 0, reserved := 0, segment := 0, scopes := [
      { kind := .reserved 6, flags := 0, reserved := 0, enumId := 0, startBus := 0, path := [⟨4, 0⟩] }] }] = false := by
  decide +kernel

/-- 47 R1290, R1294, R1296: the units of segment 0 report the device (7:0)/(1:0) behind the bridge and, by INCLUDE_PCI_ALL,
(9:0), not one of segment 1; one RHSA of three units, and an ANDD number that no unit's scope has, break the rules. -/
theorem test_dmarRelations :
    dmarTable.units.map (fun u => u.reports 0
      { kind := .endpoint, flags := 0, reserved := 0, enumId := 0, startBus := 0, path := [⟨7, 0⟩, ⟨1, 0⟩] }) = [false, true,
          true] ∧
    dmarTable.units.any (fun u => u.reports 1
      { kind := .endpoint, flags := 0, reserved := 0, enumId := 0, startBus := 0, path := [⟨9, 0⟩] }) = false ∧
    ({ dmarTable with structures := .rhsa { reserved := 0, base := 0xFED90000, proximity := 0 } :: [] } : Acpi.Table).relationsOk = true ∧
    ({ dmarTable with structures := dmarTable.structures ++ [.rhsa { reserved := 0, base := 0xFED90000, proximity := 0 }] }
      : Acpi.Table).relationsOk = false ∧
    Acpi.Structure.ok dmarTable (.andd { reserved := 0, number := 1, name := [0x5C] }) = false := by decide +kernel

/-- The platform of the example table: segment 0, the I/OxAPIC 8, the MSI-capable HPET 0. -/
structure Found where
  intrRemap : Bool := true
  segments : List (BitVec 16) := [0]
  ioApics : List Acpi.IoApic := [⟨8, none⟩]
  hpets : List Acpi.Hpet := [⟨0, [false, true]⟩]
  namespaceDevices : List (List Byte) := []
  atsrs : List Acpi.DeviceList := []
  deviceTlbs : List (BitVec 16) := []
  portAts : Bool := false
  atsDevices : List Acpi.AtsDevice := [⟨0, 0x28⟩]

/-- The example table with ATSR structures behind its three units. -/
def dmarAts (l : List Acpi.DeviceList) : Acpi.Table :=
  { dmarTable with structures := dmarTable.structures.take 3 ++ l.map .atsr ++ dmarTable.structures.drop 3 }

/-- The example table follows the rules on a platform. -/
def onHardware (h : Found) : Bool :=
  ({ dmarAts h.atsrs with flags := if h.intrRemap then 1 else 0 } : Acpi.Table).okOn (fun _ _ => 0)
    ⟨h.segments, h.ioApics, h.hpets, h.namespaceDevices, h.deviceTlbs, [⟨0, 0x38, h.portAts⟩], h.atsDevices⟩

/-- An ATSR structure of segment 0: with ALL_PORTS, or naming bridges (dev:0) of bus 0. -/
def atsr (all : Bool) (ports : List (BitVec 8)) : Acpi.DeviceList :=
  { flags := if all then 1 else 0, reserved := 0, segment := 0
    scopes := ports.map (fun p =>
      { kind := .subHierarchy, flags := 0, reserved := 0, enumId := 0, startBus := 0, path := [⟨p, 0⟩] }) }

/-- R1292, R1298: the Root Port (7:0) with ATS is reported by ALL_PORTS or by name; a segment with Device-TLBs has an ATSR
structure, a platform without them none; no port without ATS and no other bridge is reported; the device of the SATC structure
has ATS. -/
theorem test_dmarAts :
    [({ deviceTlbs := [0], portAts := true, atsrs := [atsr true []] } : Found),
      { deviceTlbs := [0], portAts := true, atsrs := [atsr false [7]] }].all onHardware = true ∧
    [({ deviceTlbs := [0] } : Found), { portAts := true }, { portAts := true, atsrs := [atsr true []] },
      { deviceTlbs := [0], atsrs := [atsr true []] }, { deviceTlbs := [0], portAts := true, atsrs := [atsr false [7, 9]] },
      { atsDevices := [] }].any onHardware = false ∧
    [some 0x38, some 0x48, none].map (fun p => (dmarAts [atsr false [7]]).atsAllowed (fun _ _ => 0)
      { segment := 0, owner := 0x28, upstream := p.toList, pci := true } p) = [true, false, true] := by decide +kernel

/-- A device scope entry of a Type, with a path. -/
def hpetAt (type : Nat) (path : List Acpi.Hop) : Acpi.ScopeEntry :=
  { kind := Acpi.scopeKind type, flags := 0, reserved := 0, enumId := 0, startBus := 0, path := path }

/-- One unit for each segment a structure names or the platform has, and one structure for each unit (R1280). -/
theorem test_dmarUnits :
    dmarWith [.satc { flags := 0, reserved := 0, segment := 1, scopes := [] }] = false ∧
    dmarTable.unitsOk = true ∧
    ({ dmarTable with structures := dmarTable.structures ++
        [.drhd { flags := 0, sizeByte := 0, segment := 1, base := 0xFED90000, scopes := [] }] } : Acpi.Table).unitsOk = false ∧
    onHardware {} = true ∧ onHardware { segments := [0, 1] } = false := by decide +kernel

/-- R1282: the I/OxAPIC 8 has source-id 00FFh; another ID, another requester-id, an HPET that is not listed or is listed without
an MSI, and a name-space device that is not declared break the rules; without INTR_REMAP those not listed do not. -/
theorem test_dmarHardware :
    [({} : Found), { ioApics := [⟨8, some 0xFF⟩] }, { hpets := [⟨0, [true]⟩, ⟨1, [false]⟩] }].all onHardware = true ∧
    [({ ioApics := [⟨9, none⟩] } : Found), { ioApics := [⟨8, some 0xFE⟩] }, { hpets := [⟨1, [true]⟩] }, { hpets := [⟨0, [false]⟩] },
      { namespaceDevices := [[0x5C]] }].any onHardware = false ∧
    [({ intrRemap := false, ioApics := [⟨8, none⟩, ⟨9, none⟩], hpets := [⟨0, [true]⟩, ⟨1, [true]⟩] } : Found)].all onHardware = true ∧
    [({ intrRemap := false, hpets := [⟨0, [false]⟩] } : Found), { intrRemap := false, hpets := [] },
      { intrRemap := false, ioApics := [] }, { intrRemap := false, ioApics := [⟨8, some 0xFE⟩] }].any onHardware = false := by
  decide +kernel

/-- R1281: the Path of an HPET is one pair, the lower half of its source-id; that of an I/OxAPIC may lead through a bridge. -/
theorem test_scopePaths :
    (hpetAt 4 [⟨31, 6⟩]).ok false = true ∧ (hpetAt 4 [⟨31, 6⟩, ⟨1, 0⟩]).ok false = false ∧
    (hpetAt 4 [⟨31, 6⟩, ⟨1, 0⟩]).sourceId (fun _ _ => 5) = none ∧ (hpetAt 3 [⟨31, 6⟩, ⟨1, 0⟩]).ok false = true ∧
    (hpetAt 3 [⟨31, 6⟩, ⟨1, 0⟩]).sourceId (fun _ _ => 5) = some 0x508 := by decide +kernel

/-- A hot-added host bridge with one unit and a reserved memory region. -/
def hotBridge : Acpi.HostBridge :=
  ⟨[.drhd { flags := 0, sizeByte := 0, segment := 2, base := 0xFEDA0000, scopes := [] },
    .rmrr { reserved := 0, segment := 2, base := 0x1000, limit := 0x1FFF, scopes := [] }]⟩

/-- The _DSM method: functions 0 to 3, no index 4, no other GUID (R1305, 90 C8). -/
theorem test_dsm :
    hotBridge.dsm Acpi.dsmGuid 0 = some (.supported [0x0F]) ∧ hotBridge.dsm Acpi.dsmGuid 4 = none ∧ hotBridge.dsm 0 0 = none ∧
    hotBridge.dsm Acpi.dsmGuid 2 = some (.structures []) ∧
    (dmarTable.withHotAdded hotBridge).units.map Acpi.Drhd.base = [0xFED90000, 0xFED91000, 0xFED92000, 0xFEDA0000] ∧
    (dmarTable.withHotAdded hotBridge).structures.length = dmarTable.structures.length + 1 ∧
    (((dmarTable.withHotAdded hotBridge).units.getLast?.map (fun u => dmarTable.hotAddedUnit u scalable)).map
      (fun s => (s.plat.regBase, s.plat.haw, s.gsts.tes))) = some (0xFEDA0000, 39, false) := by decide +kernel

/-- A changed byte spoils the checksum. -/
theorem test_dmarChecksum : Acpi.readTable (dmar (1 - Acpi.checksum (dmar 0))) = .error .checksum := by decide +kernel

end Sys2Proof.Tests
end

