-- ==== Sys2Proof/Tests/Faults.lean ====
section
/-! SUPPORT. Address-translation faults: the reasons the unit records (60 R1346 to R1361), one step each, and witnesses for the
statements about them. -/

namespace Sys2Proof.Tests

open Sys2Proof Sys2Proof.Machine

set_option Elab.async false

/-! ## The reasons recorded -/

/-- `legacy` with other entries. -/
def legacyWith (l : List (Nat × Nat)) : State := { legacy with mem := l.foldl (fun m x => writeNat m x.1 8 x.2) legacy.mem }

/-- Reads of these bytes fail. -/
def badRead (l : List Nat) (s : State) : State := { s with choice := { Choice.plain with badReads := l } }

/-- Writes of these bytes fail. -/
def badWrite (l : List Nat) (s : State) : State := { s with choice := { Choice.plain with badWrites := l } }

/-- The instruction records a fault of this reason for its source, or none (0), and stores nothing. -/
def records (s : State) (i : Instr) (reason : BitVec 8) : Bool :=
  nextIs (exec i s) (fun t => t.mem == s.mem && match t.frcd[0]? with
    | some x => if reason == 0 then !x.f else x.f && x.fr == reason
    | none => false)

/-- Legacy faults of a write of device 0010h, in the order of R705 and R740 to R744; the context entry's FPD hides a qualified
one. -/
theorem test_legacyReasons :
    [(badRead [0x1000] legacy, 0x08), (legacyWith [(0x1000, 0)], 0x01), (legacyWith [(0x1000, 0x2003)], 0x0A),
      (badRead [0x2100] legacy, 0x09), (legacyWith [(0x2100, 0)], 0x02), (legacyWith [(0x2100, 2)], 0),
      (legacyWith [(0x2100, 0x3011)], 0x0B), (legacyWith [(0x2108, 0x107)], 0x03), (legacyWith [(0x2100, 0x300D)], 0x03),
      (badRead [0x3000] legacy, 0x03), (badRead [0x4000] legacy, 0x07), (legacyWith [(0x4000, 0)], 0x05),
      (legacyWith [(0x4000, 0x4000000000005003)], 0x0C), (legacyWith [(0x5008, 0xABCD001)], 0x05),
      (legacyWith [(0x5008, 0xFEE00003)], 0x0E)].all
      (fun x => records x.1 (.untranslatedRequest (wr 0x10 0x1234)) x.2) = true ∧
    records (legacyWith [(0x4000, 0)]) (.untranslatedRequest (rdReq 0x10 0x1234)) 0x06 = true ∧
    records legacy (.untranslatedRequest (wr 0x10 (2 ^ 39))) 0x04 = true ∧
    records legacy (.untranslatedRequest (wr 0x12 (2 ^ 46))) 0x04 = true ∧
    records legacy (.untranslatedRequest (pasidWr 5 0x1234)) 0x31 = true := by decide +kernel

/-- `scalable` with page walks of PASIDs 5, 6 and 7 not snooped. -/
def unsnooped : State := scalableWith [(0x9148, 7), (0x9188, 7), (0x91C8, 7)]

/-- Scalable-mode faults of a write: PASID 5 by the first stage, 6 by the second, 7 nested. -/
theorem test_scalableReasons :
    [(badRead [0x1000] scalable, 0x38), (scalableWith [(0x1000, 0)], 0x39), (scalableWith [(0x1000, 0x2003)], 0x3A),
      (badRead [0x2200] scalable, 0x40), (scalableWith [(0x2200, 2)], 0),
      (scalableWith [(0x2200, 0x803D)], 0x42), (scalableWith [(0x2200, 0x8015)], 0x45),
      (badRead [0x8000] scalable, 0x50), (scalableWith [(0x8000, 0)], 0x51),
      (scalableWith [(0x8000, 0x9005)], 0x52), (badRead [0x9140] scalable, 0x58), (scalableWith [(0x9140, 0)], 0x59),
      (scalableWith [(0x9140, 0x61)], 0x5A), (scalableWith [(0x9140, 1)], 0x5B),
      (badRead [0x6000] scalable, 0x73), (badRead [0xA000] scalable, 0x70), (scalableWith [(0xA000, 0)], 0x71),
      (scalableWith [(0xA000, 0xB087)], 0x72), (scalableWith [(0xC008, 0xABCD003)], 0x81),
      (scalableWith [(0xC008, 0xABCD005)], 0x85), (badWrite [0x6000] scalable, 0x91), (unsnooped, 0x90),
      (scalableWith [(0xC008, 0xFEE00007)], 0x87)].all
      (fun x => records x.1 (.untranslatedRequest (pasidWr 5 0x1234)) x.2) = true ∧
    [(badRead [0xD000] scalable, 0x7B), (badRead [0xE000] scalable, 0x78), (scalableWith [(0xE000, 0)], 0x79),
      (scalableWith [(0xE000, 0x4000000000000083)], 0x7A), (scalableWith [(0xD000, 0xE001), (0xE000, 0x82)], 0x79),
      (badWrite [0xD000] scalable, 0x7D), (unsnooped, 0x7C)].all
      (fun x => records x.1 (.untranslatedRequest (pasidWr 6 0x1234)) x.2) = true ∧
    [(scalableWith [(0xE000, 0x82)], 0x75), (scalableWith [(0xE000, 0x81)], 0x77),
      (scalableWith [(0xA000, 0x10000000007)], 0x74), (scalableWith [(0xE2A8, 0xAA00081)], 0x85),
      (badWrite [0x6000] scalable, 0x91), (scalableWith [(0xC008, 0xFEE00007), (0xE000, 0x83)], 0x79)].all
      (fun x => records x.1 (.untranslatedRequest (pasidWr 7 0x1234)) x.2) = true := by decide +kernel

/-- Those that depend on the request. -/
theorem test_requestReasons :
    [(pasidWr 5 (2 ^ 47), 0x80), (pasidWr 6 (2 ^ 39), 0x84), (wr 0x10 (2 ^ 46), 0x83), (pasidWr 0 0x1234, 0x48),
      (pasidWr 0x2000 0x1234, 0x46), ({ wr 0x10 0x1234 with pasid := some ⟨5, true, false⟩ }, 0x5D),
      (pasidWr 63 0x1234, 0x59)].all (fun x => records scalable (.untranslatedRequest x.1) x.2) = true ∧
    records (scalableWith [(0xE000, 0x82)]) (.untranslatedRequest { pasidWr 6 0x1234 with access := .read, data := [] }) 0x86 =
      true ∧
    [(2, 0x30), (3, 0x33)].all (fun x => records { legacy with latchedRt := { rta := 1, ttm := x.1 } }
      (.untranslatedRequest (wr 0x10 0x1234)) x.2) = true := by decide +kernel

/-! ## Witnesses: the state a fault is recorded in, and what refuses the request -/

/-- The hypotheses that every statement about a recorded fault has on the state. -/
def faultReady (s : State) : Prop :=
  s.uncached ∧ s.quiet .perf ∧ s.quiet .fault ∧ (∀ sid, s.recordFree sid) ∧ s.gsts.tes = true

theorem faultReady_of (s : State) (u : s.choice.use = [] ∧ s.choice.fill = []) (p : (s.evRegs .perf).im = true)
    (f : (s.evRegs .fault).im = true) (o : s.fsts.pfo = false) (r : s.frcd = State.reset.frcd ∧ s.faultIdx = 0)
    (c : s.plat.faultCompression = false) (t : s.gsts.tes = true) : faultReady s :=
  ⟨u, .inl p, .inl f, fun _ => ⟨o, ⟨Frcd.reset, by rw [r.1, r.2]; decide +kernel, rfl⟩,
    fun h => absurd (c.symm.trans h) (by simp)⟩, t⟩

/-- They hold of every state that the tests above start from. -/
theorem witness_faultReady :
    (∀ l, faultReady (legacyWith l)) ∧ (∀ l, faultReady (badRead l legacy)) ∧ (∀ l, faultReady (scalableWith l)) ∧
    (∀ l, faultReady (badRead l scalable)) ∧ (∀ l, faultReady (badWrite l scalable)) ∧
    (∀ t, faultReady { legacy with latchedRt := { rta := 1, ttm := t } }) :=
  ⟨fun _ => faultReady_of _ ⟨rfl, rfl⟩ rfl rfl rfl ⟨rfl, rfl⟩ rfl rfl, fun _ => faultReady_of _ ⟨rfl, rfl⟩ rfl rfl rfl ⟨rfl, rfl⟩ rfl rfl,
    fun _ => faultReady_of _ ⟨rfl, rfl⟩ rfl rfl rfl ⟨rfl, rfl⟩ rfl rfl, fun _ => faultReady_of _ ⟨rfl, rfl⟩ rfl rfl rfl ⟨rfl, rfl⟩ rfl rfl,
    fun _ => faultReady_of _ ⟨rfl, rfl⟩ rfl rfl rfl ⟨rfl, rfl⟩ rfl rfl, fun _ => faultReady_of _ ⟨rfl, rfl⟩ rfl rfl rfl ⟨rfl, rfl⟩ rfl rfl⟩

/-- The reserved mode, abort-dma mode, and scalable mode on a unit without it. -/
theorem witness_modeRefuses :
    ({ legacy with latchedRt := { rta := 1, ttm := 2 } } : State).modeRefuses 0x30 ∧
    ({ legacy with latchedRt := { rta := 1, ttm := 3 } } : State).modeRefuses 0x33 ∧
    ({ bare with latchedRt := { rta := 1, ttm := 1 } } : State).modeRefuses 0x30 :=
  ⟨.inl ⟨rfl, .inl rfl⟩, .inr ⟨rfl, rfl, by decide +kernel⟩, .inl ⟨rfl, .inr (.inl ⟨rfl, by decide +kernel⟩)⟩⟩

/-! ### Legacy mode -/

/-- The tables refuse with this reason, whatever they read. -/
def refuses (p : List UnitAccess → BitVec 8 → Bool → Prop) (reason : BitVec 8) : Prop := ∃ reads fpd, p reads reason fpd

theorem witness_LegacyRefuses :
    refuses ((badRead [0x1000] legacy).LegacyRefuses 0x10) 0x08 ∧ refuses (legacy.LegacyRefuses 0x0110) 0x01 ∧
    refuses ((legacyWith [(0x1000, 0x2003)]).LegacyRefuses 0x10) 0x0A ∧
    refuses ((badRead [0x2100] legacy).LegacyRefuses 0x10) 0x09 ∧
    refuses ((legacyWith [(0x2100, 2)]).LegacyRefuses 0x10) 0x02 ∧
    refuses ((legacyWith [(0x2100, 0x3011)]).LegacyRefuses 0x10) 0x0B ∧
    refuses ((legacyWith [(0x2108, 0x107)]).LegacyRefuses 0x10) 0x03 :=
  ⟨⟨_, _, .rootUnread (by decide +kernel)⟩, ⟨_, _, .rootAbsent 0 (by decide +kernel) (by decide +kernel)⟩,
    ⟨_, _, .rootReserved 0x2003 (by decide +kernel) (by decide +kernel) (by decide +kernel)⟩,
    ⟨_, _, .unread 0x2100 ⟨0x2001, by decide +kernel⟩ (by decide +kernel)⟩,
    ⟨_, _, .absent 0x2100 (legacyCe 2) ⟨0x2001, by decide +kernel⟩ ⟨_, by decide +kernel, rfl⟩ (by decide +kernel)⟩,
    ⟨_, _, .reserved 0x2100 (legacyCe 0x3011) ⟨0x2001, by decide +kernel⟩ ⟨_, by decide +kernel, rfl⟩ (by decide +kernel)
      (by decide +kernel)⟩,
    ⟨_, _, .programming 0x2100 (BitVec.ofNat 256 (0x3001 + 0x107 * 2 ^ 64)) ⟨0x2001, by decide +kernel⟩
      ⟨_, by decide +kernel, rfl⟩ (by decide +kernel) (by decide +kernel) (.inl (by decide +kernel))⟩⟩

/-- A state with the context entries and the root of `legacy`. -/
theorem context_of (s : State) (h : s.memRead (s.rootAt 0x10).toNat 16 = some 0x2001 ∧ s.memRead 0x2100 16 = some (0x3001 + 0x101 * 2 ^ 64) ∧
    s.plat = legacy.plat ∧ s.caps = legacy.caps) : s.legacyContext 0x10 0x2100 (legacyCe 0x3001) := by
  obtain ⟨h1, h2, h3, h4⟩ := h
  refine ⟨⟨0x2001, h1, by decide +kernel, ?_⟩, ⟨_, h2, rfl⟩, by decide +kernel, ?_⟩ <;> simp only [h3, h4] <;> decide +kernel

/-- The clauses of LegacyRequestFaults: beyond the tables (2^39) and beyond the unit (2^46) by pass-through; entries that cannot
be read, are not present, are reserved; a page for reading only; a page in the interrupt range. -/
theorem witness_LegacyRequestFaults :
    legacy.legacyUnmapped (legacyCe 0x3001) .write (2 ^ 39) 0x04 [] ∧
    (badRead [0x3000] legacy).legacyUnmapped (legacyCe 0x3001) .write 0x1234 0x03 [0x3000] ∧
    (badRead [0x4000] legacy).legacyUnmapped (legacyCe 0x3001) .write 0x1234 0x07 [0x3000, 0x4000] ∧
    (legacyWith [(0x4000, 0)]).legacyUnmapped (legacyCe 0x3001) .write 0x1234 0x05 [0x3000, 0x4000] ∧
    (legacyWith [(0x4000, 0)]).legacyUnmapped (legacyCe 0x3001) .zlr 0x1234 0x06 [0x3000, 0x4000] ∧
    (legacyWith [(0x4000, 0x4000000000005003)]).legacyUnmapped (legacyCe 0x3001) .write 0x1234 0x0C [0x3000, 0x4000] ∧
    ((legacyWith [(0x5008, 0xABCD001)]).legacyMapped (legacyCe 0x3001) 0x1234
        [used 0x3000 0x4003 0x100, used 0x4000 0x5003 0x100, used 0x5008 0xABCD001 0x100] 12 ∧
      ¬ ssGrants legacy.caps .write true false ∧ ssGrants legacy.caps .read true false) ∧
    ((legacyWith [(0x5008, 0xFEE00003)]).legacyMapped (legacyCe 0x3001) 0x1234
        [used 0x3000 0x4003 0x100, used 0x4000 0x5003 0x100, used 0x5008 0xFEE00003 0x100] 12 ∧
      inInterruptRange (legacy.outputOf 0xFEE00003 12 0x1234) = true) ∧
    (∀ s ∈ [legacy, badRead [0x3000] legacy, badRead [0x4000] legacy, legacyWith [(0x4000, 0)],
        legacyWith [(0x4000, 0x4000000000005003)], legacyWith [(0x5008, 0xABCD001)], legacyWith [(0x5008, 0xFEE00003)]],
      s.legacyContext 0x10 0x2100 (legacyCe 0x3001)) ∧
    (ceTt (legacyCe 0x9) = 2 ∧ legacy.hpaEnd ≤ (2 ^ 46 : Addr).toNat) ∧
    ∀ r ∈ [wr 0x10 0x1234, wr 0x10 (2 ^ 39), wr 0x12 (2 ^ 46), rdReq 0x10 0x1234, pasidWr 5 0x1234],
      Instr.wf (.untranslatedRequest r) = true ∧ inInterruptRange r.addr = false := by
  have lv : levels (agawLevels (ceAw (legacyCe 0x3001))) = [30, 21, 12] := by decide +kernel
  have top (s : State) (x : Halt) (l : List Addr) (h : s.memRead 0x3000 8 = some (0x4003 : BitVec 64).toNat)
      (hs : s.caps = legacy.caps ∧ s.plat = legacy.plat) (d : s.SsStuck false 0x1234 [21, 12] 0x4000 x l) :
      s.SsStuck false 0x1234 (levels (agawLevels (ceAw (legacyCe 0x3001)))) (ceSsptptr s.plat.haw (legacyCe 0x3001)) x
        (0x3000 :: l) := by
    rw [lv, hs.2, show ceSsptptr legacy.plat.haw (legacyCe 0x3001) = 0x3000 by decide +kernel]
    refine .deeper 30 [21, 12] 0x3000 0x3000 0x4003 x l (by decide +kernel) h (by decide +kernel) ?_ (by decide +kernel) ?_
    · rw [hs.1, hs.2]; decide +kernel
    · rw [hs.2, show pgAddr legacy.plat.haw 0x4003 30 = 0x4000 by decide +kernel]; exact d
  refine ⟨?_, ?_, ?_, ?_, ?_, ?_, ⟨⟨by decide +kernel, ?_⟩, by unfold ssGrants; decide, rfl⟩,
    ⟨⟨by decide +kernel, ?_⟩, by decide +kernel⟩, ?_, by decide +kernel, by decide +kernel⟩
  · rw [State.legacyUnmapped, if_pos (by decide +kernel)]; exact ⟨rfl, rfl⟩
  · rw [State.legacyUnmapped, if_neg (by decide +kernel)]
    refine ⟨.unread, ?_, rfl⟩
    rw [lv]
    exact .unread 30 [21, 12] _ _ (by decide +kernel) (by decide +kernel)
  · rw [State.legacyUnmapped, if_neg (by decide +kernel)]
    exact ⟨.unread, top _ _ _ (by decide +kernel) ⟨rfl, rfl⟩ (.unread 21 [12] _ _ (by decide +kernel) (by decide +kernel)), rfl⟩
  · rw [State.legacyUnmapped, if_neg (by decide +kernel)]
    exact ⟨.absent, top _ _ _ (by decide +kernel) ⟨rfl, rfl⟩
      (.absent 21 [12] _ _ 0 (by decide +kernel) (by decide +kernel) rfl rfl), rfl⟩
  · rw [State.legacyUnmapped, if_neg (by decide +kernel)]
    exact ⟨.absent, top _ _ _ (by decide +kernel) ⟨rfl, rfl⟩
      (.absent 21 [12] _ _ 0 (by decide +kernel) (by decide +kernel) rfl rfl), rfl⟩
  · rw [State.legacyUnmapped, if_neg (by decide +kernel)]
    exact ⟨.reserved, top _ _ _ (by decide +kernel) ⟨rfl, rfl⟩
      (.reserved 21 [12] _ _ 0x4000000000005003 (by decide +kernel) (by decide +kernel) (by decide +kernel) (by decide +kernel)), rfl⟩
  · rw [lv]; simp only [State.ssUses]; decide +kernel
  · rw [lv]; simp only [State.ssUses]; decide +kernel
  · intro s hs
    simp only [List.mem_cons, List.not_mem_nil, or_false] at hs
    rcases hs with rfl | rfl | rfl | rfl | rfl | rfl | rfl <;>
      exact context_of _ ⟨by decide +kernel, by decide +kernel, rfl, rfl⟩

/-! ### The tables of scalable mode -/

/-- `scalable` on a platform whose predicate of unsupported context programming holds of the entry of device 0010h (22 R711). -/
def oddContext : State := { scalable with plat := { scalable.plat with sct41 := [(1, 1)] } }

theorem witness_ContextRefuses :
    refuses ((badRead [0x1000] scalable).ContextRefuses 0x10) 0x38 ∧ refuses (scalable.ContextRefuses 0x0110) 0x39 ∧
    refuses ((scalableWith [(0x1000, 0x2003)]).ContextRefuses 0x10) 0x3A ∧
    refuses ((badRead [0x2200] scalable).ContextRefuses 0x10) 0x40 ∧
    refuses ((scalableWith [(0x2200, 2)]).ContextRefuses 0x10) 0x41 ∧
    refuses ((scalableWith [(0x2200, 0x803D)]).ContextRefuses 0x10) 0x42 ∧ refuses (oddContext.ContextRefuses 0x10) 0x43 :=
  ⟨⟨_, _, .rootUnread (by decide +kernel)⟩, ⟨_, _, .rootAbsent 0 (by decide +kernel) (by decide +kernel)⟩,
    ⟨_, _, .rootReserved 0x2003 (by decide +kernel) (by decide +kernel) (by decide +kernel)⟩,
    ⟨_, _, .unread 0x2200 ⟨0x2001, by decide +kernel⟩ (by decide +kernel)⟩,
    ⟨_, _, .absent 0x2200 2 ⟨0x2001, by decide +kernel⟩ ⟨2, by decide +kernel⟩ (by decide +kernel)⟩,
    ⟨_, _, .reserved 0x2200 0x803D ⟨0x2001, by decide +kernel⟩ ⟨0x803D, by decide +kernel⟩ (by decide +kernel)
      (by decide +kernel)⟩,
    ⟨_, _, .programming 0x2200 0x801D ⟨0x2001, by decide +kernel⟩ ⟨0x801D, by decide +kernel⟩ (by decide +kernel)
      (by decide +kernel) (by decide +kernel)⟩⟩

theorem witness_PasidRefuses :
    refuses (scalable.PasidRefuses 0x10 0x2200 0x801D 0x2000) 0x46 ∧
    refuses ((badRead [0x8000] scalable).PasidRefuses 0x10 0x2200 0x801D 5) 0x50 ∧
    refuses ((scalableWith [(0x8000, 2)]).PasidRefuses 0x10 0x2200 0x801D 5) 0x51 ∧
    refuses ((scalableWith [(0x8000, 0x9005)]).PasidRefuses 0x10 0x2200 0x801D 5) 0x52 ∧
    refuses ((badRead [0x9140] scalable).PasidRefuses 0x10 0x2200 0x801D 5) 0x58 ∧
    refuses (scalable.PasidRefuses 0x10 0x2200 0x801D 63) 0x59 ∧
    refuses ((scalableWith [(0x9140, 0x61)]).PasidRefuses 0x10 0x2200 0x801D 5) 0x5A ∧
    refuses ((scalableWith [(0x9140, 3)]).PasidRefuses 0x10 0x2200 0x801D 5) 0x5B := by
  refine ⟨⟨_, _, .tooWide (by decide +kernel)⟩,
    ⟨_, _, .directoryUnread 0x8000 (by decide +kernel) (by decide +kernel) (by decide +kernel)⟩,
    ⟨_, _, .directoryAbsent 0x8000 2 ?_ (by decide +kernel)⟩,
    ⟨_, _, .directoryReserved 0x8000 0x9005 ?_ (by decide +kernel) (by decide +kernel)⟩,
    ⟨_, _, .unread 0x8000 0x9140 0x9001 ?_ ?_ (by decide +kernel)⟩,
    ⟨_, _, .absent 0x8000 0x9FC0 0x9001 0 ?_ ?_ (by decide +kernel) (by decide +kernel)⟩,
    ⟨_, _, .reserved 0x8000 0x9140 0x9001 (BitVec.ofNat 512 (0x61 + 0x800007 * 2 ^ 64 + 0x6000 * 2 ^ 128)) ?_ ?_
      (by decide +kernel) (by decide +kernel) (by decide +kernel)⟩,
    ⟨_, _, .programming 0x8000 0x9140 0x9001 (BitVec.ofNat 512 (3 + 0x800007 * 2 ^ 64 + 0x6000 * 2 ^ 128)) ?_ ?_
      (by decide +kernel) (by decide +kernel) (by decide +kernel) (by unfold State.pasidProgrammed; decide +kernel)⟩⟩
  all_goals first | (unfold State.pasidDirectory; decide +kernel) | (unfold State.pasidTable; decide +kernel)

/-- `scalable` on a unit whose PASIDs have one bit (PSS=0), the RID_PASID of device 0010h being 5. -/
def narrow : State :=
  { scalableWith [(0x2208, 5)] with
    caps := { scalable.caps with ecap := scalable.caps.ecap &&& ~~~(0xF800000000 : BitVec 64) } }

/-- The context entry of device 0010h in `narrow`. -/
def narrowCe : BitVec 256 := BitVec.ofNat 256 (0x801D + 5 * 2 ^ 64)

theorem narrow_context : narrow.scalableContext 0x10 0x2200 narrowCe :=
  ⟨⟨0x2001, by decide +kernel⟩, ⟨_, by decide +kernel, rfl⟩, by decide +kernel, by decide +kernel, by decide +kernel⟩

/-- `scalable` with another context entry for device 0010h, present and well programmed. -/
theorem context_with (v : Nat) (h : v = 0x8015 ∨ v = 0x801D ∨ v = 0x800D ∨ v = 0x8019) :
    (scalableWith [(0x2200, v)]).scalableContext 0x10 0x2200 (BitVec.ofNat 256 v) := by
  rcases h with rfl | rfl | rfl | rfl <;> exact ⟨⟨0x2001, by decide +kernel⟩, ⟨_, by decide +kernel, rfl⟩, by decide +kernel⟩

theorem witness_TablesRefuse :
    refuses (narrow.TablesRefuse (wr 0x10 0x1234)) 0x43 ∧
    refuses ((scalableWith [(0x2200, 0x8015)]).TablesRefuse (pasidWr 5 0x1234)) 0x45 ∧
    refuses (scalable.TablesRefuse (pasidWr 0 0x1234)) 0x48 ∧ refuses (narrow.TablesRefuse (pasidWr 2 0x1234)) 0x89 ∧
    refuses (scalable.TablesRefuse (pasidWr 63 0x1234)) 0x59 ∧
    refuses ((badRead [0x1000] scalable).TablesRefuse (wr 0x10 0x1234)) 0x38 ∧
    (narrow.scalableOn ∧ narrow.uncached ∧ smDte narrowCe = true) := by
  obtain ⟨r1, f1, h1⟩ := witness_PasidRefuses.2.2.2.2.2.1
  obtain ⟨r2, f2, h2⟩ := witness_ContextRefuses.1
  exact ⟨⟨_, _, .ridPasid 0x2200 narrowCe narrow_context rfl (by decide +kernel)⟩,
    ⟨_, _, .pasidDisabled 0x2200 0x8015 _ (context_with _ (.inl rfl)) rfl (by decide +kernel)⟩,
    ⟨_, _, .ridPasidUsed 0x2200 0x801D _ witness_scalableContext rfl (by decide +kernel) (by decide +kernel) (by decide +kernel)⟩,
    ⟨_, _, .pasidTooWide 0x2200 narrowCe _ narrow_context rfl (by decide +kernel) (by decide +kernel) (by decide +kernel)⟩,
    ⟨_, _, .pasid 0x2200 0x801D 63 _ _ _ witness_scalableContext ⟨by decide +kernel, rfl, by decide +kernel⟩ h1⟩,
    ⟨_, _, .context _ _ _ h2⟩, ⟨rfl, rfl, by decide +kernel⟩, ⟨rfl, rfl⟩, by decide +kernel⟩

/-- `scalable` on a unit without Execute Requests. -/
def noErs : State :=
  { scalable with caps := { scalable.caps with ecap := scalable.caps.ecap &&& ~~~(0x40000000 : BitVec 64) } }

/-- An execute request there, and a privileged request under a PASID-table entry that allows none. -/
theorem witness_entryRefuses :
    noErs.entryRefuses { rdReq 0x10 0x1234 with pasid := some ⟨5, false, true⟩ } 0x801D scalablePe 0x5C ∧
    noErs.requestTables { rdReq 0x10 0x1234 with pasid := some ⟨5, false, true⟩ } 0x2200 0x8000 0x9140 0x801D 5 scalablePe ∧
    scalable.entryRefuses { wr 0x10 0x1234 with pasid := some ⟨5, true, false⟩ } 0x801D scalablePe 0x5D ∧
    scalable.requestTables { wr 0x10 0x1234 with pasid := some ⟨5, true, false⟩ } 0x2200 0x8000 0x9140 0x801D 5 scalablePe :=
  ⟨.inl ⟨rfl, by decide +kernel, _, rfl, rfl⟩,
    ⟨⟨rfl, rfl, by decide +kernel⟩, ⟨⟨0x2001, by decide +kernel⟩, ⟨0x801D, by decide +kernel⟩, by decide +kernel⟩,
      ⟨by decide +kernel, rfl, by decide +kernel⟩,
      ⟨0x9001, by unfold State.pasidDirectory State.pasidTable State.pasidProgrammed; decide +kernel⟩⟩,
    .inr ⟨rfl, fun p e => (by cases e; nofun), rfl, by decide +kernel⟩,
    witness_scalableOn, witness_scalableContext, ⟨by decide +kernel, rfl, by decide +kernel⟩, witness_scalablePasid.1⟩

/-! ### The second stage -/

/-- Where the top table of the second stage cannot be written, its flags cannot be set. -/
theorem badWrite_maps : (badWrite [0xD000] scalable).ssMaps secondPe true 0xABCD234 highPath 21 := by
  refine ⟨by decide +kernel, ?_⟩
  rw [show levels (agawLevels (peAw secondPe)) = [30, 21, 12] by decide +kernel, highPath]
  simp only [State.ssUses]; decide +kernel

theorem badWrite_flags : (badWrite [0xD000] scalable).flagsFail secondPe highPath 0x7C 0x7D 0x7D := by
  rw [State.flagsFail, if_pos (by decide +kernel)]
  exact ⟨[], used 0xD000 0xE003 0x100, _, rfl, fun _ h => (nomatch h), by unfold UsedEntry.owes; decide +kernel,
    .inr ⟨rfl, rfl, by decide +kernel⟩⟩

theorem witness_SsRefuses :
    scalable.SsRefuses secondPe .write (2 ^ 39) 0x84 ∧
    (badRead [0xD000] scalable).SsRefuses secondPe .write 0x1234 0x7B ∧
    (badRead [0xE000] scalable).SsRefuses secondPe .write 0x1234 0x78 ∧
    (scalableWith [(0xE000, 0)]).SsRefuses secondPe .write 0x1234 0x79 ∧
    (scalableWith [(0xE000, 0x4000000000000083)]).SsRefuses secondPe .write 0x1234 0x7A ∧
    (scalableWith [(0xD000, 0xE001), (0xE000, 0x82)]).SsRefuses secondPe .write 0x1234 0x79 ∧
    (scalableWith [(0xE000, 0x81)]).SsRefuses secondPe .write 0x1234 0x85 ∧
    (scalableWith [(0xE000, 0x82)]).SsRefuses secondPe .read 0x1234 0x86 ∧
    (badWrite [0xD000] scalable).SsRefuses secondPe .write 0xABCD234 0x7D := by
  have lv : levels (agawLevels (peAw secondPe)) = [30, 21, 12] := by decide +kernel
  have top (s : State) (x : Halt) (l : List Addr) (h : s.memRead 0xD000 8 = some (0xE003 : BitVec 64).toNat)
      (hs : s.caps = scalable.caps ∧ s.plat = scalable.plat) (d : s.SsStuck (peEmte secondPe) 0x1234 [21, 12] 0xE000 x l) :
      s.SsStuck (peEmte secondPe) 0x1234 (levels (agawLevels (peAw secondPe))) (peSsptptr s.plat.haw secondPe) x (0xD000 :: l) := by
    rw [lv, hs.2, show peSsptptr scalable.plat.haw secondPe = 0xD000 by decide +kernel]
    refine .deeper 30 [21, 12] 0xD000 0xD000 0xE003 x l (by decide +kernel) h (by decide +kernel) ?_ (by decide +kernel) ?_
    · rw [hs.1, hs.2]; decide +kernel
    · rw [hs.2, show pgAddr scalable.plat.haw 0xE003 30 = 0xE000 by decide +kernel]; exact d
  refine ⟨.unmapped _ (by rw [State.ssUnmapped, if_pos (by decide +kernel)]), .unmapped _ ?_, .unmapped _ ?_, .unmapped _ ?_,
    .unmapped _ ?_, .nothing [used 0xD000 0xE001 0x100, used 0xE000 0x82 0x100] 21 ⟨by decide +kernel, ?_⟩ rfl rfl,
    .write [used 0xD000 0xE003 0x100, used 0xE000 0x81 0x100] 21 ⟨by decide +kernel, ?_⟩ rfl rfl rfl,
    .read [used 0xD000 0xE003 0x100, used 0xE000 0x82 0x100] 21 ⟨by decide +kernel, ?_⟩ rfl
      (by unfold ssGrants; decide +kernel),
    .flags highPath 21 0xABCD234 _ ⟨badWrite_maps, by unfold ssGrants; decide +kernel, by decide +kernel⟩ (by decide +kernel) ?_⟩
  · rw [State.ssUnmapped, if_neg (by decide +kernel), lv]
    exact ⟨.unread, _, .unread 30 [21, 12] _ _ rfl (by decide +kernel), by decide +kernel⟩
  · rw [State.ssUnmapped, if_neg (by decide +kernel)]
    exact ⟨.unread, _, top _ _ _ (by decide +kernel) ⟨rfl, rfl⟩ (.unread 21 [12] _ _ rfl (by decide +kernel)), by decide +kernel⟩
  · rw [State.ssUnmapped, if_neg (by decide +kernel)]
    exact ⟨.absent, _, top _ _ _ (by decide +kernel) ⟨rfl, rfl⟩
      (.absent 21 [12] _ _ 0 rfl (by decide +kernel) rfl rfl), by decide +kernel⟩
  · rw [State.ssUnmapped, if_neg (by decide +kernel)]
    exact ⟨.reserved, _, top _ _ _ (by decide +kernel) ⟨rfl, rfl⟩
      (.reserved 21 [12] _ _ 0x4000000000000083 rfl (by decide +kernel) (by decide +kernel) (by decide +kernel)), by decide +kernel⟩
  · rw [lv]; simp only [State.ssUses]; decide +kernel
  · rw [lv]; simp only [State.ssUses]; decide +kernel
  · rw [lv]; simp only [State.ssUses]; decide +kernel
  · exact badWrite_flags

/-- The PASID-table entry of PASID 6 in `unsnooped`. -/
@[irreducible] def unsnoopedPe : BitVec 512 := BitVec.ofNat 512 (0xD285 + 7 * 2 ^ 64)

/-- Paging structures read without snooping: no flag can be set. -/
theorem witness_unsnooped : unsnooped.SsRefuses unsnoopedPe .write 0xABCD234 0x7C :=
  .flags highPath 21 0xABCD234 _ ⟨⟨by decide +kernel, by
      rw [show levels (agawLevels (peAw unsnoopedPe)) = [30, 21, 12] by decide +kernel, highPath]
      simp only [State.ssUses]; decide +kernel⟩, by unfold ssGrants; decide +kernel, by decide +kernel⟩
    (by decide +kernel) (by
      rw [State.flagsFail, if_neg (by decide +kernel)]
      exact ⟨rfl, used 0xD000 0xE003 0x100, by decide +kernel, by unfold UsedEntry.owes; decide +kernel⟩)

/-! ### The first stage and nesting -/

/-- States that read the first-stage entries of `scalable` for page 1h, and the leaf there. -/
def leafStates : List (State × BitVec 64) :=
  [(scalableWith [(0xC008, 0xABCD003)], 0xABCD003), (scalableWith [(0xC008, 0xABCD005)], 0xABCD005),
    (scalableWith [(0xC008, 0xFEE00007)], 0xFEE00007), (badWrite [0x6000] scalable, 0xABCD007)]

/-- The entries of the walk with this leaf. -/
def leafPath (d : Bool) (e : BitVec 64) : List UsedEntry :=
  [used 0x6000 0xA007 0x20, used 0xA000 0xB007 0x20, used 0xB000 0xC007 0x20, used 0xC008 e (if d then 0x60 else 0x20)]

theorem leaf_maps (d : Bool) (x : State × BitVec 64) (h : x ∈ leafStates) :
    x.1.fsMaps scalablePe d 0x1234 (leafPath d x.2) [] 12 := by
  have q : pePgtt scalablePe ≠ 3 := by decide +kernel
  have p : ∀ (s : State) a, s.fsPlace scalablePe a a true [] := fun s a => fsPlace_here _ _ a q
  have b : ∀ (s : State) e k, s.fsInBound scalablePe e k := fun s e k h => absurd h q
  simp only [leafStates, List.mem_cons, List.not_mem_nil, or_false] at h
  have hp : x.1.plat = scalable.plat := by rcases h with rfl | rfl | rfl | rfl <;> rfl
  refine ⟨by decide +kernel, ?_⟩
  rw [show fsLevelsOf scalablePe = [39, 30, 21, 12] by decide +kernel, hp,
    show peFsptptr scalable.plat.haw scalablePe = 0x6000 by decide +kernel]
  rcases h with rfl | rfl | rfl | rfl <;> cases d
  all_goals
    refine ⟨[], [], rfl, p _ 0x6000, by decide +kernel, by decide +kernel, by decide +kernel, b _ _ _, by decide +kernel, ?_⟩
    refine ⟨[], [], rfl, p _ 0xA000, by decide +kernel, by decide +kernel, by decide +kernel, b _ _ _, by decide +kernel, ?_⟩
    refine ⟨[], [], rfl, p _ 0xB000, by decide +kernel, by decide +kernel, by decide +kernel, b _ _ _, by decide +kernel, ?_⟩
    exact ⟨[], [], rfl, p _ 0xC008, by decide +kernel, by decide +kernel, by decide +kernel, b _ _ _, by decide +kernel,
      by rw [if_pos (by decide +kernel)]; exact ⟨rfl, rfl, rfl⟩⟩

/-- With one stage, an entry lies where its address says, and nothing else owes a flag. -/
theorem fsAt_here (s : State) (a : Addr) : s.fsAt scalablePe a a :=
  ⟨true, [], fsPlace_here _ _ a (by decide +kernel), by
    rw [show owedEntries scalablePe [] [] [] = [] by decide +kernel]; exact fun _ h => nomatch h⟩

theorem witness_FsRefuses :
    scalable.FsRefuses scalablePe false .write (2 ^ 47) 0x80 ∧
    (badRead [0x6000] scalable).FsRefuses scalablePe false .write 0x1234 0x73 ∧
    (badRead [0xA000] scalable).FsRefuses scalablePe false .write 0x1234 0x70 ∧
    (scalableWith [(0xA000, 0)]).FsRefuses scalablePe false .write 0x1234 0x71 ∧
    (scalableWith [(0xA000, 0xB087)]).FsRefuses scalablePe false .write 0x1234 0x72 ∧
    (scalableWith [(0xC008, 0xABCD003)]).FsRefuses scalablePe false .write 0x1234 0x81 ∧
    (scalableWith [(0xC008, 0xABCD005)]).FsRefuses scalablePe false .write 0x1234 0x85 := by
  have lv : fsLevelsOf scalablePe = [39, 30, 21, 12] := by decide +kernel
  have b : ∀ (s : State) e k, s.fsInBound scalablePe e k := fun s e k h => absurd h (by decide +kernel)
  have none (s : State) : s.canSetFlags scalablePe (owedEntries scalablePe [] [] []) := by
    rw [show owedEntries scalablePe [] [] [] = [] by decide +kernel]; exact fun _ h => nomatch h
  have top (s : State) (reason : BitVec 8) (h : s.memRead 0x6000 8 = some (0xA007 : BitVec 64).toNat)
      (hs : s.caps = scalable.caps ∧ s.plat = scalable.plat) (d : s.FsStuck scalablePe 0x1234 false [30, 21, 12] 0xA000 reason) :
      s.FsStuck scalablePe 0x1234 true (fsLevelsOf scalablePe) (peFsptptr s.plat.haw scalablePe) reason := by
    rw [lv, hs.2, show peFsptptr scalable.plat.haw scalablePe = 0x6000 by decide +kernel]
    refine .deeper true 39 [30, 21, 12] 0x6000 0x6000 0xA007 reason (fsAt_here s 0x6000) h (by decide +kernel) ?_ (b _ _ _)
      (by decide +kernel) ?_
    · rw [hs.1, hs.2]; decide +kernel
    · rw [hs.2, show pgAddr scalable.plat.haw 0xA007 39 = 0xA000 by decide +kernel]; exact d
  refine ⟨.notCanonical (by decide +kernel), .stuck _ (by decide +kernel) ?_, .stuck _ (by decide +kernel) ?_,
    .stuck _ (by decide +kernel) ?_, .stuck _ (by decide +kernel) ?_,
    .user (leafPath false 0xABCD003) [] 12 ⟨leaf_maps false (_, _) (.head _), none _⟩
      (by unfold fsUser; decide +kernel),
    .write (leafPath false 0xABCD005) [] 12 ⟨leaf_maps false (_, _) (.tail _ (.head _)), none _⟩
      (.inr (by decide +kernel)) rfl (by decide +kernel)⟩
  · rw [lv, show peFsptptr (badRead [0x6000] scalable).plat.haw scalablePe = 0x6000 by decide +kernel]
    exact .unread true 39 [30, 21, 12] _ 0x6000 (fsAt_here _ 0x6000) (by decide +kernel)
  · exact top _ _ (by decide +kernel) ⟨rfl, rfl⟩ (.unread false 30 [21, 12] _ 0xA000 (fsAt_here _ 0xA000) (by decide +kernel))
  · exact top _ _ (by decide +kernel) ⟨rfl, rfl⟩
      (.absent false 30 [21, 12] _ 0xA000 0 (fsAt_here _ 0xA000) (by decide +kernel) rfl)
  · exact top _ _ (by decide +kernel) ⟨rfl, rfl⟩
      (.reserved false 30 [21, 12] _ 0xA000 0xB087 (fsAt_here _ 0xA000) (by decide +kernel) (by decide +kernel) (by decide +kernel))

/-- States that read the entries of `scalable` that place its first-stage entries, and the first-stage ones, with the leaf
there. -/
def nestStates : List (State × BitVec 64) :=
  [(scalableWith [(0xE2A8, 0)], 0xABCD007), (scalableWith [(0xE2A8, 0xAA00081)], 0xABCD007),
    (scalableWith [(0xE2A8, 0xAA00082), (0xC008, 0xABCD005)], 0xABCD005), (scalableWith [(0xA000, 0x10000000007)], 0)]

theorem nest_low (x : State × BitVec 64) (h : x ∈ nestStates) (a : Addr) (ha : a ∈ [0x6000, 0xA000, 0xB000, 0xC008]) :
    x.1.fsPlace nestedPe a a true lowPath := by
  refine fsPlace_nested _ _ a a _ 21 (by decide +kernel) (by decide +kernel) ?_
  rw [show placingAccess nestedPe = .atomic by decide +kernel]
  simp only [nestStates, List.mem_cons, List.not_mem_nil, or_false] at h
  rcases h with rfl | rfl | rfl | rfl <;> fin_cases ha <;>
  · refine ⟨⟨by decide +kernel, ?_⟩, ⟨by decide +kernel, by decide +kernel⟩, by decide +kernel⟩
    rw [show levels (agawLevels (peAw nestedPe)) = [30, 21, 12] by decide +kernel, lowPath]
    simp only [State.ssUses]; decide +kernel

/-- The second-stage entries that place the first-stage ones. -/
def nestPath : List UsedEntry := lowPath ++ lowPath ++ lowPath ++ lowPath

theorem nest_maps (d : Bool) (x : State × BitVec 64) (h : x ∈ nestStates) (he : x.2 ≠ 0) :
    x.1.fsMaps nestedPe d 0x1234 (leafPath d x.2) nestPath 12 := by
  have p := nest_low x h
  simp only [nestStates, List.mem_cons, List.not_mem_nil, or_false] at h
  have hp : x.1.plat = scalable.plat := by rcases h with rfl | rfl | rfl | rfl <;> rfl
  refine ⟨by decide +kernel, ?_⟩
  rw [show fsLevelsOf nestedPe = [39, 30, 21, 12] by decide +kernel, hp,
    show peFsptptr scalable.plat.haw nestedPe = 0x6000 by decide +kernel]
  rcases h with rfl | rfl | rfl | rfl
  case inr.inr.inr => exact absurd rfl he
  all_goals
    cases d
    all_goals
      refine ⟨lowPath, _, by rfl, p 0x6000 (by decide), by decide +kernel, by decide +kernel, by decide +kernel,
        by unfold State.fsInBound; decide +kernel, by decide +kernel, ?_⟩
      refine ⟨lowPath, _, by rfl, p 0xA000 (by decide), by decide +kernel, by decide +kernel, by decide +kernel,
        by unfold State.fsInBound; decide +kernel, by decide +kernel, ?_⟩
      refine ⟨lowPath, _, by rfl, p 0xB000 (by decide), by decide +kernel, by decide +kernel, by decide +kernel,
        by unfold State.fsInBound; decide +kernel, by decide +kernel, ?_⟩
      exact ⟨lowPath, [], by rfl, p 0xC008 (by decide), by decide +kernel, by decide +kernel, by decide +kernel,
        by unfold State.fsInBound; decide +kernel, by decide +kernel,
        by rw [if_pos (by decide +kernel)]; exact ⟨rfl, rfl, rfl⟩⟩

/-- Where the second stage does not place the top table, for want of a page or of a permission, and where it places an entry that
leads beyond its own bound. -/
theorem witness_NestedStuck :
    (scalableWith [(0xE000, 0)]).FsRefuses nestedPe false .write 0x1234 0x79 ∧
    (scalableWith [(0xE000, 0x82)]).FsRefuses nestedPe false .write 0x1234 0x75 ∧
    (scalableWith [(0xA000, 0x10000000007)]).FsRefuses nestedPe false .write 0x1234 0x74 := by
  have lv : fsLevelsOf nestedPe = [39, 30, 21, 12] := by decide +kernel
  have ls : levels (agawLevels (peAw nestedPe)) = [30, 21, 12] := by decide +kernel
  have g : placingAccess nestedPe = .atomic := by decide +kernel
  have fp : peFsptptr scalable.plat.haw nestedPe = 0x6000 := by decide +kernel
  have sp : peSsptptr scalable.plat.haw nestedPe = 0xD000 := by decide +kernel
  refine ⟨.stuck _ (by decide +kernel) ?_, .stuck _ (by decide +kernel) ?_, .stuck _ (by decide +kernel) ?_⟩
  · rw [lv, show (scalableWith [(0xE000, 0)]).plat.haw = scalable.plat.haw from rfl, fp]
    refine .unplaced true 39 [30, 21, 12] 0x6000 _ ⟨by decide +kernel, 0x79, .unmapped _ ?_, by decide +kernel⟩
    rw [State.ssUnmapped, if_neg (by decide +kernel), ls,
      show (scalableWith [(0xE000, 0)]).plat.haw = scalable.plat.haw from rfl, sp]
    refine ⟨.absent, [0xD000, 0xE000], .deeper 30 [21, 12] 0xD000 0xD000 0xE003 _ _ (by decide +kernel) (by decide +kernel)
      (by decide +kernel) (by decide +kernel) (by decide +kernel) (.absent 21 [12] _ _ 0 (by decide +kernel) (by decide +kernel)
        rfl rfl), rfl⟩
  · rw [lv, show (scalableWith [(0xE000, 0x82)]).plat.haw = scalable.plat.haw from rfl, fp]
    refine .unplaced true 39 [30, 21, 12] 0x6000 _ ⟨by decide +kernel, 0x86, ?_, by decide +kernel⟩
    rw [g]
    refine .read [used 0xD000 0xE003 0x100, used 0xE000 0x82 0x100] 21 ⟨by decide +kernel, ?_⟩ rfl
      (by unfold ssGrants; decide +kernel)
    rw [ls]; simp only [State.ssUses]; decide +kernel
  · have at' (a : Addr) (ha : a ∈ [0x6000, 0xA000, 0xB000, 0xC008]) :
        (scalableWith [(0xA000, 0x10000000007)]).fsAt nestedPe a a :=
      ⟨true, lowPath, nest_low (_, _) (.tail _ (.tail _ (.tail _ (.head _)))) a ha,
        by unfold State.canSetFlags; decide +kernel⟩
    rw [lv, show (scalableWith [(0xA000, 0x10000000007)]).plat.haw = scalable.plat.haw from rfl, fp]
    exact .deeper true 39 [30, 21, 12] 0x6000 0x6000 0xA007 _ (at' 0x6000 (by decide)) (by decide +kernel) (by decide +kernel)
      (by decide +kernel) (by unfold State.fsInBound; decide +kernel) (by decide +kernel)
      (.beyond false 30 [21, 12] _ 0xA000 0x10000000007 (at' 0xA000 (by decide)) (by decide +kernel) (by decide +kernel)
        (by decide +kernel) (by unfold State.fsInBound; decide +kernel))

/-! ### The whole translation -/

/-- The top table of the first stage cannot be written. -/
theorem first_flags :
    (badWrite [0x6000] scalable).flagsFail scalablePe (leafPath true 0xABCD007) 0x90 0x91 0x91 := by
  rw [State.flagsFail, if_pos (by decide +kernel)]
  exact ⟨[], used 0x6000 0xA007 0x20, _, rfl, fun _ h => (nomatch h), by unfold UsedEntry.owes; decide +kernel,
    .inr ⟨rfl, rfl, by decide +kernel⟩⟩

/-- The second stage has no page for the address that the first stage gives. -/
theorem high_unmapped : (scalableWith [(0xE2A8, 0)]).ssUnmapped nestedPe 0xABCD234 0x79 := by
  rw [State.ssUnmapped, if_neg (by decide +kernel), show levels (agawLevels (peAw nestedPe)) = [30, 21, 12] by decide +kernel,
    show (scalableWith [(0xE2A8, 0)]).plat.haw = scalable.plat.haw from rfl,
    show peSsptptr scalable.plat.haw nestedPe = 0xD000 by decide +kernel]
  exact ⟨.absent, [0xD000, 0xE2A8], .deeper 30 [21, 12] 0xD000 0xD000 0xE003 _ _ (by decide +kernel) (by decide +kernel)
    (by decide +kernel) (by decide +kernel) (by decide +kernel)
    (.absent 21 [12] _ _ 0 (by decide +kernel) (by decide +kernel) rfl rfl), rfl⟩

theorem no_owed (s : State) : s.canSetFlags scalablePe (owedEntries scalablePe [] [] []) := by
  rw [show owedEntries scalablePe [] [] [] = [] by decide +kernel]; exact fun _ h => nomatch h

/-- Every clause of a refused walk; in the last two the output is in the interrupt range, or beyond the unit. -/
theorem witness_WalkRefuses :
    (scalableWith [(0xC008, 0xABCD005)]).WalkRefuses scalablePe false .write 0x1234 0x85 ∧
    (badWrite [0x6000] scalable).WalkRefuses scalablePe false .write 0x1234 0x91 ∧
    (scalableWith [(0xE000, 0x81)]).WalkRefuses secondPe false .write 0x1234 0x85 ∧
    (scalableWith [(0xE2A8, 0)]).WalkRefuses nestedPe false .write 0x1234 0x79 ∧
    (scalableWith [(0xC008, 0xFEE00007)]).WalkRefuses scalablePe false .write 0x1234 0x87 ∧
    scalable.WalkRefuses throughPe false .write (2 ^ 46) 0x83 :=
  ⟨.first _ (.inl (by decide +kernel)) witness_FsRefuses.2.2.2.2.2.2,
    .firstFlags (leafPath true 0xABCD007) [] 12 0xABCD234 _ (.inl (by decide +kernel))
      ⟨leaf_maps true (_, _) (.tail _ (.tail _ (.tail _ (.head _)))), .inr (by decide +kernel), by decide +kernel, by decide +kernel⟩
      (no_owed _) first_flags,
    .second _ (by decide +kernel) witness_SsRefuses.2.2.2.2.2.2.1,
    .nested (leafPath true 0xABCD007) nestPath 12 0xABCD234 0x79 (by decide +kernel)
      ⟨nest_maps true (_, _) (.head _) (by decide), .inr (by decide +kernel), by decide +kernel, by decide +kernel⟩
      (by unfold State.canSetFlags; decide +kernel) (.unmapped _ high_unmapped),
    .interruptRange (leafPath true 0xFEE00007) [] [] 12 0xFEE00234 (by
        rw [State.scalableMapped, show (pePgtt scalablePe).toNat = 1 by decide +kernel]
        exact ⟨⟨leaf_maps true (_, _) (.tail _ (.tail _ (.head _))), .inr (by decide +kernel), by decide +kernel,
          by decide +kernel⟩, rfl⟩) (by unfold State.canSetFlags; decide +kernel) (by decide +kernel),
    .passThrough (by decide +kernel) (by decide +kernel)⟩

/-- The PASID-table entries of `scalable`, with their addresses. -/
def entries : List (Pasid × Addr × BitVec 512) :=
  [(5, 0x9140, scalablePe), (6, 0x9180, secondPe), (7, 0x91C0, nestedPe), (0, 0x9000, throughPe)]

/-- The unit, the mode and the tables down to this PASID-table entry are those of `scalable`. -/
def intact (s : State) (x : Pasid × Addr × BitVec 512) : Bool :=
  s.gsts.tes && s.latchedRt == scalable.latchedRt && s.caps == scalable.caps && s.plat == scalable.plat &&
  s.memRead 0x1000 16 == some 0x2001 && s.memRead 0x2200 32 == some 0x801D && s.memRead 0x8000 8 == some 0x9001 &&
  s.memRead x.2.1.toNat 64 == some x.2.2.toNat

/-- They are in every state whose walk is refused above, for the entry that is walked. -/
theorem witness_intact :
    ([badRead [0xD000] scalable, badRead [0xE000] scalable, badWrite [0xD000] scalable, scalableWith [(0xE000, 0)],
      scalableWith [(0xE000, 0x4000000000000083)], scalableWith [(0xD000, 0xE001), (0xE000, 0x82)], scalableWith [(0xE000, 0x81)],
      scalableWith [(0xE000, 0x82)]].all (intact · (6, 0x9180, secondPe)) &&
    ([badRead [0x6000] scalable, badRead [0xA000] scalable, badWrite [0x6000] scalable, scalableWith [(0xA000, 0)],
      scalableWith [(0xA000, 0xB087)]] ++ leafStates.map (·.1)).all (intact · (5, 0x9140, scalablePe)) &&
    ([scalableWith [(0xE000, 0)], scalableWith [(0xE000, 0x82)]] ++ nestStates.map (·.1)).all (intact · (7, 0x91C0, nestedPe)) &&
    entries.all (intact scalable)) = true := by decide +kernel

/-- What the tables check of the entries of `scalable`. -/
theorem entries_ok :
    ∀ x ∈ entries, x.1.toNat < 2 ^ scalable.caps.pssBits ∧ x.1.toNat / 64 = 0 ∧
      x.2.1 = entryAddr (addrField (0x9001 : BitVec 64) 0 12 scalable.plat.haw) 64 (x.1.toNat % 64) ∧ peP x.2.2 = true ∧
      peRsvd scalable.caps scalable.plat.haw x.2.2 = false ∧ scalable.pasidProgrammed x.2.2 := by
  intro x hx
  simp only [entries, List.mem_cons, List.not_mem_nil, or_false] at hx
  unfold State.pasidProgrammed
  rcases hx with rfl | rfl | rfl | rfl <;> decide +kernel

/-- In such a state a request of device 0010h, with a PASID of the table or by RID_PASID 0, meets its entry. -/
theorem intact_entry (s : State) (r : MemReq) (x : Pasid × Addr × BitVec 512) (h : intact s x = true) (hx : x ∈ entries)
    (hr : r.sid = 0x10 ∧ ((x.1 ≠ 0 ∧ r.pasid = some ⟨x.1, false, false⟩) ∨ (x.1 = 0 ∧ r.pasid = none))) :
    s.requestEntry r 0x2200 0x8000 x.2.1 0x801D x.1 x.2.2 := by
  simp only [intact, Bool.and_eq_true, beq_iff_eq] at h
  obtain ⟨⟨⟨⟨⟨⟨⟨h1, h2⟩, h3⟩, h4⟩, h5⟩, h6⟩, h7⟩, m⟩ := h
  obtain ⟨o1, o2, o3, o4, o5, o6⟩ := entries_ok x hx
  have rid : smRidPasid scalable.caps 0x801D = 0 := by decide +kernel
  have root : s.rootAt 0x10 = 0x1000 := by unfold State.rootAt State.pageBase State.hpaEnd; rw [h2, h4]; decide +kernel
  refine ⟨⟨⟨h1, by rw [h2]; rfl, by rw [h3]; decide +kernel⟩, ⟨⟨0x2001, by rw [hr.1, root]; exact h5, ?_⟩,
    ⟨0x801D, h6, by decide +kernel⟩, by decide +kernel, by rw [h3, h4]; decide +kernel, by unfold sct41; rw [h4]; rfl⟩, ?_,
    ⟨0x9001, ⟨by rw [o2]; decide, by rw [h4, o2]; decide +kernel, h7⟩, ⟨by decide, by rw [h4]; decide +kernel, by rw [h4]; exact o3⟩,
      m, o4, by rw [h3, h4]; exact o5, by unfold State.pasidProgrammed; rw [h3, h4]; exact o6⟩⟩, ?_, ?_⟩
  · rw [h4, hr.1]; decide +kernel
  · unfold State.requestPasid
    rcases hr.2 with ⟨e0, e⟩ | ⟨e0, e⟩
    · rw [e, h3]; exact ⟨o1, rfl, by decide +kernel, fun q => e0 (by rw [q.2, rid])⟩
    · rw [e, h3]; exact ⟨o1, by rw [e0, rid]⟩
  · intro q
    rcases hr.2 with ⟨_, e⟩ | ⟨_, e⟩ <;> rw [State.requestPriv, e] at q
    · cases q
    · rw [h3] at q; exact absurd q (by decide +kernel)
  · intro p e er
    rcases hr.2 with ⟨_, e'⟩ | ⟨_, e'⟩ <;> rw [e'] at e <;> cases e
    cases er
/-! ### Translation requests -/

theorem high_maps (pe : BitVec 512) (h : pe = secondPe ∨ pe = nestedPe) : scalable.ssMaps pe true 0xABCD234 highPath 21 :=
  (high_translates pe h).1

/-- A translation request gets its page by each translation type: one page lies in the interrupt range; as
pass-through all of the first GByte. -/
theorem witness_pageGiven :
    scalable.pageGiven scalablePe false false true 0x1234 0xABCD000 (firstPath true) [] [] 12 true true ∧
    scalable.pageGiven secondPe false false true 0xABCD234 0xAA00000 [] [] highPath 21 true true ∧
    scalable.pageGiven nestedPe false false true 0x1234 0xABCD000 (firstPath true) (lowPath ++ lowPath ++ lowPath ++ lowPath)
      highPath 12 true true ∧
    (scalableWith [(0xC008, 0xFEE00007)]).pageGiven scalablePe false false true 0x1234 0xFEE00000 (leafPath true 0xFEE00007) [] [] 12
      true true ∧
    scalable.pageGiven throughPe false true false 0x5000 0 [] [] [] 30 true false ∧
    regionMeetsInterruptRange 0xABCD000 12 = false ∧ regionMeetsInterruptRange 0xAA00000 21 = false ∧
    regionMeetsInterruptRange 0xFEE00000 12 = true ∧ regionMeetsInterruptRange 0 30 = false := by
  refine ⟨?_, ?_, ?_, ?_, ?_, by decide +kernel⟩
  · rw [State.pageGiven, show (pePgtt scalablePe).toNat = 1 by decide +kernel]
    exact ⟨first_maps true, .inr (by decide +kernel), rfl, by decide +kernel, by decide +kernel, rfl⟩
  · rw [State.pageGiven, show (pePgtt secondPe).toNat = 2 by decide +kernel]
    exact ⟨high_maps _ (.inl rfl), by decide +kernel, by decide +kernel, by decide +kernel, rfl, rfl⟩
  · rw [State.pageGiven, show (pePgtt nestedPe).toNat = 3 by decide +kernel]
    exact ⟨0xABCD234, 12, 21, nested_maps true, .inr (by decide +kernel), by decide +kernel, high_maps _ (.inr rfl),
      by decide +kernel, by decide +kernel, by decide +kernel, by decide +kernel⟩
  · rw [State.pageGiven, show (pePgtt scalablePe).toNat = 1 by decide +kernel]
    exact ⟨leaf_maps true (_, _) (.tail _ (.tail _ (.head _))), .inr (by decide +kernel), rfl, by decide +kernel,
      by decide +kernel, rfl⟩
  · rw [State.pageGiven, show (pePgtt throughPe).toNat = 4 by decide +kernel]
    exact ⟨by decide +kernel, ⟨.inr ⟨.inr rfl, by decide +kernel⟩, fun j hj hk => by omega⟩, by decide +kernel, rfl, rfl, rfl,
      rfl, rfl⟩

/-- Second-stage pages that leave a translation request nothing: write-only to one that asks for no write, and under nesting to
one whose first stage refuses writing. -/
theorem witness_nothingGiven :
    (scalableWith [(0xE000, 0x82)]).nothingGiven secondPe false true 0x1234 [] []
      [used 0xD000 0xE003 0x100, used 0xE000 0x82 0x100] ∧
    (scalableWith [(0xE2A8, 0xAA00082), (0xC008, 0xABCD005)]).nothingGiven nestedPe false false 0x1234 (leafPath false 0xABCD005)
      nestPath [used 0xD000 0xE003 0x100, used 0xE2A8 0xAA00082 0x100] := by
  refine ⟨?_, ?_⟩
  · rw [State.nothingGiven, show (pePgtt secondPe).toNat = 2 by decide +kernel]
    refine ⟨⟨21, by decide +kernel, ?_⟩, by decide +kernel, by decide +kernel, rfl, rfl⟩
    rw [show levels (agawLevels (peAw secondPe)) = [30, 21, 12] by decide +kernel]
    simp only [State.ssUses]; decide +kernel
  · rw [State.nothingGiven, show (pePgtt nestedPe).toNat = 3 by decide +kernel]
    refine ⟨12, 21, nest_maps _ (_, _) (.tail _ (.tail _ (.head _))) (by decide), .inr (by decide +kernel),
      ⟨by decide +kernel, ?_⟩, by decide +kernel, by decide +kernel⟩
    rw [show levels (agawLevels (peAw nestedPe)) = [30, 21, 12] by decide +kernel]
    simp only [State.ssUses]; decide +kernel

theorem witness_TranslationRefused :
    scalable.TranslationRefused scalablePe false false (2 ^ 47) 0x80 [] ∧
    (badWrite [0x6000] scalable).TranslationRefused scalablePe false false 0x1234 0x91 [] ∧
    scalable.TranslationRefused secondPe false false (2 ^ 39) 0x84 [] ∧
    (badWrite [0xD000] scalable).TranslationRefused secondPe false false 0xABCD234 0x7D highPath ∧
    (scalableWith [(0xE2A8, 0)]).TranslationRefused nestedPe false false 0x1234 0x79 [] ∧
    scalable.TranslationRefused throughPe false false (2 ^ 46) 0x83 [] :=
  ⟨.first _ (.inl (by decide +kernel)) (.notCanonical (by decide +kernel)),
    .firstFlags (leafPath true 0xABCD007) [] 12 _ (by decide +kernel)
      (leaf_maps true (_, _) (.tail _ (.tail _ (.tail _ (.head _))))) (.inr (by decide +kernel)) first_flags,
    .second _ (by decide +kernel) (by rw [State.ssUnmapped, if_pos (by decide +kernel)]),
    .secondFlags highPath 21 _ (by decide +kernel) badWrite_maps (.inl (by decide +kernel)) (by decide +kernel) badWrite_flags,
    .nested (leafPath true 0xABCD007) nestPath 12 0x79 (by decide +kernel) (nest_maps true (_, _) (.head _) (by decide))
      (.inr (by decide +kernel)) (by unfold State.canSetFlags; decide +kernel) high_unmapped,
    .passThrough (by decide +kernel) (by decide +kernel)⟩

/-- The rest of ScalableTranslationRequest: requests by PASID and by RID_PASID, one to the interrupt range, and a device that may
not use ATS. -/
theorem witness_ScalableTranslationRequest :
    (∀ r ∈ [pasidTr 5 false, pasidTr 6 false, pasidTr 7 true, rdReq 0x10 0x5000, rdReq 0x10 0xFEE00000],
      Instr.wf (.translationRequest r) = true) ∧
    smDte 0x801D = true ∧ inInterruptRange (rdReq 0x10 0xFEE00000).addr = true ∧
    (scalableWith [(0x2200, 0x8019)]).scalableContext 0x10 0x2200 (BitVec.ofNat 256 0x8019) ∧
    smDte (BitVec.ofNat 256 0x8019) = false ∧
    (∀ ca ce, narrow.scalableContext 0x10 ca ce → smDte ce = true) :=
  ⟨by decide +kernel, by decide +kernel, by decide +kernel, context_with _ (.inr (.inr (.inr rfl))), by decide +kernel, by
    rintro ca ce ⟨⟨re, h, -, -, rfl⟩, ⟨c, h2, rfl⟩, -⟩
    have : re = 0x2001 := by
      have e : narrow.memRead (narrow.rootAt 0x10).toNat 16 = some 0x2001 := by decide +kernel
      exact Option.some.inj (h.symm.trans e)
    subst this
    have : c = 0x801D + 5 * 2 ^ 64 := by
      have e : narrow.memRead (entryAddr (addrField (smRootHalf (BitVec.ofNat 128 0x2001) 0x10) 0 12 narrow.plat.haw) 32
        (field (0x10 : SourceId) 0 7).toNat).toNat 32 = some (0x801D + 5 * 2 ^ 64) := by decide +kernel
      exact Option.some.inj (h2.symm.trans e)
    subst this
    decide +kernel⟩

/-- The clauses of TranslationRequestAnswered beside those of `witness_TranslationRequestAnswered`: the mode, the tables and the
walk refuse as above, for device 0011h; device 0010h may not use ATS; a page in the interrupt range; no permission left. -/
theorem witness_LegacyTranslationRequest :
    ceTt (legacyCe 0x3001) ≠ 1 ∧ inInterruptRange (rdReq 0x11 0xFEE00000).addr = true ∧
    (∀ r ∈ [rdReq 0x11 0xFEE00000, rdReq 0x11 0x1234, { rdReq 0x11 0x1234 with nw := true }, pasidTr 5 false],
      Instr.wf (.translationRequest r) = true) ∧
    readOnlyRequest legacy.caps { rdReq 0x11 0x1234 with nw := true } = true ∧
    legacy.legacyUnmapped (legacyCe 0x3005) .atomic (2 ^ 39) 0x04 [] ∧
    ((legacyWith [(0x5008, 0xFEE00003)]).legacyContext 0x11 0x2110 (legacyCe 0x3005) ∧
      (legacyWith [(0x5008, 0xFEE00003)]).legacyMapped (legacyCe 0x3005) 0x1234
        [used 0x3000 0x4003 0x100, used 0x4000 0x5003 0x100, used 0x5008 0xFEE00003 0x100] 12 ∧
      regionMeetsInterruptRange (pgAddr legacy.plat.haw 0xFEE00003 12) 12 = true) ∧
    ((legacyWith [(0x5008, 0xABCD002)]).legacyContext 0x11 0x2110 (legacyCe 0x3005) ∧
      (legacyWith [(0x5008, 0xABCD002)]).legacyMapped (legacyCe 0x3005) 0x1234
        [used 0x3000 0x4003 0x100, used 0x4000 0x5003 0x100, used 0x5008 0xABCD002 0x100] 12) := by
  refine ⟨by decide +kernel, by decide +kernel, by decide +kernel, by decide +kernel, ?_,
    ⟨⟨⟨0x2001, by decide +kernel⟩, ⟨_, by decide +kernel, rfl⟩, by decide +kernel⟩, ⟨by decide +kernel, ?_⟩, by decide +kernel⟩,
    ⟨⟨⟨0x2001, by decide +kernel⟩, ⟨_, by decide +kernel, rfl⟩, by decide +kernel⟩, ⟨by decide +kernel, ?_⟩⟩⟩
  · rw [State.legacyUnmapped, if_pos (by decide +kernel)]; exact ⟨rfl, rfl⟩
  all_goals
    rw [show levels (agawLevels (ceAw (legacyCe 0x3005))) = [30, 21, 12] by decide +kernel]
    simp only [State.ssUses]; decide +kernel

/-! ### Translated requests and page requests -/

/-- Translated requests of devices 0010h (no ATS) and 0011h, beyond the unit (2^46) and in the interrupt range; in scalable mode
with RID_PASID out of range (`narrow`), without DTE, and beyond. -/
theorem witness_TranslatedFaults :
    (∀ r ∈ [wr 0x10 0x5000, wr 0x11 (2 ^ 46), wr 0x11 0xFEE00000, wr 0x10 (2 ^ 46), wr 0x10 0xFEE00000],
      Instr.wf (.translatedRequest r) = true ∧ r.cxlCache = false) ∧
    ceTt (legacyCe 0x3001) ≠ 1 ∧ ceTt (legacyCe 0x3005) = 1 ∧ legacy.hpaEnd ≤ (2 ^ 46 : Addr).toNat ∧
    (0xFEE00000 : Addr).toNat < legacy.hpaEnd ∧ inInterruptRange (0xFEE00000 : Addr) = true ∧
    2 ^ narrow.caps.pssBits ≤ (smRidPasid narrow.caps narrowCe).toNat ∧ scalable.hpaEnd = legacy.hpaEnd ∧
    State.reset.gsts.tes = false := by decide +kernel

/-- A page request of device 0010h by RID_PASID. -/
def ridPage : PageMsg := { pageMsg with pp := false, pasid := 0 }

/-- The tables refuse page requests: by RID_PASID out of range, without PRE, with a PASID where none is allowed or with
RID_PASID, and at the PASID-table entry; a Stop Marker may be one of them. -/
theorem witness_PageRefuses :
    refuses (narrow.PageRefuses ridPage) 0x43 ∧
    refuses ((scalableWith [(0x2200, 0x800D)]).PageRefuses pageMsg) 0x47 ∧
    refuses ((scalableWith [(0x2200, 0x8015)]).PageRefuses pageMsg) 0x45 ∧
    refuses (scalable.PageRefuses { pageMsg with pasid := 0 }) 0x48 ∧
    refuses (scalable.PageRefuses { pageMsg with pasid := 63 }) 0x59 ∧
    refuses ((badRead [0x1000] scalable).PageRefuses pageMsg) 0x38 ∧
    isStopMarker { pageMsg with pasid := 63, lpig := true, rdr := false, wrr := false } = true ∧
    refuses (scalable.PageRefuses { pageMsg with pasid := 63, lpig := true, rdr := false, wrr := false }) 0x59 ∧
    (legacy.latchedRt.ttm = 0 ∧ legacy.gsts.tes = true) := by
  obtain ⟨r1, f1, h1⟩ := witness_PasidRefuses.2.2.2.2.2.1
  obtain ⟨r2, f2, h2⟩ := witness_ContextRefuses.1
  exact ⟨⟨_, _, .ridPasid 0x2200 narrowCe narrow_context rfl (by decide +kernel)⟩,
    ⟨_, _, .disabled 0x2200 0x800D (context_with _ (.inr (.inr (.inl rfl)))) nofun (by decide +kernel)⟩,
    ⟨_, _, .pasidDisabled 0x2200 0x8015 (context_with _ (.inl rfl)) (by decide +kernel) rfl (by decide +kernel)⟩,
    ⟨_, _, .ridPasidUsed 0x2200 0x801D witness_scalableContext (by decide +kernel) rfl (by decide +kernel) (by decide +kernel)
      (by decide +kernel)⟩,
    ⟨_, _, .pasid 0x2200 0x801D 63 _ _ _ witness_scalableContext (by decide +kernel) (by unfold State.pagePasid; decide +kernel) h1⟩,
    ⟨_, _, .context _ _ _ h2⟩, by decide,
    ⟨_, _, .pasid 0x2200 0x801D 63 _ _ _ witness_scalableContext (by decide +kernel) (by unfold State.pagePasid; decide +kernel) h1⟩,
    rfl, rfl⟩

/-- R1175, R1331: a page request refused by its tables is recorded as a page request with its PASID and answered Invalid
Request; a Stop Marker is not answered, and recorded only where the unit does so. -/
theorem test_pageFaults :
    nextIs (exec (.pageRequest { pageMsg with pasid := 63, lpig := true }) scalable) (fun t =>
      t.frcd[0]?.map (fun x => (x.f, x.t1, x.t2, x.atf, x.pv, x.fr, x.sid)) == some (true, false, true, 0, 63, 0x59, 0x10) &&
      t.prq == scalable.prq && match t.out with
        | [.respond 0x10 (.page p)] => p.rc == 1
        | _ => false) = true ∧
    nextIs (exec (.pageRequest { pageMsg with pasid := 63, lpig := true, rdr := false, wrr := false })
        { scalable with choice := { Choice.plain with stopRecord := false } }) (fun t => t.out == [] && t.frcd == scalable.frcd) = true ∧
    nextIs (exec (.pageRequest { pageMsg with lpig := true }) legacy) (fun t => t.frcd[0]?.map (·.fr) == some 0x32) = true := by
  decide +kernel

/-! ## Witnesses of the other clauses that state data -/

/-- A posted write, a read and an AtomicOp in flight, the AtomicOp of another device. -/
def flying : State :=
  { noTag with
    inFlight := [{ req := wr 0x0100 0x5000, hpa := 0x5000, snoop := true, mt := none },
      { req := rdReq 0x0100 0x5000, hpa := 0x5000, snoop := true, mt := none },
      { req := { wr 0x0101 0x6000 with access := .atomic }, hpa := 0x6000, snoop := true, mt := none }] }

/-- The n-th request in flight, and none at that place; only the read is no store of device 0100h; the drains of IotlbInvalidate
take the reads, the writes, or all. -/
theorem witness_inFlight :
    (withEvent flying (.commit 1)).nextEvent (.commit 1) Choice.plain (met flying) ∧
    ((met flying).inFlight[1]?.map (·.req.access) = some .read ∧ (met flying).inFlight[3]? = none) ∧
    ({ flying with inFlight := flying.inFlight.drop 1 } : State).storesNone 0x0100 ∧ ¬ flying.storesNone 0x0100 ∧
    flying.inFlight.map (drains true false) = [false, true, true] ∧ flying.inFlight.map (drains false true) = [true, false, true] ∧
    (flying.gsts.tes = true ∧ flying.onlySent) :=
  ⟨next_met _ _, by decide +kernel, by unfold State.storesNone; decide +kernel, by unfold State.storesNone; decide +kernel,
    by decide +kernel, by decide +kernel, rfl, by unfold State.onlySent; decide +kernel⟩

/-- R572, R1485: the read pushes the write before it, and is answered with its data; an invalidation completion of the device
pushes its stores alone. -/
theorem test_drainedData :
    nextIs (step (withEvent flying (.commit 1))) (fun t => readNat t.mem 0x5000 4 == 0xABABABAB &&
      t.inFlight.map (·.req.sid) == [0x0101] && match t.out with
        | .respond 0x0100 (.data d) :: _ => d == [0xAB, 0xAB, 0xAB, 0xAB]
        | _ => false) = true ∧
    nextIs (exec (.invalidationCompletion 0x0100 1 1) flying) (fun t => readNat t.mem 0x5000 4 == 0xABABABAB &&
      t.inFlight.map (·.req.access) == [.read, .atomic]) = true := by decide +kernel

/-- The reset state with the choice to defer commands. -/
def deferring : State := { State.reset with choice := { Choice.plain with defer := true } }

/-- The event comes next, with that choice. -/
def deferred (s : State) (e : Event) : State := { s with inputs := [{ ev := e, ch := deferring.choice }] }

/-- A virtual command of a reserved code in progress. -/
def reservedPending : State :=
  { State.reset with
    vcmd := { State.reset.vcmd with cmd := 3, ip := true }
    pendCmds := [{ cmd := .reservedVirtual, root := State.reset.rtaddr, irt := State.reset.irta }] }

/-- Virtual commands 3 and 255, in an 8-byte and a 4-byte write, done at once or deferred. -/
theorem witness_ReservedVirtualCommands :
    (withEvent State.reset (.softWrite 0xE00 8 0x3)).nextEvent (.softWrite 0xE00 8 0x3) Choice.plain (met State.reset) ∧
    (withEvent State.reset (.softWrite 0xE00 4 0xFF)).nextEvent (.softWrite 0xE00 4 0xFF) Choice.plain (met State.reset) ∧
    3 ≤ (field (0x3 : BitVec 64) 0 8).toNat ∧
    3 ≤ (field (field (met State.reset).vcmd.oa 16 32 ++ field (0xFF : BitVec 64) 0 32) 0 8).toNat ∧
    0 < (met State.reset).plat.regPages ∧ (met State.reset).iotlbReg.ivt = false ∧ (met State.reset).caps.vcs = true ∧
    (met State.reset).vcmd.ip = false ∧ (met State.reset).atOnce ∧ deferring.choice.defer = true ∧
    (deferred State.reset (.softWrite 0xE00 8 0x3)).nextEvent (.softWrite 0xE00 8 0x3) deferring.choice deferring :=
  ⟨next_met _ _, next_met _ _, by decide +kernel, by decide +kernel, by decide +kernel, by decide +kernel, by decide +kernel,
    by decide +kernel, rfl, rfl, [], rfl, rfl⟩

/-- A reserved virtual command that is in progress, and its completion. -/
theorem witness_PendingReserved :
    (withEvent reservedPending .complete).nextEvent .complete Choice.plain (met reservedPending) ∧
    (met reservedPending).pendCmds = { cmd := .reservedVirtual, root := State.reset.rtaddr, irt := State.reset.irta } :: [] :=
  ⟨next_met _ _, rfl⟩

/-- R994, R1500: command 3 completes with status 1, and so does 255; deferred, it shows IP=1 until it completes. -/
theorem test_reservedVirtualCommands :
    nextIs (step (withEvent State.reset (.softWrite 0xE00 8 0x12340003))) (fun t => vcrsp t == 2 && t.vcmd.oa == 0x1234) = true ∧
    nextIs (step (withEvent State.reset (.softWrite 0xE00 4 0x123400FF))) (fun t => vcrsp t == 2 && t.vcmd.cmd == 255) = true ∧
    nextIs (step (deferred State.reset (.softWrite 0xE00 8 0x12340003))) (fun t => vcrsp t == 1 && nextIs (step (withEvent t .complete))
      (fun u => vcrsp u == 2 && u.pendCmds == [])) = true := by decide +kernel

/-- The queue with a descriptor at its head, in scalable (1) or legacy mode. -/
def atHead (w : Nat) (ttm : BitVec 2) : State := { atTail 8 ttm (ttm != 0) with mem := memOf [(0x100000, w)] }

/-- A fetch that a read error, an unknown type or a reserved bit stops: an unreadable head; types 0 and 10, and type 6 in legacy
mode; bit 6 of a pc_inv_dsc. -/
theorem witness_FetchedDescriptors :
    (∀ s ∈ [badRead [0x100000] (atHead 0x37 1), atHead 0 1, atHead 0xA 1, atHead 6 0, atHead 0x77 1],
      (met s).iqPend = [] ∧ (met s).canFetch = true ∧ queueRegError (met s) = none) ∧
    (badRead [0x100000] (atHead 0x37 1)).readable (badRead [0x100000] (atHead 0x37 1)).headAddr 32 = false ∧
    ((atHead 0 1).unknownType 0 ∧ (atHead 0xA 1).unknownType 10 ∧ (atHead 6 0).unknownType 6) ∧
    (¬ (atHead 0x77 1).unknownType (descriptorType 0x77) ∧ reservedBitSet (descriptorType 0x77) 0x77) ∧
    (atHead 0x37 1).readable (atHead 0x37 1).headAddr 32 = true :=
  ⟨by decide +kernel, by decide +kernel, by unfold State.unknownType; decide +kernel,
    ⟨by unfold State.unknownType; decide +kernel, 6, by decide, by decide +kernel, by decide +kernel⟩, by decide +kernel⟩

/-- R902 to R907: the queue errors 2, 3 and 4 of those descriptors. -/
theorem test_fetchedDescriptors :
    [(badRead [0x100000] (atHead 0x37 1), 2), (atHead 0 1, 3), (atHead 0xA 1, 3), (atHead 6 0, 3), (atHead 0x77 1, 4)].all
      (fun x => nextIs (step { x.1 with inputs := [{ ev := .iqTurn, ch := x.1.choice }] }) (fun t =>
        t.fsts.iqe && t.iqercd.iqei == x.2 && t.iq == x.1.iq)) = true := by decide +kernel

/-! ## What a unit without an optional part does -/

/-- R1064: a pass-through region is at most the largest page of the unit. -/
theorem test_regionOfSmallPages :
    ptRegion bare true 0x5000 = 12 ∧ ptRegion State.reset true 0x5000 = 30 := by decide +kernel

/-- R1230: without performance monitoring there is no counter, whatever the reserved bits of PERFCAP_REG hold: commands 240 and
241 answer 16. -/
theorem test_noPerfmon :
    [Instr.ecmdEnable 0, .ecmdDisable 0].all (fun i => nextIs (exec i
      { State.reset with caps := { State.reset.caps with ecap := State.reset.caps.ecap &&& ~~~(0x8000000000000 : BitVec 64) } })
      (fun t => t.ecmd.sc == 16 && t.perf == State.reset.perf)) = true := by decide +kernel

end Sys2Proof.Tests
end

section
/-! O10: the capability registers and the platform parameters are constants of the machine (00 R8; 10 R110). Each operation
returns a state with the constants of the state it was given, said once per operation in the order of the model; the step is
then a case split over the events, the instructions and the registers. -/

namespace Sys2Proof.Machine

/-! ## Two states with the same constants -/

/-- `t` has the capability registers and the platform parameters of `s`. Reducible, so that a lemma that states it gives `simp`
two rewrite rules, one for each field. -/
@[simp] abbrev sameConstants (s t : State) : Prop := t.caps = s.caps ∧ t.plat = s.plat

theorem sameConstants_trans {s t u : State} (h : sameConstants s t) (k : sameConstants t u) : sameConstants s u :=
  ⟨k.1.trans h.1, k.2.trans h.2⟩

/-- A choice between two operations. -/
theorem ite_sameConstants {s t u : State} (p : Prop) [Decidable p] (ht : sameConstants s t) (hu : sameConstants s u) :
    sameConstants s (if p then t else u) := by
  split
  · exact ht
  · exact hu

/-- An operation repeated along a list. -/
theorem foldl_sameConstants {α : Type} {f : State → α → State} (h : ∀ s a, sameConstants s (f s a)) (l : List α)
    (s : State) : sameConstants s (l.foldl f s) := by
  induction l generalizing s with
  | nil => exact ⟨rfl, rfl⟩
  | cons a l ih => exact sameConstants_trans (h s a) (ih (f s a))

/-! ## Memory and events -/

@[simp] theorem State.implicitFlush_sameConstants (s : State) : sameConstants s s.implicitFlush := by
  obtain ⟨m, b, h⟩ := s.implicitFlush_frame
  simp [h]

@[simp] theorem State.softStore_sameConstants (s : State) (a : Nat) (bs : List Byte) :
    sameConstants s (s.softStore a bs) := by
  obtain ⟨m, b, h⟩ := s.softStore_frame a bs
  simp [h]

@[simp] theorem State.drainStore_sameConstants (s : State) : sameConstants s s.drainStore := by
  obtain ⟨m, b, h⟩ := s.drainStore_frame
  simp [h]

@[simp] theorem State.setEvRegs_sameConstants (s : State) (e : EventName) (r : EventRegs) :
    sameConstants s (s.setEvRegs e r) := by
  obtain ⟨r1, r2, r3, r4, h⟩ := s.setEvRegs_frame e r
  simp [h]

@[simp] theorem State.sendInterrupt_sameConstants (s : State) (e : EventName) : sameConstants s (s.sendInterrupt e) := by
  obtain ⟨m, b, o, h⟩ := s.sendInterrupt_frame e
  simp [h]

@[simp] theorem State.raiseEvent_sameConstants (s : State) (e : EventName) (w : Bool) :
    sameConstants s (s.raiseEvent e w) := by
  unfold State.raiseEvent
  split
  · exact ⟨rfl, rfl⟩
  · split <;> simp

@[simp] theorem State.statusCleared_sameConstants (s : State) (e : EventName) : sameConstants s (s.statusCleared e) := by
  obtain ⟨r1, r2, r3, r4, h⟩ := s.statusCleared_frame e
  simp [h]

@[simp] theorem State.writeIm_sameConstants (s : State) (e : EventName) (im : Bool) : sameConstants s (s.writeIm e im) := by
  obtain ⟨r1, r2, r3, r4, m, b, o, h⟩ := s.writeIm_frame e im
  simp [h]

@[simp] theorem State.releaseEvent_sameConstants (s : State) (e : EventName) : sameConstants s (s.releaseEvent e) := by
  obtain ⟨r1, r2, r3, r4, m, b, o, h⟩ := s.releaseEvent_frame e
  simp [h]

@[simp] theorem State.reportFault_sameConstants (s : State) (r : FaultReport) : sameConstants s (s.reportFault r) := by
  obtain ⟨fs, fr, i, e, m, b, o, h⟩ := s.reportFault_frame r
  simp [h]

@[simp] theorem State.resetFaultIdx_sameConstants (s : State) : sameConstants s s.resetFaultIdx := by
  obtain ⟨i, h⟩ := s.resetFaultIdx_frame
  simp [h]

/-! ## Perfmon -/

@[simp] theorem State.count_sameConstants (s : State) (c : Occurrence) : sameConstants s (s.count c) := by
  obtain ⟨p, e, m, b, o, h⟩ := s.count_frame c
  simp [h]

@[simp] theorem State.perfPulse_sameConstants (s : State) (g e n : Nat) : sameConstants s (s.perfPulse g e n) := by
  obtain ⟨p, v, m, b, o, h⟩ := s.perfPulse_frame g e n
  simp [h]

@[simp] theorem State.countInt_sameConstants (s : State) (g e : Nat) (sid : SourceId) :
    sameConstants s (s.countInt g e sid) := s.count_sameConstants _

@[simp] theorem State.countRequest_sameConstants (s : State) (sid : SourceId) (p : Option Pasid) (atf : Nat) :
    sameConstants s (s.countRequest sid p atf) := s.count_sameConstants _

/-! ## Caches and walks -/

@[simp] theorem State.evict_sameConstants (s : State) (c : CacheName) (n : Nat) : sameConstants s (s.evict c n) := by
  cases c <;> exact ⟨rfl, rfl⟩

@[simp] theorem State.fillIec_sameConstants (s : State) (e : IecEntry) : sameConstants s (s.fillIec e) := by
  obtain ⟨c, h⟩ := s.fillIec_frame e
  simp [h]

@[simp] theorem State.keepFound_sameConstants (s : State) (f : Found) (r : MemReq) (fpd : Bool) :
    sameConstants s (s.keepFound f r fpd) := by
  obtain ⟨c, h⟩ := s.keepFound_frame f r fpd
  simp [h]

/-- The state a walk leaves. -/
theorem sameConstants_of_runWalk {α : Type} {s u : State} {w : Walk α} {sid : SourceId} {p : Option Pasid} {a : Nat}
    {res : Except Cond α} {t : Trail} (h : s.runWalk w sid p a = (res, t, u)) : sameConstants s u := by
  obtain ⟨p', e, m, b, o, c, x, hu⟩ := s.runWalk_frame w sid p a
  rw [h] at hu
  subst hu
  exact ⟨rfl, rfl⟩

/-! ## Requests and interrupts in flight -/

@[simp] theorem State.drainWhere_sameConstants (s : State) (p : Forwarded → Bool) : sameConstants s (s.drainWhere p) := by
  obtain ⟨m, b, o, n, h⟩ := s.drainWhere_frame p
  simp [h]

@[simp] theorem State.drainAll_sameConstants (s : State) : sameConstants s s.drainAll := s.drainWhere_sameConstants _

@[simp] theorem State.drainStoresOf_sameConstants (s : State) (sid : SourceId) : sameConstants s (s.drainStoresOf sid) :=
  s.drainWhere_sameConstants _

@[simp] theorem State.drainPosted_sameConstants (s : State) : sameConstants s s.drainPosted := s.drainWhere_sameConstants _

@[simp] theorem State.drainKinds_sameConstants (s : State) (r w : Bool) : sameConstants s (s.drainKinds r w) :=
  s.drainWhere_sameConstants _

@[simp] theorem State.forward_sameConstants (s : State) (f : Forwarded) : sameConstants s (s.forward f) := by
  obtain ⟨m, b, o, n, l, h⟩ := s.forward_frame f
  simp [h]

@[simp] theorem State.commitNth_sameConstants (s : State) (k : Nat) : sameConstants s (s.commitNth k) := by
  obtain ⟨m, b, o, n, l, h⟩ := s.commitNth_frame k
  simp [h]

@[simp] theorem State.deliver_sameConstants (s : State) (d : IntrFlight) : sameConstants s (s.deliver d) := by
  obtain ⟨o, l, h⟩ := s.deliver_frame d
  simp [h]

@[simp] theorem State.acceptNth_sameConstants (s : State) (n : Nat) : sameConstants s (s.acceptNth n) := by
  obtain ⟨o, l, h⟩ := s.acceptNth_frame n
  simp [h]

@[simp] theorem State.readCompletion_sameConstants (s : State) (sid : SourceId) :
    sameConstants s (s.readCompletion sid) := by
  simp [State.readCompletion, State.acceptWhere_eq]

@[simp] theorem State.drainInterrupts_sameConstants (s : State) : sameConstants s s.drainInterrupts := by
  simp [State.drainInterrupts_eq]

/-! ## Interrupt requests -/

@[simp] theorem State.intFault_sameConstants (s : State) (reason : BitVec 8) (q : Bool) (sid : SourceId) (fi : BitVec 52)
    (fpd : Bool) : sameConstants s (s.intFault reason q sid fi fpd) := s.reportFault_sameConstants _

@[simp] theorem State.deliverCompat_sameConstants (s : State) (sid : SourceId) (addr data : BitVec 32) :
    sameConstants s (s.deliverCompat sid addr data) := s.deliver_sameConstants _

@[simp] theorem State.handleCompat_sameConstants (s : State) (sid : SourceId) (addr data : BitVec 32) :
    sameConstants s (s.handleCompat sid addr data) := by
  unfold State.handleCompat
  split
  · simp [State.compatIntFault]
  · exact s.deliverCompat_sameConstants sid addr data

@[simp] theorem State.post_sameConstants (s : State) (sid : SourceId) (e : BitVec 128) : sameConstants s (s.post sid e) := by
  unfold State.post
  dsimp only
  split <;> simp

@[simp] theorem State.useIrte_sameConstants (s : State) (sid : SourceId) (idx : Nat) (e : BitVec 128) (cached : Bool) :
    sameConstants s (s.useIrte sid idx e cached) := by
  unfold State.useIrte
  dsimp only
  split
  · simp [apply_ite State.caps, apply_ite State.plat]
  · split <;> simp [apply_ite State.caps, apply_ite State.plat, State.deliverRemapped]

@[simp] theorem State.remapInterrupt_sameConstants (s : State) (sid : SourceId) (addr data : BitVec 32) :
    sameConstants s (s.remapInterrupt sid addr data) := by
  unfold State.remapInterrupt
  dsimp only
  split
  case isTrue => simp [State.reservedIntFault]
  split
  case isTrue => simp
  split
  case h_1 => simp
  split
  case isTrue => simp
  split <;> simp

@[simp] theorem State.handleInterrupt_sameConstants (s : State) (sid : SourceId) (addr data : BitVec 32) :
    sameConstants s (s.handleInterrupt sid addr data) := by
  unfold State.handleInterrupt
  dsimp only
  split
  · simp
  · split <;> simp

/-! ## Memory requests -/

@[simp] theorem State.turnAway_sameConstants (s : State) (r : MemReq) : sameConstants s (s.turnAway r) :=
  ite_sameConstants _ ⟨rfl, rfl⟩ ⟨rfl, rfl⟩

@[simp] theorem State.block_sameConstants (s : State) (k : ReqKind) (r : MemReq) (c : Cond) (fpd : Bool) :
    sameConstants s (s.block k r c fpd) := by
  simp [State.block]

@[simp] theorem State.passOn_sameConstants (s : State) (k : ReqKind) (r : MemReq) (hpa : Addr) (pt snoop : Bool)
    (mt : Option MemType) : sameConstants s (s.passOn k r hpa pt snoop mt) :=
  ite_sameConstants _ (s.turnAway_sameConstants r) (s.forward_sameConstants _)

@[simp] theorem State.blockIllegal_sameConstants (s : State) (r : MemReq) : sameConstants s (s.blockIllegal r) :=
  ite_sameConstants _ (s.block_sameConstants _ r _ _) (s.turnAway_sameConstants r)

@[simp] theorem State.interruptRange_sameConstants (s : State) (r : MemReq) : sameConstants s (s.interruptRange r) := by
  unfold State.interruptRange
  split
  · split <;> simp
  · exact ⟨rfl, rfl⟩
  · exact s.blockIllegal_sameConstants r
  · exact s.blockIllegal_sameConstants r

@[simp] theorem State.forwardFound_sameConstants (s : State) (r : MemReq) (f : Found) (fpd : Bool) :
    sameConstants s (s.forwardFound r f fpd) := by
  simp [State.forwardFound]

@[simp] theorem State.handleUntranslated_sameConstants (s : State) (r : MemReq) :
    sameConstants s (s.handleUntranslated r) := by
  unfold State.handleUntranslated
  split
  · exact s.interruptRange_sameConstants r
  split
  · exact s.passOn_sameConstants _ _ _ _ _ _
  split
  · next h => exact sameConstants_trans (sameConstants_of_runWalk h) (State.block_sameConstants _ _ _ _ _)
  · next h => exact sameConstants_trans (sameConstants_of_runWalk h) (State.forwardFound_sameConstants _ _ _ _)

@[simp] theorem State.answerFault_sameConstants (s : State) (r : MemReq) (c : Cond) (t : Trail) :
    sameConstants s (s.answerFault r c t) := by
  unfold State.answerFault
  split
  · dsimp only
    split <;> simp
  all_goals simp

@[simp] theorem State.handleTranslation_sameConstants (s : State) (r : MemReq) :
    sameConstants s (s.handleTranslation r) := by
  unfold State.handleTranslation
  split
  · exact ⟨rfl, rfl⟩
  split
  · next h => exact sameConstants_trans (sameConstants_of_runWalk h) (State.answerFault_sameConstants _ _ _ _)
  · next h => exact sameConstants_trans (sameConstants_of_runWalk h) (State.keepFound_sameConstants _ _ _ _)

@[simp] theorem State.handleTranslated_sameConstants (s : State) (r : MemReq) :
    sameConstants s (s.handleTranslated r) := by
  unfold State.handleTranslated
  split
  · exact s.forward_sameConstants _
  split
  · exact s.turnAway_sameConstants r
  split
  · next h => exact sameConstants_trans (sameConstants_of_runWalk h) (State.block_sameConstants _ _ _ _ _)
  · next h => exact sameConstants_trans (sameConstants_of_runWalk h) (State.passOn_sameConstants _ _ _ _ _ _ _)

/-! ## Page requests -/

@[simp] theorem State.autoResponse_sameConstants (s : State) (m : PageMsg) (c : BitVec 4) :
    sameConstants s (s.autoResponse m c) := ite_sameConstants _ ⟨rfl, rfl⟩ ⟨rfl, rfl⟩

@[simp] theorem State.setPro_sameConstants (s : State) : sameConstants s s.setPro := State.raiseEvent_sameConstants _ _ _

@[simp] theorem State.prqDelivered_sameConstants (s : State) : sameConstants s s.prqDelivered :=
  State.raiseEvent_sameConstants _ _ _

@[simp] theorem State.writePrq_sameConstants (s : State) (m : PageMsg) : sameConstants s (s.writePrq m) := by
  unfold State.writePrq
  dsimp only
  split <;> simp

@[simp] theorem State.implicitInvalidate_sameConstants (s : State) (g : BitVec 3) (did : DomainId) (p : Pasid)
    (addr : BitVec 52) : sameConstants s (s.implicitInvalidate g did p addr) := by
  unfold State.implicitInvalidate
  split <;> exact ⟨rfl, rfl⟩

@[simp] theorem State.reportPage_sameConstants (s : State) (m : PageMsg) (c : Cond) (fpd : Bool) :
    sameConstants s (s.reportPage m c fpd) := ite_sameConstants _ ⟨rfl, rfl⟩ (s.reportFault_sameConstants _)

@[simp] theorem State.acceptPage_sameConstants (s : State) (m : PageMsg) (g : BitVec 3) (did : DomainId) (p : Pasid) :
    sameConstants s (s.acceptPage m g did p) := by
  unfold State.acceptPage
  split
  · exact s.autoResponse_sameConstants m _
  · split <;> simp

@[simp] theorem State.handlePage_sameConstants (s : State) (m : PageMsg) : sameConstants s (s.handlePage m) := by
  unfold State.handlePage
  split
  · exact s.autoResponse_sameConstants m _
  split
  · next h =>
    refine sameConstants_trans (sameConstants_of_runWalk h) ?_
    simp
  · next h => exact sameConstants_trans (sameConstants_of_runWalk h) (State.acceptPage_sameConstants _ _ _ _ _)

/-! ## The invalidation queue -/

@[simp] theorem State.raiseIqe_sameConstants (s : State) (i : BitVec 4) : sameConstants s (s.raiseIqe i) :=
  State.raiseEvent_sameConstants _ _ _

@[simp] theorem State.setIce_sameConstants (s : State) (rid : SourceId) : sameConstants s (s.setIce rid) :=
  ite_sameConstants _ (State.raiseEvent_sameConstants _ _ _) ⟨rfl, rfl⟩

@[simp] theorem State.setIte_sameConstants (s : State) (sid : SourceId) : sameConstants s (s.setIte sid) :=
  State.raiseEvent_sameConstants _ _ _

@[simp] theorem State.writeStatus_sameConstants (s : State) (data : BitVec 32) (saddr : BitVec 62) :
    sameConstants s (s.writeStatus data saddr) := ite_sameConstants _ ⟨rfl, rfl⟩ ⟨rfl, rfl⟩

@[simp] theorem State.completeWait_sameConstants (s : State) (iflag sw : Bool) (data : BitVec 32) (saddr : BitVec 62) :
    sameConstants s (s.completeWait iflag sw data saddr) := by
  have hwrite : sameConstants s (if sw then s.writeStatus data saddr else s) :=
    ite_sameConstants _ (s.writeStatus_sameConstants data saddr) ⟨rfl, rfl⟩
  unfold State.completeWait
  dsimp only
  split
  · exact sameConstants_trans hwrite (State.raiseEvent_sameConstants _ _ _)
  · exact hwrite

theorem advancePend_sameConstants (s : State) (kept l : List Pending) : sameConstants s (advancePend s kept l).1 := by
  induction l generalizing s kept with
  | nil => exact ⟨rfl, rfl⟩
  | cons p rest ih =>
    cases p with
    | wait iflag sw fn pd data saddr =>
      unfold advancePend
      split
      · exact sameConstants_trans (s.completeWait_sameConstants iflag sw data saddr) (ih _ _)
      · exact ih _ _
    | sent k => exact ih _ _
    | unsent m =>
      unfold advancePend
      split
      · exact ih _ _
      · exact ih _ _
    | resp m =>
      unfold advancePend
      split
      · exact ih _ _
      · exact ih _ _

@[simp] theorem State.advance_sameConstants (s : State) : sameConstants s s.advance :=
  advancePend_sameConstants s [] s.iqPend

@[simp] theorem State.pend_sameConstants (s : State) (p : Pending) : sameConstants s (s.pend p) :=
  State.advance_sameConstants _

@[simp] theorem State.devTlbTimeout_sameConstants (s : State) (k : Nat) : sameConstants s (s.devTlbTimeout k) := by
  unfold State.devTlbTimeout
  split
  · exact ⟨rfl, rfl⟩
  · simp

@[simp] theorem State.noteFetch_sameConstants (s : State) : sameConstants s s.noteFetch :=
  ite_sameConstants _ (State.count_sameConstants _ _) ⟨rfl, rfl⟩

@[simp] theorem State.invalidatePGrade_sameConstants (s : State) (k : Nat) (did : DomainId) (p : Pasid) (addr : BitVec 52)
    (am : Nat) (ih : Bool) : sameConstants s (s.invalidatePGrade k did p addr am ih) :=
  ite_sameConstants _ ⟨rfl, rfl⟩ (ite_sameConstants _ ⟨rfl, rfl⟩ ⟨rfl, rfl⟩)

/-- A descriptor whose own effect keeps the constants. -/
theorem State.runDsc_sameConstants (s : State) (ty : Nat) (r : Bool) {act : State → State}
    (h : ∀ u, sameConstants u (act u)) : sameConstants s (s.runDsc ty r act) :=
  ite_sameConstants _ (s.raiseIqe_sameConstants 3)
    (ite_sameConstants _ (s.raiseIqe_sameConstants 4) (h s.advanceHead))

/-! ## Register commands -/

theorem State.finishTeDisable_sameConstants (s : State) : sameConstants s s.finishTeDisable := by
  unfold State.finishTeDisable
  dsimp only
  split <;> simp

theorem State.finishSrtp_sameConstants (s : State) (p : RootPtr) : sameConstants s (s.finishSrtp p) := by
  unfold State.finishSrtp
  dsimp only
  split <;> simp

theorem State.finishIreDisable_sameConstants (s : State) : sameConstants s s.finishIreDisable := by
  unfold State.finishIreDisable
  dsimp only
  split <;> simp

theorem State.finishSirtp_sameConstants (s : State) (p : IrtPtr) : sameConstants s (s.finishSirtp p) := by
  unfold State.finishSirtp
  dsimp only
  split <;> simp

theorem State.finishCcmd_sameConstants (s : State) : sameConstants s s.finishCcmd := by
  unfold State.finishCcmd
  split <;> simp

theorem State.finishIotlb_sameConstants (s : State) : sameConstants s s.finishIotlb := by
  unfold State.finishIotlb
  split <;> simp

theorem State.finishPmen_sameConstants (s : State) (v : Bool) : sameConstants s (s.finishPmen v) := by
  unfold State.finishPmen
  dsimp only
  split <;> simp

/-- An enhanced command whose own effect keeps the constants. -/
theorem State.ecmdRun_sameConstants (s : State) (cmd : Nat) {act : State → State × BitVec 7}
    (h : sameConstants s (act s).1) : sameConstants s (s.ecmdRun cmd act) :=
  ite_sameConstants _ ⟨rfl, rfl⟩ (ite_sameConstants _ ⟨rfl, rfl⟩ h)

theorem enableCounter_sameConstants (k : Nat) (s : State) : sameConstants s (enableCounter k s).1 := by
  unfold enableCounter
  split <;> exact ⟨rfl, rfl⟩

theorem disableCounter_sameConstants (k : Nat) (s : State) : sameConstants s (disableCounter k s).1 := by
  unfold disableCounter
  split <;> exact ⟨rfl, rfl⟩

theorem State.finishVcmdAllocate_sameConstants (s : State) : sameConstants s s.finishVcmdAllocate := by
  unfold State.finishVcmdAllocate
  split
  · exact ⟨rfl, rfl⟩
  · split <;> exact ⟨rfl, rfl⟩

theorem State.finishVcmdFree_sameConstants (s : State) (oa : BitVec 48) : sameConstants s (s.finishVcmdFree oa) :=
  ite_sameConstants _ ⟨rfl, rfl⟩ (ite_sameConstants _ ⟨rfl, rfl⟩ ⟨rfl, rfl⟩)

theorem finishInstr_sameConstants (p : PendCmd) (s : State) (i : Instr) : sameConstants s (finishInstr p s i) := by
  cases i with
  | gcmdTeEnable => exact s.drainAll_sameConstants
  | gcmdTeDisable => exact s.finishTeDisable_sameConstants
  | gcmdSrtp => exact s.finishSrtp_sameConstants p.root
  | gcmdIreEnable => exact s.drainInterrupts_sameConstants
  | gcmdIreDisable => exact s.finishIreDisable_sameConstants
  | gcmdSirtp => exact s.finishSirtp_sameConstants p.irt
  | ccmdIcc => exact s.finishCcmd_sameConstants
  | iotlbIvt => exact s.finishIotlb_sameConstants
  | pmenEpmEnable => exact s.finishPmen_sameConstants true
  | pmenEpmDisable => exact s.finishPmen_sameConstants false
  | ecmdEnable k => exact s.ecmdRun_sameConstants 240 (enableCounter_sameConstants k.toNat s)
  | ecmdDisable k => exact s.ecmdRun_sameConstants 241 (disableCounter_sameConstants k.toNat s)
  | ecmdResetConfig => exact s.ecmdRun_sameConstants 242 ⟨rfl, rfl⟩
  | ecmdResetValues => exact s.ecmdRun_sameConstants 243 ⟨rfl, rfl⟩
  | ecmdFreeze => exact s.ecmdRun_sameConstants 244 ⟨rfl, rfl⟩
  | ecmdUnfreeze => exact s.ecmdRun_sameConstants 245 ⟨rfl, rfl⟩
  | ecmdReserved => exact s.ecmdRun_sameConstants 0 ⟨rfl, rfl⟩
  | vcmdAllocate => exact s.finishVcmdAllocate_sameConstants
  | vcmdFree oa => exact s.finishVcmdFree_sameConstants oa
  | _ => exact ⟨rfl, rfl⟩

theorem finishCmd_sameConstants (p : PendCmd) (s : State) : sameConstants s (finishCmd p s) := by
  unfold finishCmd
  split
  · exact finishInstr_sameConstants p s _
  · exact ⟨rfl, rfl⟩

theorem State.submitAny_sameConstants (s : State) (c : Submitted) : sameConstants s (s.submitAny c) :=
  ite_sameConstants _ ⟨rfl, rfl⟩ (finishCmd_sameConstants _ s)

theorem State.submit_sameConstants (s : State) (i : Instr) : sameConstants s (s.submit i) :=
  s.submitAny_sameConstants (.instr i)

theorem State.writeEpm_sameConstants (s : State) (v : Bool) (i : Instr) : sameConstants s (s.writeEpm v i) :=
  ite_sameConstants _ ⟨rfl, rfl⟩ (State.submit_sameConstants _ i)

theorem State.submitEcmd_sameConstants (s : State) (i : Instr) (cmd : BitVec 8) (oa : BitVec 48) :
    sameConstants s (s.submitEcmd i cmd oa) := ite_sameConstants _ ⟨rfl, rfl⟩ (State.submit_sameConstants _ i)

theorem State.submitVcmd_sameConstants (s : State) (i : Instr) (cmd : BitVec 8) (oa : BitVec 48) :
    sameConstants s (s.submitVcmd i cmd oa) := ite_sameConstants _ (State.submit_sameConstants _ i) ⟨rfl, rfl⟩

theorem State.undefinedVirtual_sameConstants (s : State) (cmd : BitVec 8) (oa : BitVec 48) :
    sameConstants s (s.undefinedVirtual cmd oa) :=
  ite_sameConstants _ (State.submitAny_sameConstants _ .reservedVirtual) ⟨rfl, rfl⟩

/-! ## Register writes -/

theorem State.onlyIf_sameConstants (s : State) (b : Bool) {t : State} (h : sameConstants s t) :
    sameConstants s (s.onlyIf b t) := ite_sameConstants _ h ⟨rfl, rfl⟩

@[simp] theorem State.writeEvent_sameConstants (s : State) (e : EventName) (k : Nat) (v : BitVec 32) :
    sameConstants s (s.writeEvent e k v) := by
  unfold State.writeEvent
  split
  · exact s.writeIm_sameConstants e _
  · exact s.setEvRegs_sameConstants e _
  · exact s.setEvRegs_sameConstants e _
  · exact ite_sameConstants _ (s.setEvRegs_sameConstants e _) ⟨rfl, rfl⟩

@[simp] theorem State.writeFsts_sameConstants (s : State) (v : BitVec 32) : sameConstants s (s.writeFsts v) :=
  State.statusCleared_sameConstants _ _

@[simp] theorem State.writeFrcd_sameConstants (s : State) (n : Nat) (v : BitVec 32) : sameConstants s (s.writeFrcd n v) :=
  ite_sameConstants _ (State.statusCleared_sameConstants _ _) ⟨rfl, rfl⟩

@[simp] theorem State.writeIcs_sameConstants (s : State) (v : BitVec 32) : sameConstants s (s.writeIcs v) :=
  ite_sameConstants _ (State.statusCleared_sameConstants _ _) ⟨rfl, rfl⟩

@[simp] theorem State.writePrs_sameConstants (s : State) (v : BitVec 32) : sameConstants s (s.writePrs v) :=
  State.statusCleared_sameConstants _ _

@[simp] theorem State.writePis_sameConstants (s : State) (v : BitVec 32) : sameConstants s (s.writePis v) :=
  ite_sameConstants _ (State.statusCleared_sameConstants _ _) ⟨rfl, rfl⟩

theorem State.writeOverflow_sameConstants (s : State) (first : Nat) (v : BitVec 32) :
    sameConstants s (s.writeOverflow first v) := by
  unfold State.writeOverflow
  refine foldl_sameConstants (fun t i => ?_) _ s
  exact ite_sameConstants _ ⟨rfl, rfl⟩ ⟨rfl, rfl⟩

theorem State.writePerf_sameConstants (s : State) (off : Nat) (v : BitVec 32) : sameConstants s (s.writePerf off v) := by
  unfold State.writePerf
  dsimp only
  split
  · exact s.writeOverflow_sameConstants _ v
  split
  · exact ⟨rfl, rfl⟩
  · exact ite_sameConstants _ ⟨rfl, rfl⟩ ⟨rfl, rfl⟩

theorem State.writeIva_sameConstants (s : State) (high : Bool) (v : BitVec 32) : sameConstants s (s.writeIva high v) :=
  ite_sameConstants _ ⟨rfl, rfl⟩ ⟨rfl, rfl⟩

theorem State.sameConstants_of_writeMtrrs {s t : State} {off : Nat} {v : BitVec 32} (h : s.writeMtrrs off v = some t) :
    sameConstants s t := by
  unfold State.writeMtrrs at h
  split at h
  · cases h
  split at h
  · cases h
    exact ⟨rfl, rfl⟩
  · obtain ⟨k, -, rfl⟩ := Option.map_eq_some_iff.1 h
    exact ⟨rfl, rfl⟩

theorem State.writeLocated_sameConstants (s : State) (off : Nat) (v : BitVec 32) :
    sameConstants s (s.writeLocated off v) := by
  unfold State.writeLocated
  refine ite_sameConstants _ (s.writeIva_sameConstants false v) (ite_sameConstants _ (s.writeIva_sameConstants true v)
    (ite_sameConstants _ ⟨rfl, rfl⟩ ?_))
  split
  · exact ite_sameConstants _ (s.writeFrcd_sameConstants _ v) ⟨rfl, rfl⟩
  split
  · next h => exact State.sameConstants_of_writeMtrrs h
  · exact ite_sameConstants _ (s.writePerf_sameConstants off v) ⟨rfl, rfl⟩

/-- The registers at fixed offsets: each arm replaces a register, or is one of the writes above. -/
theorem State.writeFixedOffset_sameConstants (s : State) (off : Nat) (v : BitVec 32) :
    sameConstants s (s.writeFixedOffset off v) := by
  unfold State.writeFixedOffset
  split <;> simp [State.onlyIf_sameConstants]

theorem State.writePlain_sameConstants (s : State) (off : Nat) (v : BitVec 32) : sameConstants s (s.writePlain off v) :=
  ite_sameConstants _ (s.writeFixedOffset_sameConstants off v) (s.writeLocated_sameConstants off v)

/-! ## Outcomes -/

/-- An outcome from `s` that has a next state has one with the constants of `s`. -/
def keepsConstants (s : State) (r : Result) : Prop := ∀ t, r = .next t → sameConstants s t

theorem keepsConstants_next {s t : State} (h : sameConstants s t) : keepsConstants s (.next t) := by
  rintro u ⟨⟩
  exact h

theorem keepsConstants_refused (s : State) (r : Refusal) : keepsConstants s (.refused r) := by
  rintro u ⟨⟩

theorem keepsConstants_fault (s : State) (f : Fault) : keepsConstants s (.fault f) := by
  rintro u ⟨⟩

/-- An outcome from a state with the same constants. -/
theorem keepsConstants_of_sameConstants {s u : State} {r : Result} (h : sameConstants s u) (k : keepsConstants u r) :
    keepsConstants s r := fun t e => sameConstants_trans h (k t e)

theorem ite_keepsConstants {s : State} {r q : Result} (p : Prop) [Decidable p] (hr : keepsConstants s r)
    (hq : keepsConstants s q) : keepsConstants s (if p then r else q) := by
  split
  · exact hr
  · exact hq

theorem andThen_keepsConstants {s : State} {r : Result} {f : State → Result} (hr : keepsConstants s r)
    (hf : ∀ u, keepsConstants u (f u)) : keepsConstants s (andThen r f) := by
  cases r with
  | next u => exact keepsConstants_of_sameConstants (hr u rfl) (hf u)
  | fault e => exact keepsConstants_fault s e
  | refused e => exact keepsConstants_refused s e

/-! ## Instructions -/

theorem execInvWaitDsc_keepsConstants (iflag sw fn pd : Bool) (data : BitVec 32) (saddr : BitVec 62) (s : State) :
    keepsConstants s (execInvWaitDsc iflag sw fn pd data saddr s) :=
  ite_keepsConstants _ (keepsConstants_refused s _)
    (keepsConstants_next (s.runDsc_sameConstants 5 _ (fun u => u.pend_sameConstants _)))

theorem execInvalidationCompletion_keepsConstants (sid : SourceId) (vec : BitVec 32) (cc : BitVec 3) (s : State) :
    keepsConstants s (execInvalidationCompletion sid vec cc s) := by
  refine keepsConstants_next (ite_sameConstants _ ⟨rfl, rfl⟩ (sameConstants_trans (s.drainStoresOf_sameConstants sid) ?_))
  exact ite_sameConstants _ (State.advance_sameConstants _) (State.setIce_sameConstants _ sid)

/-- A command that only a unit with the function takes. -/
theorem supported_keepsConstants (s : State) {b : Bool} {t : State} (h : sameConstants s t) :
    keepsConstants s (.next (if b then t else s)) := keepsConstants_next (ite_sameConstants _ h ⟨rfl, rfl⟩)

theorem exec_keepsConstants (i : Instr) (s : State) : keepsConstants s (exec i s) := by
  cases i with
  | ccInvDsc => exact keepsConstants_next (s.runDsc_sameConstants 1 _ (fun u => by simp))
  | iotlbInvDsc => exact keepsConstants_next (s.runDsc_sameConstants 2 _ (fun u => by simp))
  | devTlbInvDsc => exact keepsConstants_next (s.runDsc_sameConstants 3 _ (fun u => u.pend_sameConstants _))
  | iecInvDsc => exact keepsConstants_next (s.runDsc_sameConstants 4 _ (fun u => by simp))
  | invWaitDsc => exact execInvWaitDsc_keepsConstants _ _ _ _ _ _ s
  | pIotlbInvDsc => exact keepsConstants_next (s.runDsc_sameConstants 6 _ (fun u => by simp))
  | pcInvDsc => exact keepsConstants_next (s.runDsc_sameConstants 7 _ (fun u => by simp))
  | pDevTlbInvDsc => exact keepsConstants_next (s.runDsc_sameConstants 8 _ (fun u => u.pend_sameConstants _))
  | pageGrpRespDsc => exact keepsConstants_next (s.runDsc_sameConstants 9 _ (fun u => u.pend_sameConstants _))
  | pageReqDsc m => exact keepsConstants_next (s.writePrq_sameConstants m)
  | gcmdTeEnable => exact keepsConstants_next (s.submit_sameConstants _)
  | gcmdTeDisable => exact keepsConstants_next (s.submit_sameConstants _)
  | gcmdSrtp =>
    exact ite_keepsConstants _ (keepsConstants_refused s _) (keepsConstants_next (State.submit_sameConstants _ _))
  | gcmdWbf => exact supported_keepsConstants s (State.submit_sameConstants _ _)
  | gcmdQieEnable => exact supported_keepsConstants s (s.submit_sameConstants _)
  | gcmdQieDisable => exact supported_keepsConstants s (s.submit_sameConstants _)
  | gcmdIreEnable => exact supported_keepsConstants s (s.submit_sameConstants _)
  | gcmdIreDisable => exact supported_keepsConstants s (s.submit_sameConstants _)
  | gcmdSirtp => exact supported_keepsConstants s (State.submit_sameConstants _ _)
  | gcmdCfiSet => exact supported_keepsConstants s (s.submit_sameConstants _)
  | gcmdCfiClear => exact supported_keepsConstants s (s.submit_sameConstants _)
  | ccmdIcc => exact keepsConstants_next (State.submit_sameConstants _ _)
  | iotlbIvt => exact keepsConstants_next (State.submit_sameConstants _ _)
  | pmenEpmEnable => exact supported_keepsConstants s (s.writeEpm_sameConstants _ _)
  | pmenEpmDisable => exact supported_keepsConstants s (s.writeEpm_sameConstants _ _)
  | ecmdEnable => exact keepsConstants_next (s.submitEcmd_sameConstants _ _ _)
  | ecmdDisable => exact keepsConstants_next (s.submitEcmd_sameConstants _ _ _)
  | ecmdResetConfig => exact keepsConstants_next (s.submitEcmd_sameConstants _ _ _)
  | ecmdResetValues => exact keepsConstants_next (s.submitEcmd_sameConstants _ _ _)
  | ecmdFreeze => exact keepsConstants_next (s.submitEcmd_sameConstants _ _ _)
  | ecmdUnfreeze => exact keepsConstants_next (s.submitEcmd_sameConstants _ _ _)
  | ecmdReserved => exact keepsConstants_next (s.submitEcmd_sameConstants _ _ _)
  | vcmdNull => exact keepsConstants_next (s.submitVcmd_sameConstants _ _ _)
  | vcmdAllocate => exact keepsConstants_next (s.submitVcmd_sameConstants _ _ _)
  | vcmdFree => exact keepsConstants_next (s.submitVcmd_sameConstants _ _ _)
  | untranslatedRequest r =>
    exact keepsConstants_next
      (sameConstants_trans (s.countRequest_sameConstants _ _ _) (State.handleUntranslated_sameConstants _ r))
  | translationRequest r =>
    exact keepsConstants_next
      (sameConstants_trans (s.countRequest_sameConstants _ _ _) (State.handleTranslation_sameConstants _ r))
  | translatedRequest r =>
    exact keepsConstants_next
      (sameConstants_trans (s.countRequest_sameConstants _ _ _) (State.handleTranslated_sameConstants _ r))
  | interruptRequest sid addr data =>
    exact keepsConstants_next
      (sameConstants_trans (s.countRequest_sameConstants _ _ _) (State.handleInterrupt_sameConstants _ sid addr data))
  | pageRequest m => exact keepsConstants_next (s.handlePage_sameConstants m)
  | invalidationCompletion sid vec cc => exact execInvalidationCompletion_keepsConstants sid vec cc s

theorem runAll_keepsConstants (is : List Instr) (s : State) : keepsConstants s (runAll is s) := by
  induction is generalizing s with
  | nil => exact keepsConstants_next ⟨rfl, rfl⟩
  | cons i rest ih => exact andThen_keepsConstants (exec_keepsConstants i s) ih

theorem runWord_keepsConstants (raw : Raw) (s : State) : keepsConstants s (runWord raw s) := by
  unfold runWord
  split
  · exact runAll_keepsConstants _ s
  · exact keepsConstants_next (s.undefinedVirtual_sameConstants _ _)
  · exact keepsConstants_next ⟨rfl, rfl⟩

/-! ## The agents around the unit -/

theorem State.softWrite4_keepsConstants (s : State) (off : Nat) (v : BitVec 32) :
    keepsConstants s (s.softWrite4 off v) := by
  unfold State.softWrite4
  split
  · exact keepsConstants_refused s _
  split
  · exact runWord_keepsConstants _ s
  · exact keepsConstants_next (s.writePlain_sameConstants off v)

theorem State.softWrite_keepsConstants (s : State) (off width : Nat) (v : BitVec 64) :
    keepsConstants s (s.softWrite off width v) := by
  have hboth : ∀ a b x y, keepsConstants s (andThen (s.softWrite4 a x) (fun t => t.softWrite4 b y)) := fun a b x y =>
    andThen_keepsConstants (s.softWrite4_keepsConstants a x) (fun u => u.softWrite4_keepsConstants b y)
  exact ite_keepsConstants _ (keepsConstants_refused s _) (ite_keepsConstants _ (keepsConstants_next ⟨rfl, rfl⟩)
    (ite_keepsConstants _ (s.softWrite4_keepsConstants off _) (ite_keepsConstants _ (hboth _ _ _ _) (hboth _ _ _ _))))

theorem State.softRead_keepsConstants (s : State) (off width : Nat) : keepsConstants s (s.softRead off width) :=
  ite_keepsConstants _ (keepsConstants_next ⟨rfl, rfl⟩) (keepsConstants_refused s _)

theorem State.memStore_keepsConstants (s : State) (a : Nat) (bs : List Byte) : keepsConstants s (s.memStore a bs) :=
  ite_keepsConstants _ (s.softWrite_keepsConstants _ _ _)
    (ite_keepsConstants _ (keepsConstants_next (s.softStore_sameConstants a bs)) (keepsConstants_fault s _))

theorem State.memLoad_keepsConstants (s : State) (a n : Nat) : keepsConstants s (s.memLoad a n) :=
  ite_keepsConstants _ (s.softRead_keepsConstants _ n) (keepsConstants_next ⟨rfl, rfl⟩)

theorem State.iqTurn_keepsConstants (s : State) : keepsConstants s s.iqTurn := by
  have hnote : sameConstants s s.advance.noteFetch :=
    sameConstants_trans s.advance_sameConstants s.advance.noteFetch_sameConstants
  refine keepsConstants_of_sameConstants hnote ?_
  unfold State.iqTurn
  dsimp only
  split
  · exact keepsConstants_next ⟨rfl, rfl⟩
  · exact keepsConstants_next (State.raiseIqe_sameConstants _ _)
  · exact exec_keepsConstants _ _

theorem runPiece_keepsConstants (atf : BitVec 2) (s : State) (r : MemReq) : keepsConstants s (runPiece atf s r) := by
  unfold runPiece
  split
  · exact exec_keepsConstants _ s
  · exact keepsConstants_next (s.turnAway_sameConstants r)

theorem runPieces_keepsConstants (atf : BitVec 2) (l : List MemReq) (s : State) :
    keepsConstants s (runPieces atf l s) := by
  induction l generalizing s with
  | nil => exact keepsConstants_next ⟨rfl, rfl⟩
  | cons r rest ih => exact andThen_keepsConstants (runPiece_keepsConstants atf s r) ih

theorem State.inboundMem_keepsConstants (s : State) (atf : BitVec 2) (r : MemReq) :
    keepsConstants s (s.inboundMem atf r) := by
  have hcount : sameConstants s (s.countRequest r.sid (reqPasid r) atf.toNat) := s.countRequest_sameConstants _ _ _
  unfold State.inboundMem
  refine ite_keepsConstants _ (keepsConstants_next hcount) ?_
  split
  · exact exec_keepsConstants _ s
  · exact keepsConstants_next hcount
  · exact ite_keepsConstants _ (keepsConstants_next (s.turnAway_sameConstants r))
      (ite_keepsConstants _ (exec_keepsConstants _ s) (runPieces_keepsConstants atf _ s))
  · exact keepsConstants_next (s.turnAway_sameConstants r)
  · exact keepsConstants_next (sameConstants_trans hcount (State.turnAway_sameConstants _ r))

theorem State.inbound_keepsConstants (s : State) (raw : Raw) : keepsConstants s (s.inbound raw) := by
  cases raw with
  | mem atf r => exact s.inboundMem_keepsConstants atf r
  | page m => exact runWord_keepsConstants (.page m) s
  | completion sid vec cc => exact runWord_keepsConstants (.completion sid vec cc) s
  | _ => exact keepsConstants_next ⟨rfl, rfl⟩

theorem State.completeOldest_keepsConstants (s : State) : keepsConstants s s.completeOldest := by
  unfold State.completeOldest
  split
  · exact keepsConstants_next ⟨rfl, rfl⟩
  · exact ite_keepsConstants _ (keepsConstants_refused s _) (keepsConstants_next (finishCmd_sameConstants _ _))

theorem State.releaseAll_sameConstants (s : State) : sameConstants s s.releaseAll := by
  simp [State.releaseAll]

/-- Every event of the environment, a reset included. -/
theorem State.process_keepsConstants (s : State) (e : Event) : keepsConstants s (s.process e) := by
  cases e with
  | softWrite off width v => exact s.softWrite_keepsConstants off width v
  | softRead off width => exact s.softRead_keepsConstants off width
  | softLocked => exact keepsConstants_refused s _
  | memStore a bs => exact s.memStore_keepsConstants a bs
  | memLoad a n => exact s.memLoad_keepsConstants a n
  | iqTurn => exact s.iqTurn_keepsConstants
  | device raw => exact s.inbound_keepsConstants raw
  | prqWrite w => exact runWord_keepsConstants (.prqDsc w) s
  | devTlbTimeout k => exact keepsConstants_next (s.devTlbTimeout_sameConstants k)
  | complete => exact s.completeOldest_keepsConstants
  | commit n => exact keepsConstants_next (s.commitNth_sameConstants n)
  | accept n => exact keepsConstants_next (s.acceptNth_sameConstants n)
  | evict c n => exact keepsConstants_next (s.evict_sameConstants c n)
  | drainStore => exact keepsConstants_next s.drainStore_sameConstants
  | readCompletion sid => exact keepsConstants_next (s.readCompletion_sameConstants sid)
  | release => exact keepsConstants_next s.releaseAll_sameConstants
  | perfPulse g e n => exact keepsConstants_next (s.perfPulse_sameConstants g e n)
  | reset p => exact keepsConstants_next ⟨rfl, rfl⟩

theorem step_keepsConstants (s : State) : keepsConstants s (step s) := by
  unfold step
  split
  · exact State.iqTurn_keepsConstants _
  · exact State.process_keepsConstants _ _

/-- Settles O10: each event keeps the constants, for a software write, a queue turn and a device message by the instruction or
the register it comes to. -/
theorem stepKeepsConstants : Obligations.StepKeepsConstants := fun s => step_keepsConstants s

end Sys2Proof.Machine
end

section
/-! O7 and O12: what an operation on behalf of a device may reach, and the form of the registers. The fields that a device can
move are named once (`State.withReports`); every operation of a device moves only those and keeps the form of the registers
(`DeviceEffect`), said once for each. The queue engine, the register commands and the register writes reach further and keep the
form alone. -/

namespace Sys2Proof.Machine

/-! ## The form of the registers -/

/-- The fault records are countable and indexed, and the reserved fields 0. -/
def State.registerForm (s : State) : Prop := s.recordForm ∧ s.reservedForm

/-! One rule for each register the form speaks of: what a new value of it must meet. -/

theorem State.registerForm_records {s : State} (h : s.registerForm) {l : List Frcd} {i : Nat}
    (len : l.length = s.frcd.length) (idx : i < l.length) :
    ({ s with frcd := l, faultIdx := i } : State).registerForm := by
  obtain ⟨⟨hlen, -, hcnt⟩, hres⟩ := h
  exact ⟨⟨len.trans hlen, idx, hcnt⟩, hres⟩

theorem State.registerForm_fsts {s : State} (h : s.registerForm) {f : Fsts} (ice : s.caps.dt = false → f.ice = false) :
    ({ s with fsts := f } : State).registerForm := by
  obtain ⟨hrec, hiq, -, hrest⟩ := h
  exact ⟨hrec, hiq, ice, hrest⟩

theorem State.registerForm_detail {s : State} (h : s.registerForm) (q : Iqercd) :
    ({ s with iqercd := s.detail q } : State).registerForm := by
  obtain ⟨hrec, hiq, hrest⟩ := h
  refine ⟨hrec, fun hoff => ?_, hrest⟩
  have hd : s.detail q = s.iqercd := if_neg (by simp [show s.plat.iqercd = false from hoff])
  exact hd.trans (hiq hoff)

theorem State.registerForm_irta {s : State} (h : s.registerForm) {p : IrtPtr} (eime : p.eime = true → s.caps.eim = true) :
    ({ s with irta := p } : State).registerForm := by
  obtain ⟨hrec, hiq, hice, -, hrest⟩ := h
  exact ⟨hrec, hiq, hice, eime, hrest⟩

theorem State.registerForm_latchedIr {s : State} (h : s.registerForm) {p : IrtPtr}
    (eime : p.eime = true → s.caps.eim = true) : ({ s with latchedIr := p } : State).registerForm := by
  obtain ⟨hrec, hiq, hice, hirta, -, hrest⟩ := h
  exact ⟨hrec, hiq, hice, hirta, eime, hrest⟩

theorem State.registerForm_pendCmds {s : State} (h : s.registerForm) {l : List PendCmd}
    (eime : ∀ p ∈ l, p.irt.eime = true → s.caps.eim = true) : ({ s with pendCmds := l } : State).registerForm := by
  obtain ⟨hrec, hiq, hice, hirta, hlat, -, hrest⟩ := h
  exact ⟨hrec, hiq, hice, hirta, hlat, eime, hrest⟩

/-- The limits and bases of the protected ranges have their low bits 0. -/
def Pmr.aligned (p : Pmr) (c : Platform) : Prop :=
  clearLow p.plmBase (c.plmrN + 1) = p.plmBase ∧ clearLow p.plmLimit (c.plmrN + 1) = p.plmLimit ∧
  clearLow p.phmBase (c.phmrN + 1) = p.phmBase ∧ clearLow p.phmLimit (c.phmrN + 1) = p.phmLimit

theorem State.registerForm.pmr_aligned {s : State} (h : s.registerForm) : s.pmr.aligned s.plat := by
  obtain ⟨-, -, -, -, -, -, hpb, hpl, hhb, hhl, -⟩ := h
  exact ⟨hpb, hpl, hhb, hhl⟩

theorem State.registerForm_pmr {s : State} (h : s.registerForm) {p : Pmr} (low : p.aligned s.plat) :
    ({ s with pmr := p } : State).registerForm := by
  obtain ⟨hrec, hiq, hice, hirta, hlat, hpend, -, -, -, -, hval⟩ := h
  obtain ⟨hpb, hpl, hhb, hhl⟩ := low
  exact ⟨hrec, hiq, hice, hirta, hlat, hpend, hpb, hpl, hhb, hhl, hval⟩

/-- The value of counter `k` has no bit above the counter's width (12 R451). -/
def Caps.fitsCounter (c : Caps) (k : Nat) (p : PerfCounter) : Prop := p.value.toNat < 2 ^ c.counterWidth k

theorem State.registerForm.fitsCounter {s : State} (h : s.registerForm) {k : Nat} {p : PerfCounter}
    (hp : s.perf.counters[k]? = some p) : s.caps.fitsCounter k p := by
  obtain ⟨-, -, -, -, -, -, -, -, -, -, hval⟩ := h
  exact hval k p hp

theorem State.registerForm_perf {s : State} (h : s.registerForm) {p : Perf}
    (len : p.counters.length = s.perf.counters.length)
    (fits : ∀ k x, p.counters[k]? = some x → s.caps.fitsCounter k x) : ({ s with perf := p } : State).registerForm := by
  obtain ⟨⟨hlen, hidx, hcnt⟩, hiq, hice, hirta, hlat, hpend, hpb, hpl, hhb, hhl, -⟩ := h
  exact ⟨⟨hlen, hidx, len.trans hcnt⟩, hiq, hice, hirta, hlat, hpend, hpb, hpl, hhb, hhl, fits⟩

theorem State.registerForm.index_lt {s : State} (h : s.registerForm) : s.faultIdx < s.frcd.length := by
  obtain ⟨⟨-, hidx, -⟩, -⟩ := h
  exact hidx

theorem State.registerForm.records_pos {s : State} (h : s.registerForm) : 0 < s.frcd.length :=
  Nat.zero_lt_of_lt h.index_lt

theorem State.registerForm.ice_of_not_dt {s : State} (h : s.registerForm) (hdt : s.caps.dt = false) :
    s.fsts.ice = false := by
  obtain ⟨-, -, hice, -⟩ := h
  exact hice hdt

theorem State.registerForm.irta_eime {s : State} (h : s.registerForm) : s.irta.eime = true → s.caps.eim = true := by
  obtain ⟨-, -, -, hirta, -⟩ := h
  exact hirta

theorem State.registerForm.pendCmds_eime {s : State} (h : s.registerForm) :
    ∀ p ∈ s.pendCmds, p.irt.eime = true → s.caps.eim = true := by
  obtain ⟨-, -, -, -, -, hpend, -⟩ := h
  exact hpend

/-! ## What a device reaches -/

/-- `s` with the fields that a message of a device can move as they stand in `t` (10 R100). -/
def State.withReports (s t : State) : State :=
  { s with
    fsts := { s.fsts with fri := t.fsts.fri, pfo := t.fsts.pfo, ice := t.fsts.ice }
    frcd := t.frcd, faultIdx := t.faultIdx, iqercd := { s.iqercd with icesid := t.iqercd.icesid }, iwc := t.iwc
    prq := { s.prq with pqt := t.prq.pqt, pro := t.prq.pro, ppr := t.prq.ppr }
    faultEv := { s.faultEv with ip := t.faultEv.ip }, invEv := { s.invEv with ip := t.invEv.ip }
    pageEv := { s.pageEv with ip := t.pageEv.ip }, perfEv := { s.perfEv with ip := t.perfEv.ip }
    perf := t.perf, caches := t.caches, iqPend := t.iqPend, itags := t.itags, wbuf := t.wbuf
    inFlight := t.inFlight, intrFlight := t.intrFlight, mem := t.mem, out := t.out, bus := t.bus
    freeCtr := t.freeCtr }

/-- From `s` to `t` only what a device can move has moved, the counters keep their setup, and the registers their form. -/
structure DeviceEffect (s t : State) : Prop where
  frame : t = s.withReports t
  setup : t.perf.counters.map PerfCounter.setup = s.perf.counters.map PerfCounter.setup
  form : s.registerForm → t.registerForm

@[refl] theorem DeviceEffect.refl (s : State) : DeviceEffect s s := ⟨rfl, rfl, id⟩

@[trans] theorem DeviceEffect.trans {s t u : State} (h : DeviceEffect s t) (k : DeviceEffect t u) : DeviceEffect s u := by
  refine ⟨?_, k.setup.trans h.setup, k.form ∘ h.form⟩
  calc
    u = t.withReports u := k.frame
    _ = (s.withReports t).withReports u := congrArg (State.withReports · u) h.frame
    _ = s.withReports u := rfl

/-- The later operation first: it names the state between. -/
theorem DeviceEffect.after {s t u : State} (k : DeviceEffect t u) (h : DeviceEffect s t) : DeviceEffect s u := h.trans k

theorem DeviceEffect.caps {s t : State} (h : DeviceEffect s t) : t.caps = s.caps := by
  rw [h.frame]
  rfl

/-- A choice between two operations. -/
theorem DeviceEffect.ite {s t u : State} {p : Prop} [Decidable p] (ht : DeviceEffect s t) (hu : DeviceEffect s u) :
    DeviceEffect s (if p then t else u) := by
  split
  · exact ht
  · exact hu

/-- An operation repeated along a list. -/
theorem DeviceEffect.foldl {α : Type} {f : State → α → State} (h : ∀ s a, DeviceEffect s (f s a)) (l : List α)
    (s : State) : DeviceEffect s (l.foldl f s) := by
  induction l generalizing s with
  | nil => rfl
  | cons a l ih => exact (h s a).trans (ih (f s a))

/-! ## Memory, events and faults -/

theorem State.access_deviceEffect (s : State) (k : BusKind) (a n : Nat) (snoop : Bool) :
    DeviceEffect s (s.access k a n snoop) := ⟨rfl, rfl, id⟩

theorem State.memWrite_deviceEffect (s : State) (a n v : Nat) : DeviceEffect s (s.memWrite a n v) := ⟨rfl, rfl, id⟩

theorem State.implicitFlush_deviceEffect (s : State) : DeviceEffect s s.implicitFlush := .ite ⟨rfl, rfl, id⟩ (.refl s)

theorem State.setIp_deviceEffect (s : State) (e : EventName) (b : Bool) :
    DeviceEffect s (s.setEvRegs e { s.evRegs e with ip := b }) := by
  cases e <;> exact ⟨rfl, rfl, id⟩

theorem State.sendInterrupt_deviceEffect (s : State) (e : EventName) : DeviceEffect s (s.sendInterrupt e) := by
  obtain ⟨m, b, o, h⟩ := s.sendInterrupt_frame e
  rw [h]
  exact ⟨rfl, rfl, id⟩

theorem State.raiseEvent_deviceEffect (s : State) (e : EventName) (w : Bool) : DeviceEffect s (s.raiseEvent e w) :=
  .ite (.refl s) (.ite (s.setIp_deviceEffect e true)
    ((s.setIp_deviceEffect e false).trans (State.sendInterrupt_deviceEffect _ e)))

/-- A fault record written at the index, which moves on (60 R1370). -/
theorem State.writeRecord_deviceEffect (s : State) (x : Frcd) :
    DeviceEffect s { s with frcd := s.frcd.set s.faultIdx x, faultIdx := (s.faultIdx + 1) % s.frcd.length } := by
  refine ⟨rfl, rfl, fun h => s.registerForm_records h List.length_set ?_⟩
  rw [List.length_set]
  exact Nat.mod_lt _ h.records_pos

theorem State.reportFault_deviceEffect (s : State) (r : FaultReport) : DeviceEffect s (s.reportFault r) := by
  have hfri : DeviceEffect s { s with fsts := { s.fsts with fri := BitVec.ofNat 8 s.faultIdx } } := ⟨rfl, rfl, id⟩
  unfold State.reportFault
  iterate 3 refine .ite (.refl s) ?_
  split
  · rfl
  refine .ite ⟨rfl, rfl, id⟩ (.ite (s.writeRecord_deviceEffect _) ?_)
  exact (hfri.trans (State.writeRecord_deviceEffect _ _)).trans (State.raiseEvent_deviceEffect _ _ _)

/-! ## Perfmon -/

theorem State.perfmonEvent_deviceEffect (s : State) : DeviceEffect s s.perfmonEvent :=
  (State.raiseEvent_deviceEffect _ _ _).after ⟨rfl, rfl, id⟩

/-- Each counter changed by a function that keeps its value within its width. -/
theorem State.mapCounters_registerForm {s : State} (h : s.registerForm) {f : PerfCounter → PerfCounter}
    (fits : ∀ k p, s.caps.fitsCounter k p → s.caps.fitsCounter k (f p)) : (s.mapCounters f).registerForm := by
  refine s.registerForm_perf h (List.length_map f) fun k x hx => ?_
  rw [List.getElem?_map] at hx
  obtain ⟨p, hp, rfl⟩ := Option.map_eq_some_iff.1 hx
  exact fits k p (h.fitsCounter hp)

theorem State.freezeAll_deviceEffect (s : State) (b : Bool) : DeviceEffect s (s.freezeAll b) := by
  obtain ⟨-, hsetup, -⟩ := s.freezeAll_only b
  exact ⟨rfl, hsetup, fun h => State.mapCounters_registerForm h fun _ _ => id⟩

theorem ofNat_mod_two_pow_lt (w x n : Nat) : (BitVec.ofNat w (x % 2 ^ n)).toNat < 2 ^ n := by
  rw [BitVec.toNat_ofNat]
  exact (Nat.mod_le _ _).trans_lt (Nat.mod_lt _ (Nat.two_pow_pos _))

theorem PerfCounter.bump_fits (p : PerfCounter) (o : Occurrence) (c : Caps) (k : Nat) :
    c.fitsCounter k (p.bump o (c.counterWidth k)) := ofNat_mod_two_pow_lt 64 _ _

theorem State.bumpCounter_deviceEffect {s : State} {k : Nat} {p : PerfCounter} (o : Occurrence)
    (hp : s.perf.counters[k]? = some p) : DeviceEffect s (s.setCounter k (p.bump o (s.caps.counterWidth k))) := by
  obtain ⟨-, hsetup, -⟩ := s.setCounter_only k p (p.bump o (s.caps.counterWidth k)) hp rfl
  refine ⟨rfl, hsetup, fun h => s.registerForm_perf h List.length_set fun i x hx => ?_⟩
  rw [List.getElem?_set] at hx
  split at hx
  next hik =>
    subst hik
    split at hx
    · cases hx
      exact p.bump_fits o s.caps k
    · cases hx
  next => exact h.fitsCounter hx

theorem State.countAt_deviceEffect (s : State) (o : Occurrence) (k : Nat) : DeviceEffect s (s.countAt o k) := by
  unfold State.countAt
  split
  · rfl
  next p hp =>
    refine .ite ?_ (.refl s)
    have hbump := State.bumpCounter_deviceEffect o hp
    have hevent := hbump.trans (.ite (p := (p.overflows o (s.caps.counterWidth k) && p.io) = true)
      (State.perfmonEvent_deviceEffect _) (.refl _))
    exact .ite (hevent.trans (State.freezeAll_deviceEffect _ true)) hevent

theorem State.count_deviceEffect (s : State) (o : Occurrence) : DeviceEffect s (s.count o) :=
  .ite (.foldl (fun t k => t.countAt_deviceEffect o k) _ s) (.refl s)

theorem State.countAll_deviceEffect (s : State) (l : List Occurrence) : DeviceEffect s (s.countAll l) :=
  .foldl State.count_deviceEffect l s

theorem State.countInt_deviceEffect (s : State) (g e : Nat) (sid : SourceId) : DeviceEffect s (s.countInt g e sid) :=
  s.count_deviceEffect _

theorem State.countRequest_deviceEffect (s : State) (sid : SourceId) (p : Option Pasid) (atf : Nat) :
    DeviceEffect s (s.countRequest sid p atf) := s.count_deviceEffect _

/-! ## Caches and walks -/

theorem State.fillIec_deviceEffect (s : State) (e : IecEntry) : DeviceEffect s (s.fillIec e) := by
  obtain ⟨c, h⟩ := s.fillIec_frame e
  rw [h]
  exact ⟨rfl, rfl, id⟩

theorem State.fillPsc_deviceEffect (s : State) (l : List PscEntry) : DeviceEffect s (s.fillPsc l) := by
  obtain ⟨c, h⟩ := s.fillPsc_frame l
  rw [h]
  exact ⟨rfl, rfl, id⟩

theorem State.keepTrail_deviceEffect (s : State) (t : Trail) : DeviceEffect s (s.keepTrail t) := by
  obtain ⟨c, h⟩ := s.keepTrail_frame t
  rw [h]
  exact ⟨rfl, rfl, id⟩

theorem State.keepFound_deviceEffect (s : State) (f : Found) (r : MemReq) (fpd : Bool) :
    DeviceEffect s (s.keepFound f r fpd) := by
  obtain ⟨c, h⟩ := s.keepFound_frame f r fpd
  rw [h]
  exact ⟨rfl, rfl, id⟩

theorem State.updateFlags_deviceEffect (s : State) (u : FlagUpdate) : DeviceEffect s (s.updateFlags u) := ⟨rfl, rfl, id⟩

theorem State.runWalk_deviceEffect {α : Type} (s : State) (w : Walk α) (sid : SourceId) (p : Option Pasid) (a : Nat) :
    DeviceEffect s (s.runWalk w sid p a).2.2 := by
  have hmet : ∀ t : Trail, DeviceEffect s (((s.accessAll t).countTrail t sid p a).keepTrail t) := fun t =>
    (State.keepTrail_deviceEffect _ t).after ((State.countAll_deviceEffect _ _).after ⟨rfl, rfl, id⟩)
  unfold State.runWalk
  generalize w.run.run Trail.empty = walked
  obtain ⟨res, t⟩ := walked
  cases res with
  | error c => exact (hmet t).trans (State.fillPsc_deviceEffect _ _)
  | ok x => exact (hmet t).trans ((State.fillPsc_deviceEffect _ _).after (.foldl State.updateFlags_deviceEffect _ _))

/-- The state a walk leaves. -/
theorem deviceEffect_of_runWalk {α : Type} {s u : State} {w : Walk α} {sid : SourceId} {p : Option Pasid} {a : Nat}
    {res : Except Cond α} {t : Trail} (h : s.runWalk w sid p a = (res, t, u)) : DeviceEffect s u := by
  have hwalk := s.runWalk_deviceEffect w sid p a
  rwa [h] at hwalk

/-! ## Requests and interrupts in flight -/

theorem State.drainWhere_deviceEffect (s : State) (p : Forwarded → Bool) : DeviceEffect s (s.drainWhere p) := by
  obtain ⟨m, b, o, n, h⟩ := s.drainWhere_frame p
  rw [h]
  exact ⟨rfl, rfl, id⟩

theorem State.forward_deviceEffect (s : State) (f : Forwarded) : DeviceEffect s (s.forward f) := by
  obtain ⟨m, b, o, n, l, h⟩ := s.forward_frame f
  rw [h]
  exact ⟨rfl, rfl, id⟩

theorem State.commitNth_deviceEffect (s : State) (k : Nat) : DeviceEffect s (s.commitNth k) := by
  obtain ⟨m, b, o, n, l, h⟩ := s.commitNth_frame k
  rw [h]
  exact ⟨rfl, rfl, id⟩

theorem State.deliver_deviceEffect (s : State) (d : IntrFlight) : DeviceEffect s (s.deliver d) := by
  obtain ⟨o, l, h⟩ := s.deliver_frame d
  rw [h]
  exact ⟨rfl, rfl, id⟩

theorem State.acceptNth_deviceEffect (s : State) (n : Nat) : DeviceEffect s (s.acceptNth n) := by
  obtain ⟨o, l, h⟩ := s.acceptNth_frame n
  rw [h]
  exact ⟨rfl, rfl, id⟩

theorem State.acceptWhere_deviceEffect (s : State) (p : IntrFlight → Bool) : DeviceEffect s (s.acceptWhere p) := by
  rw [State.acceptWhere_eq]
  exact ⟨rfl, rfl, id⟩

/-! ## Interrupt requests (44 R1100 to R1137) -/

theorem State.intFault_deviceEffect (s : State) (reason : BitVec 8) (q : Bool) (sid : SourceId) (fi : BitVec 52)
    (fpd : Bool) : DeviceEffect s (s.intFault reason q sid fi fpd) := s.reportFault_deviceEffect _

theorem State.fresh_deviceEffect (s : State) : DeviceEffect s s.fresh := ⟨rfl, rfl, id⟩

theorem State.handleCompat_deviceEffect (s : State) (sid : SourceId) (addr data : BitVec 32) :
    DeviceEffect s (s.handleCompat sid addr data) :=
  .ite ((s.intFault_deviceEffect _ _ sid _ _).trans (State.fresh_deviceEffect _)) (s.deliver_deviceEffect _)

theorem State.post_deviceEffect (s : State) (sid : SourceId) (e : BitVec 128) : DeviceEffect s (s.post sid e) := by
  have hwrite : ∀ v, DeviceEffect s (s.drainInterrupts.memWrite (irtePid e).toNat 64 v) := fun v =>
    (State.memWrite_deviceEffect _ _ _ v).after (s.acceptWhere_deviceEffect _)
  unfold State.post
  dsimp only
  exact .ite ((State.deliver_deviceEffect _ _).after (hwrite _)) (hwrite _)

theorem State.useIrte_deviceEffect (s : State) (sid : SourceId) (idx : Nat) (e : BitVec 128) (cached : Bool) :
    DeviceEffect s (s.useIrte sid idx e cached) := by
  have hfetched : DeviceEffect s
      (if cached || ((useFault s sid e).isSome && !s.caps.cm) then s
        else s.fillIec { index := BitVec.ofNat 16 idx, irte := e }) := .ite (.refl s) (s.fillIec_deviceEffect _)
  have haccess : ∀ u n, DeviceEffect s u → DeviceEffect s (if reachesPid s sid e then u.access .atomic n 64 true else u) :=
    fun u n h => .ite (h.trans ⟨rfl, rfl, id⟩) h
  unfold State.useIrte
  dsimp only
  split
  · exact (State.intFault_deviceEffect _ _ _ _ _ _).after (haccess _ _ hfetched)
  · exact .ite ((State.post_deviceEffect _ _ _).after (haccess _ _ hfetched))
      ((State.deliver_deviceEffect _ _).after (haccess _ _ hfetched))

theorem State.remapInterrupt_deviceEffect (s : State) (sid : SourceId) (addr data : BitVec 32) :
    DeviceEffect s (s.remapInterrupt sid addr data) := by
  refine .ite ((s.intFault_deviceEffect _ _ sid _ _).trans (State.fresh_deviceEffect _))
    (.ite (s.intFault_deviceEffect _ _ sid _ _) (.trans (s.countInt_deviceEffect 4 0 sid) ?_))
  dsimp only
  split
  · exact (State.countInt_deviceEffect _ _ _ _).trans (State.useIrte_deviceEffect _ _ _ _ _)
  refine .ite (State.intFault_deviceEffect _ _ _ _ _ _) (.trans (State.countInt_deviceEffect _ 1 0 sid) ?_)
  split
  · exact (State.intFault_deviceEffect _ _ _ _ _ _).after ⟨rfl, rfl, id⟩
  · exact (State.useIrte_deviceEffect _ _ _ _ _).after ⟨rfl, rfl, id⟩

theorem State.handleInterrupt_deviceEffect (s : State) (sid : SourceId) (addr data : BitVec 32) :
    DeviceEffect s (s.handleInterrupt sid addr data) :=
  (s.drainWhere_deviceEffect _).trans (.ite (State.deliver_deviceEffect _ _)
    (.ite (State.handleCompat_deviceEffect _ _ _ _) (State.remapInterrupt_deviceEffect _ _ _ _)))

/-! ## Memory requests (42 R1000 to R1032, 43 R1055 to R1075) -/

theorem State.respond_deviceEffect (s : State) (sid : SourceId) (r : Response) : DeviceEffect s (s.respond sid r) :=
  ⟨rfl, rfl, id⟩

theorem State.turnAway_deviceEffect (s : State) (r : MemReq) : DeviceEffect s (s.turnAway r) :=
  .ite (.refl s) (s.respond_deviceEffect _ _)

theorem State.block_deviceEffect (s : State) (k : ReqKind) (r : MemReq) (c : Cond) (fpd : Bool) :
    DeviceEffect s (s.block k r c fpd) := (s.turnAway_deviceEffect r).trans (State.reportFault_deviceEffect _ _)

theorem State.passOn_deviceEffect (s : State) (k : ReqKind) (r : MemReq) (hpa : Addr) (pt snoop : Bool)
    (mt : Option MemType) : DeviceEffect s (s.passOn k r hpa pt snoop mt) :=
  .ite (s.turnAway_deviceEffect r) (s.forward_deviceEffect _)

theorem State.blockIllegal_deviceEffect (s : State) (r : MemReq) : DeviceEffect s (s.blockIllegal r) :=
  .ite (s.block_deviceEffect _ r _ _) (s.turnAway_deviceEffect r)

theorem State.interruptRange_deviceEffect (s : State) (r : MemReq) : DeviceEffect s (s.interruptRange r) := by
  unfold State.interruptRange
  split
  · exact .ite (s.handleInterrupt_deviceEffect _ _ _) (s.blockIllegal_deviceEffect r)
  · exact ⟨rfl, rfl, id⟩
  · exact s.blockIllegal_deviceEffect r
  · exact s.blockIllegal_deviceEffect r

theorem State.forwardFound_deviceEffect (s : State) (r : MemReq) (f : Found) (fpd : Bool) :
    DeviceEffect s (s.forwardFound r f fpd) :=
  .trans (s.keepFound_deviceEffect f r fpd)
    (.trans (State.passOn_deviceEffect _ _ _ _ _ _ _) (State.fresh_deviceEffect _))

theorem State.handleUntranslated_deviceEffect (s : State) (r : MemReq) : DeviceEffect s (s.handleUntranslated r) := by
  unfold State.handleUntranslated
  refine .ite (s.interruptRange_deviceEffect r) (.ite (s.passOn_deviceEffect _ _ _ _ _ _) ?_)
  split
  next h => exact (deviceEffect_of_runWalk h).trans (State.block_deviceEffect _ _ _ _ _)
  next h => exact (deviceEffect_of_runWalk h).trans (State.forwardFound_deviceEffect _ _ _ _)

theorem State.answerFault_deviceEffect (s : State) (r : MemReq) (c : Cond) (t : Trail) :
    DeviceEffect s (s.answerFault r c t) := by
  have hfault : ∀ a f, DeviceEffect s ((s.respond r.sid a).reportFault f) := fun a f =>
    (s.respond_deviceEffect _ a).trans (State.reportFault_deviceEffect _ f)
  unfold State.answerFault
  split
  · exact .ite (hfault _ _) (s.respond_deviceEffect _ _)
  · exact s.respond_deviceEffect _ _
  · exact hfault _ _
  · exact hfault _ _

theorem State.handleTranslation_deviceEffect (s : State) (r : MemReq) : DeviceEffect s (s.handleTranslation r) := by
  unfold State.handleTranslation
  refine .ite (s.respond_deviceEffect _ _) ?_
  split
  next h => exact (deviceEffect_of_runWalk h).trans (State.answerFault_deviceEffect _ _ _ _)
  next h =>
    exact (deviceEffect_of_runWalk h).trans
      ((State.keepFound_deviceEffect _ _ _ _).trans (State.respond_deviceEffect _ _ _))

theorem State.handleTranslated_deviceEffect (s : State) (r : MemReq) : DeviceEffect s (s.handleTranslated r) := by
  unfold State.handleTranslated
  refine .ite (s.forward_deviceEffect _) (.ite (s.turnAway_deviceEffect r) ?_)
  split
  next h => exact (deviceEffect_of_runWalk h).trans (State.block_deviceEffect _ _ _ _ _)
  next h => exact (deviceEffect_of_runWalk h).trans (State.passOn_deviceEffect _ _ _ _ _ _ _)

/-! ## Page requests (45 R1170 to R1185) -/

theorem State.autoResponse_deviceEffect (s : State) (m : PageMsg) (c : BitVec 4) : DeviceEffect s (s.autoResponse m c) :=
  .ite (s.respond_deviceEffect _ _) (.refl s)

theorem State.setPro_deviceEffect (s : State) : DeviceEffect s s.setPro :=
  (State.raiseEvent_deviceEffect _ _ _).after ⟨rfl, rfl, id⟩

theorem State.prqDelivered_deviceEffect (s : State) : DeviceEffect s s.prqDelivered :=
  (State.raiseEvent_deviceEffect _ _ _).after ⟨rfl, rfl, id⟩

theorem State.writePrq_deviceEffect (s : State) (m : PageMsg) : DeviceEffect s (s.writePrq m) := by
  have hdescriptor : ∀ a v, DeviceEffect s ((s.access .write a 32 true).memWrite a 32 v) := fun a v =>
    (State.memWrite_deviceEffect _ _ _ _).after (s.access_deviceEffect _ _ _ _)
  exact .ite ((State.count_deviceEffect _ _).after ((State.prqDelivered_deviceEffect _).after (hdescriptor _ _)))
    (s.access_deviceEffect _ _ _ _)

theorem State.implicitInvalidate_deviceEffect (s : State) (g : BitVec 3) (did : DomainId) (p : Pasid)
    (addr : BitVec 52) : DeviceEffect s (s.implicitInvalidate g did p addr) := by
  unfold State.implicitInvalidate
  split <;> exact ⟨rfl, rfl, id⟩

theorem State.reportPage_deviceEffect (s : State) (m : PageMsg) (c : Cond) (fpd : Bool) :
    DeviceEffect s (s.reportPage m c fpd) := .ite (.refl s) (s.reportFault_deviceEffect _)

theorem State.acceptPage_deviceEffect (s : State) (m : PageMsg) (g : BitVec 3) (did : DomainId) (p : Pasid) :
    DeviceEffect s (s.acceptPage m g did p) :=
  .ite (s.autoResponse_deviceEffect m _)
    (.ite (s.setPro_deviceEffect.trans (State.autoResponse_deviceEffect _ m _))
      (.trans (s.implicitInvalidate_deviceEffect _ _ _ _)
        ((State.writePrq_deviceEffect _ _).trans (State.fresh_deviceEffect _))))

theorem State.handlePage_deviceEffect (s : State) (m : PageMsg) : DeviceEffect s (s.handlePage m) := by
  unfold State.handlePage
  refine .ite (s.autoResponse_deviceEffect m _) ?_
  split
  next h =>
    exact (deviceEffect_of_runWalk h).trans
      ((State.reportPage_deviceEffect _ m _ _).trans (State.autoResponse_deviceEffect _ m _))
  next h => exact (deviceEffect_of_runWalk h).trans (State.acceptPage_deviceEffect _ _ _ _ _)

/-! ## Pending descriptors and invalidation completions (40 R930 to R940, 43 R1085) -/

theorem State.completeWait_deviceEffect (s : State) (iflag sw : Bool) (data : BitVec 32) (saddr : BitVec 62) :
    DeviceEffect s (s.completeWait iflag sw data saddr) := by
  have hstatus : DeviceEffect s (if sw then s.writeStatus data saddr else s) :=
    .ite (.ite ⟨rfl, rfl, id⟩ ⟨rfl, rfl, id⟩) (.refl s)
  exact hstatus.trans (.ite ((State.raiseEvent_deviceEffect _ _ _).after ⟨rfl, rfl, id⟩) (.refl _))

theorem advancePend_deviceEffect (s : State) (kept l : List Pending) : DeviceEffect s (advancePend s kept l).1 := by
  induction l generalizing s kept with
  | nil => rfl
  | cons p rest ih =>
    cases p with
    | wait iflag sw fn pd data saddr =>
      unfold advancePend
      split
      · exact (s.completeWait_deviceEffect iflag sw data saddr).trans (ih _ _)
      · exact ih _ _
    | sent k => exact ih _ _
    | unsent m =>
      unfold advancePend
      split
      · exact ih _ _
      · exact (ih _ _).after ⟨rfl, rfl, id⟩
    | resp m =>
      unfold advancePend
      split
      · exact ih _ _
      · exact (ih _ _).after ⟨rfl, rfl, id⟩

theorem State.advance_deviceEffect (s : State) : DeviceEffect s s.advance :=
  (advancePend_deviceEffect s [] s.iqPend).trans ⟨rfl, rfl, id⟩

theorem State.pend_deviceEffect (s : State) (p : Pending) : DeviceEffect s (s.pend p) :=
  (State.advance_deviceEffect _).after ⟨rfl, rfl, id⟩

/-- ICE and its source-id, on a unit with Device-TLBs (40 R915). -/
theorem State.setIce_deviceEffect (s : State) (rid : SourceId) : DeviceEffect s (s.setIce rid) := by
  unfold State.setIce
  dsimp only
  split
  next hdt =>
    refine (State.raiseEvent_deviceEffect _ _ _).after ⟨?_, rfl, fun h => ?_⟩
    · unfold State.detail
      split <;> rfl
    · exact State.registerForm_fsts (s.registerForm_detail h _) fun hoff => absurd (hdt.symm.trans hoff) (by decide)
  next => rfl

theorem deviceEffect_of_execInvalidationCompletion {sid : SourceId} {vec : BitVec 32} {cc : BitVec 3} {s t : State}
    (h : execInvalidationCompletion sid vec cc s = .next t) : DeviceEffect s t := by
  cases h
  have hdrained : DeviceEffect s (s.drainStoresOf sid) := s.drainWhere_deviceEffect _
  refine .ite (s.respond_deviceEffect _ _) (hdrained.trans (.ite ?_ ?_))
  · exact (State.advance_deviceEffect _).after ⟨rfl, rfl, id⟩
  · exact State.setIce_deviceEffect _ sid

/-! ## Messages of devices -/

/-- The instructions that are messages of a device (42 R1000). -/
inductive DeviceMessage : Instr → Prop where
  | untranslated (r : MemReq) : DeviceMessage (.untranslatedRequest r)
  | translation (r : MemReq) : DeviceMessage (.translationRequest r)
  | translated (r : MemReq) : DeviceMessage (.translatedRequest r)
  | interrupt (sid : SourceId) (addr data : BitVec 32) : DeviceMessage (.interruptRequest sid addr data)
  | page (m : PageMsg) : DeviceMessage (.pageRequest m)
  | completion (sid : SourceId) (vec : BitVec 32) (cc : BitVec 3) : DeviceMessage (.invalidationCompletion sid vec cc)

theorem exec_deviceEffect {i : Instr} (hi : DeviceMessage i) {s t : State} (h : exec i s = .next t) :
    DeviceEffect s t := by
  cases hi
  case completion sid vec cc => exact deviceEffect_of_execInvalidationCompletion h
  all_goals cases h
  case untranslated r =>
    exact (s.countRequest_deviceEffect _ _ _).trans (State.handleUntranslated_deviceEffect _ r)
  case translation r =>
    exact (s.countRequest_deviceEffect _ _ _).trans (State.handleTranslation_deviceEffect _ r)
  case translated r =>
    exact (s.countRequest_deviceEffect _ _ _).trans (State.handleTranslated_deviceEffect _ r)
  case interrupt sid addr data =>
    exact (s.countRequest_deviceEffect _ _ _).trans (State.handleInterrupt_deviceEffect _ sid addr data)
  case page m => exact s.handlePage_deviceEffect m

/-- Settles O12: every operation that the six messages come to moves only the fields of `State.withReports`. -/
theorem devicesReachNoControl : Obligations.DevicesReachNoControl := by
  intro i s t hi h
  have heff : DeviceEffect s t := by
    rcases hi with ⟨r, rfl | rfl | rfl⟩ | ⟨sid, a, d, rfl⟩ | ⟨m, rfl⟩ | ⟨sid, vec, cc, rfl⟩
    · exact exec_deviceEffect (.untranslated r) h
    · exact exec_deviceEffect (.translation r) h
    · exact exec_deviceEffect (.translated r) h
    · exact exec_deviceEffect (.interrupt sid a d) h
    · exact exec_deviceEffect (.page m) h
    · exact exec_deviceEffect (.completion sid vec cc) h
  exact ⟨heff.frame, heff.setup⟩

end Sys2Proof.Machine
end

section
/-! O7: every step keeps the form of the registers. What is no operation of a device (`DeviceEffect`) is the queue engine's
errors, the completion of register commands, the register writes and the reset; each keeps the form by the rule for the
registers it writes. -/

namespace Sys2Proof.Machine

/-! ## The counters and the fault index -/

theorem State.mapCounter_registerForm {s : State} (h : s.registerForm) {k : Nat} {f : PerfCounter → PerfCounter}
    (fits : ∀ p, s.caps.fitsCounter k p → s.caps.fitsCounter k (f p)) : (s.mapCounter k f).registerForm := by
  refine s.registerForm_perf h (List.length_modify ..) fun i x hx => ?_
  rw [List.getElem?_modify] at hx
  obtain ⟨p, hp, rfl⟩ := Option.map_eq_some_iff.1 hx
  split
  next hik =>
    subst hik
    exact fits p (h.fitsCounter hp)
  next => exact h.fitsCounter hp

theorem State.resetFaultIdx_registerForm {s : State} (h : s.registerForm) : s.resetFaultIdx.registerForm :=
  iteInduction (fun _ => h) fun _ => s.registerForm_records h rfl h.records_pos

/-! ## The queue engine -/

theorem State.raiseIqe_registerForm {s : State} (h : s.registerForm) (i : BitVec 4) : (s.raiseIqe i).registerForm :=
  (State.raiseEvent_deviceEffect _ .fault _).form (State.registerForm_detail (s := { s with
    fsts := { s.fsts with iqe := true } }) h _)

theorem State.setIte_registerForm {s : State} (h : s.registerForm) (sid : SourceId) : (s.setIte sid).registerForm :=
  (State.raiseEvent_deviceEffect _ .fault _).form (State.registerForm_detail (s := { s with
    fsts := { s.fsts with ite := true } }) h _)

theorem State.devTlbTimeout_registerForm {s : State} (h : s.registerForm) (k : Nat) : (s.devTlbTimeout k).registerForm := by
  unfold State.devTlbTimeout
  split
  · exact h
  · exact (State.advance_deviceEffect _).form (State.setIte_registerForm (by exact h) _)

theorem State.noteFetch_deviceEffect (s : State) : DeviceEffect s s.noteFetch :=
  .ite ((State.count_deviceEffect _ _).after (s.access_deviceEffect _ _ _ _)) (.refl s)

/-- A descriptor whose own effect keeps the form. -/
theorem State.runDsc_registerForm {s : State} (h : s.registerForm) (ty : Nat) (r : Bool) {act : State → State}
    (hact : ∀ u, u.registerForm → (act u).registerForm) : (s.runDsc ty r act).registerForm :=
  iteInduction (fun _ => State.raiseIqe_registerForm h 3) fun _ =>
    iteInduction (fun _ => State.raiseIqe_registerForm h 4) fun _ => hact s.advanceHead h

theorem State.invalidatePGrade_deviceEffect (s : State) (k : Nat) (did : DomainId) (p : Pasid) (addr : BitVec 52)
    (am : Nat) (ih : Bool) : DeviceEffect s (s.invalidatePGrade k did p addr am ih) := by
  unfold State.invalidatePGrade
  split
  · exact ⟨rfl, rfl, id⟩
  · split <;> exact ⟨rfl, rfl, id⟩

/-! ## Register commands -/

theorem ite_invalidateAllDma_deviceEffect (s : State) (b : Bool) :
    DeviceEffect s (if b then s.invalidateAllDma else s) := .ite ⟨rfl, rfl, id⟩ (.refl s)

theorem ite_invalidateAllIec_deviceEffect (s : State) (b : Bool) :
    DeviceEffect s (if b then s.invalidateAllIec else s) := .ite ⟨rfl, rfl, id⟩ (.refl s)

theorem State.finishTeDisable_registerForm {s : State} (h : s.registerForm) : s.finishTeDisable.registerForm :=
  State.resetFaultIdx_registerForm (by exact (ite_invalidateAllDma_deviceEffect s _).form h)

theorem State.finishIreDisable_registerForm {s : State} (h : s.registerForm) : s.finishIreDisable.registerForm :=
  State.resetFaultIdx_registerForm (by exact (ite_invalidateAllIec_deviceEffect s _).form h)

theorem State.finishSrtp_registerForm {s : State} (h : s.registerForm) (p : RootPtr) : (s.finishSrtp p).registerForm :=
  (ite_invalidateAllDma_deviceEffect s s.caps.esrtps).form h

/-- The table pointer latched is the one captured at Submit, whose EIME the capability allows. -/
theorem State.finishSirtp_registerForm {s : State} (h : s.registerForm) {p : IrtPtr}
    (eime : p.eime = true → s.caps.eim = true) : (s.finishSirtp p).registerForm := by
  have hinv := ite_invalidateAllIec_deviceEffect s s.caps.esirtps
  unfold State.finishSirtp
  dsimp only
  generalize (if s.caps.esirtps then s.invalidateAllIec else s) = u at hinv ⊢
  exact u.registerForm_latchedIr (hinv.form h) (by rwa [hinv.caps])

theorem State.finishCcmd_registerForm {s : State} (h : s.registerForm) : s.finishCcmd.registerForm :=
  iteInduction (fun _ => h) fun _ => s.implicitFlush_deviceEffect.form h

theorem State.finishIotlb_registerForm {s : State} (h : s.registerForm) : s.finishIotlb.registerForm :=
  iteInduction (fun _ => h) fun _ => (State.drainWhere_deviceEffect _ _).form (s.implicitFlush_deviceEffect.form h)

theorem State.finishPmen_registerForm {s : State} (h : s.registerForm) (v : Bool) : (s.finishPmen v).registerForm := by
  have hdrain : DeviceEffect s (if v then s.drainAll else s) := .ite (s.drainWhere_deviceEffect _) (.refl s)
  exact State.registerForm_pmr (hdrain.form h) (hdrain.form h).pmr_aligned

/-- An enhanced command whose own effect keeps the form. -/
theorem State.ecmdRun_registerForm {s : State} (h : s.registerForm) (cmd : Nat) {act : State → State × BitVec 7}
    (hact : (act s).1.registerForm) : (s.ecmdRun cmd act).registerForm :=
  iteInduction (fun _ => h) fun _ => iteInduction (fun _ => h) fun _ => hact

theorem enableCounter_registerForm {s : State} (h : s.registerForm) (k : Nat) : (enableCounter k s).1.registerForm := by
  unfold enableCounter
  split
  · exact State.mapCounter_registerForm h fun _ => id
  · exact h

theorem disableCounter_registerForm {s : State} (h : s.registerForm) (k : Nat) : (disableCounter k s).1.registerForm := by
  unfold disableCounter
  split
  · exact h
  · exact State.mapCounter_registerForm h fun _ => id

theorem resetValues_registerForm {s : State} (h : s.registerForm) : (resetValues s).1.registerForm :=
  State.mapCounters_registerForm h fun _ _ _ => Nat.two_pow_pos _

theorem State.finishVcmdAllocate_registerForm {s : State} (h : s.registerForm) : s.finishVcmdAllocate.registerForm := by
  unfold State.finishVcmdAllocate
  split
  · exact h
  · split <;> exact h

theorem State.finishVcmdFree_registerForm {s : State} (h : s.registerForm) (oa : BitVec 48) :
    (s.finishVcmdFree oa).registerForm :=
  iteInduction (fun _ => h) fun _ => iteInduction (fun _ => h) fun _ => h

theorem finishInstr_registerForm {s : State} (h : s.registerForm) {p : PendCmd}
    (eime : p.irt.eime = true → s.caps.eim = true) (i : Instr) : (finishInstr p s i).registerForm := by
  cases i with
  | gcmdTeEnable => exact (s.drainWhere_deviceEffect _).form h
  | gcmdTeDisable => exact State.finishTeDisable_registerForm h
  | gcmdSrtp => exact State.finishSrtp_registerForm h p.root
  | gcmdIreEnable => exact (s.acceptWhere_deviceEffect _).form h
  | gcmdIreDisable => exact State.finishIreDisable_registerForm h
  | gcmdSirtp => exact State.finishSirtp_registerForm h eime
  | ccmdIcc => exact State.finishCcmd_registerForm h
  | iotlbIvt => exact State.finishIotlb_registerForm h
  | pmenEpmEnable => exact State.finishPmen_registerForm h true
  | pmenEpmDisable => exact State.finishPmen_registerForm h false
  | ecmdEnable k => exact State.ecmdRun_registerForm h 240 (enableCounter_registerForm h k.toNat)
  | ecmdDisable k => exact State.ecmdRun_registerForm h 241 (disableCounter_registerForm h k.toNat)
  | ecmdResetConfig =>
    exact State.ecmdRun_registerForm h 242 (State.mapCounters_registerForm h fun _ _ => id)
  | ecmdResetValues => exact State.ecmdRun_registerForm h 243 (resetValues_registerForm h)
  | ecmdFreeze => exact State.ecmdRun_registerForm h 244 ((s.freezeAll_deviceEffect true).form h)
  | ecmdUnfreeze => exact State.ecmdRun_registerForm h 245 ((s.freezeAll_deviceEffect false).form h)
  | ecmdReserved => exact State.ecmdRun_registerForm h 0 h
  | vcmdAllocate => exact State.finishVcmdAllocate_registerForm h
  | vcmdFree oa => exact State.finishVcmdFree_registerForm h oa
  | _ => exact h

theorem finishCmd_registerForm {s : State} (h : s.registerForm) {p : PendCmd}
    (eime : p.irt.eime = true → s.caps.eim = true) : (finishCmd p s).registerForm := by
  unfold finishCmd
  split
  · exact finishInstr_registerForm h eime _
  · exact h

/-- A submitted command carries IRTA_REG as it stands. -/
theorem State.submitAny_registerForm {s : State} (h : s.registerForm) (c : Submitted) : (s.submitAny c).registerForm := by
  refine iteInduction (fun _ => s.registerForm_pendCmds h fun p hp => ?_) fun _ => finishCmd_registerForm h h.irta_eime
  rcases List.mem_append.1 hp with hold | hnew
  · exact h.pendCmds_eime p hold
  · cases List.mem_singleton.1 hnew
    exact h.irta_eime

theorem State.writeEpm_registerForm {s : State} (h : s.registerForm) (v : Bool) (i : Instr) :
    (s.writeEpm v i).registerForm :=
  have hepm := State.registerForm_pmr (p := { s.pmr with epm := v }) h h.pmr_aligned
  iteInduction (fun _ => hepm) fun _ => State.submitAny_registerForm hepm (.instr i)

theorem State.submitEcmd_registerForm {s : State} (h : s.registerForm) (i : Instr) (cmd : BitVec 8) (oa : BitVec 48) :
    (s.submitEcmd i cmd oa).registerForm :=
  iteInduction (fun _ => h) fun _ => State.submitAny_registerForm (by exact h) (.instr i)

theorem State.submitVcmd_registerForm {s : State} (h : s.registerForm) (i : Instr) (cmd : BitVec 8) (oa : BitVec 48) :
    (s.submitVcmd i cmd oa).registerForm :=
  iteInduction (fun _ => State.submitAny_registerForm (s := s.vcmdBusy cmd oa) h (.instr i)) fun _ => h

theorem State.undefinedVirtual_registerForm {s : State} (h : s.registerForm) (cmd : BitVec 8) (oa : BitVec 48) :
    (s.undefinedVirtual cmd oa).registerForm :=
  iteInduction (fun _ => State.submitAny_registerForm (s := s.vcmdBusy cmd oa) h .reservedVirtual) fun _ => h

/-! ## Register writes -/

theorem State.statusCleared_deviceEffect (s : State) (e : EventName) : DeviceEffect s (s.statusCleared e) :=
  .ite (.refl s) (s.setIp_deviceEffect e false)

theorem State.setEvRegs_registerForm {s : State} (h : s.registerForm) (e : EventName) (r : EventRegs) :
    (s.setEvRegs e r).registerForm := by
  cases e <;> exact h

theorem State.writeIm_registerForm {s : State} (h : s.registerForm) (e : EventName) (im : Bool) :
    (s.writeIm e im).registerForm := by
  obtain ⟨r1, r2, r3, r4, m, b, o, heq⟩ := s.writeIm_frame e im
  rw [heq]
  exact h

theorem State.releaseEvent_registerForm {s : State} (h : s.registerForm) (e : EventName) :
    (s.releaseEvent e).registerForm := by
  obtain ⟨r1, r2, r3, r4, m, b, o, heq⟩ := s.releaseEvent_frame e
  rw [heq]
  exact h

theorem State.writeEvent_registerForm {s : State} (h : s.registerForm) (e : EventName) (k : Nat) (v : BitVec 32) :
    (s.writeEvent e k v).registerForm := by
  unfold State.writeEvent
  split
  · exact State.writeIm_registerForm h e _
  · exact State.setEvRegs_registerForm h e _
  · exact State.setEvRegs_registerForm h e _
  · exact iteInduction (fun _ => State.setEvRegs_registerForm h e _) fun _ => h

/-- ICE can be cleared, not set. -/
theorem State.writeFsts_registerForm {s : State} (h : s.registerForm) (v : BitVec 32) : (s.writeFsts v).registerForm :=
  (State.statusCleared_deviceEffect _ .fault).form
    (s.registerForm_fsts h fun hdt => by simp [h.ice_of_not_dt hdt])

theorem State.writeFrcd_registerForm {s : State} (h : s.registerForm) (n : Nat) (v : BitVec 32) :
    (s.writeFrcd n v).registerForm :=
  have hlen := List.length_modify (fun r : Frcd => { r with f := false }) s.frcd n
  iteInduction (fun _ => (State.statusCleared_deviceEffect _ .fault).form
    (s.registerForm_records h hlen (hlen.symm ▸ h.index_lt))) fun _ => h

theorem State.writeIcs_registerForm {s : State} (h : s.registerForm) (v : BitVec 32) : (s.writeIcs v).registerForm :=
  iteInduction (fun _ => (State.statusCleared_deviceEffect _ .inv).form (by exact h)) fun _ => h

theorem State.writePrs_registerForm {s : State} (h : s.registerForm) (v : BitVec 32) : (s.writePrs v).registerForm :=
  (State.statusCleared_deviceEffect _ .page).form (by exact h)

theorem State.writePis_registerForm {s : State} (h : s.registerForm) (v : BitVec 32) : (s.writePis v).registerForm :=
  iteInduction (fun _ => (State.statusCleared_deviceEffect _ .perf).form h) fun _ => h

theorem State.writeOverflow_registerForm {s : State} (h : s.registerForm) (first : Nat) (v : BitVec 32) :
    (s.writeOverflow first v).registerForm :=
  List.foldlRecOn _ _ h fun _ ht _ _ =>
    iteInduction (fun _ => State.mapCounter_registerForm ht fun _ => id) fun _ => ht

theorem writeCounterValue_fits (c : Caps) (k : Nat) (high : Bool) (v : BitVec 32) (p : PerfCounter)
    (h : c.fitsCounter k p) : c.fitsCounter k (writeCounterValue c k high v p) := by
  unfold writeCounterValue
  refine iteInduction (fun _ => h) fun _ => ?_
  exact ofNat_mod_two_pow_lt 64 _ _

theorem writePerfCounter_value (c : Caps) (rel : Nat) (v : BitVec 32) (p : PerfCounter) :
    (writePerfCounter c rel v p).value = p.value := by
  unfold writePerfCounter
  split
  · rfl
  · split <;> simp [apply_ite PerfCounter.value]

theorem State.writePerf_registerForm {s : State} (h : s.registerForm) (off : Nat) (v : BitVec 32) :
    (s.writePerf off v).registerForm := by
  unfold State.writePerf
  dsimp only
  split
  · exact State.writeOverflow_registerForm h _ v
  split
  · exact State.mapCounter_registerForm h fun p hp => writeCounterValue_fits _ _ _ v p hp
  · refine iteInduction (fun _ => State.mapCounter_registerForm h fun p hp => ?_) fun _ => h
    unfold Caps.fitsCounter
    rw [writePerfCounter_value]
    exact hp

theorem State.registerForm_of_writeMtrrs {s t : State} (h : s.registerForm) {off : Nat} {v : BitVec 32}
    (ht : s.writeMtrrs off v = some t) : t.registerForm := by
  unfold State.writeMtrrs at ht
  split at ht
  · cases ht
  split at ht
  · cases ht
    exact h
  · obtain ⟨k, -, rfl⟩ := Option.map_eq_some_iff.1 ht
    exact h

theorem State.writeIva_registerForm {s : State} (h : s.registerForm) (high : Bool) (v : BitVec 32) :
    (s.writeIva high v).registerForm := iteInduction (fun _ => h) fun _ => h

theorem State.writeLocated_registerForm {s : State} (h : s.registerForm) (off : Nat) (v : BitVec 32) :
    (s.writeLocated off v).registerForm := by
  unfold State.writeLocated
  dsimp only
  refine iteInduction (fun _ => State.writeIva_registerForm h false v) fun _ =>
    iteInduction (fun _ => State.writeIva_registerForm h true v) fun _ => iteInduction (fun _ => h) fun _ => ?_
  split
  · exact iteInduction (fun _ => State.writeFrcd_registerForm h _ v) fun _ => h
  split
  next ht => exact State.registerForm_of_writeMtrrs h ht
  next => exact iteInduction (fun _ => State.writePerf_registerForm h off v) fun _ => h

theorem clearLow_clearLow {w : Nat} (x : BitVec w) (n : Nat) : clearLow (clearLow x n) n = clearLow x n := by
  ext i hi
  by_cases hn : i < n
  · simp [clearLow, hn]
  · have hback : n + (i - n) < w := by omega
    simp [clearLow, hn, hback]

theorem clearLow_zero {w : Nat} (n : Nat) : clearLow (0 : BitVec w) n = 0 := by
  simp [clearLow]

theorem State.onlyIf_registerForm {s t : State} (h : s.registerForm) (ht : t.registerForm) (b : Bool) :
    (s.onlyIf b t).registerForm := iteInduction (fun _ => ht) fun _ => h

/-- The registers at fixed offsets: the form speaks of FSTS_REG, the protected ranges and IRTA_REG among them. -/
theorem State.writeFixedOffset_registerForm {s : State} (h : s.registerForm) (off : Nat) (v : BitVec 32) :
    (s.writeFixedOffset off v).registerForm := by
  have hevent : ∀ e k, (s.writeEvent e k v).registerForm := fun e k => State.writeEvent_registerForm h e k v
  obtain ⟨hpb, hpl, hhb, hhl⟩ := h.pmr_aligned
  have hpmr : ∀ {p : Pmr}, p.aligned s.plat → ∀ b, (s.onlyIf b { s with pmr := p }).registerForm := fun hp b =>
    State.onlyIf_registerForm h (s.registerForm_pmr h hp) b
  have hother : ∀ {t : State}, t.registerForm → ∀ b, (s.onlyIf b t).registerForm := State.onlyIf_registerForm h
  unfold State.writeFixedOffset
  dsimp only
  split
  case h_5 => exact State.writeFsts_registerForm h v
  case h_6 | h_7 | h_8 | h_9 | h_20 | h_21 | h_22 | h_23 | h_31 | h_32 | h_33 | h_34 | h_37 | h_38 | h_39 | h_40 =>
    exact hevent _ _
  case h_10 => exact hpmr (by exact ⟨clearLow_clearLow _ _, hpl, hhb, hhl⟩) _
  case h_11 => exact hpmr (by exact ⟨hpb, clearLow_clearLow _ _, hhb, hhl⟩) _
  case h_12 | h_13 => exact hpmr (by exact ⟨hpb, hpl, clearLow_clearLow _ _, hhl⟩) _
  case h_14 | h_15 => exact hpmr (by exact ⟨hpb, hpl, hhb, clearLow_clearLow _ _⟩) _
  case h_19 => exact State.writeIcs_registerForm h v
  case h_24 =>
    refine s.registerForm_irta h fun heime => ?_
    have hboth : (bitAt v 11 && s.caps.eim) = true := heime
    exact (Bool.and_eq_true_iff.1 hboth).2
  case h_25 => exact s.registerForm_irta h h.irta_eime
  case h_30 => exact State.writePrs_registerForm h v
  case h_36 => exact State.writePis_registerForm h v
  case h_41 | h_42 | h_43 | h_44 | h_45 | h_46 => exact hother (by exact h) _
  all_goals exact h

theorem State.writePlain_registerForm {s : State} (h : s.registerForm) (off : Nat) (v : BitVec 32) :
    (s.writePlain off v).registerForm :=
  iteInduction (fun _ => State.writeFixedOffset_registerForm h off v) fun _ => State.writeLocated_registerForm h off v

/-! ## Outcomes -/

/-- If the outcome has a next state, it satisfies `P`. -/
def nextSatisfies (P : State → Prop) (r : Result) : Prop := ∀ t, r = .next t → P t

theorem nextSatisfies_next {P : State → Prop} {t : State} (h : P t) : nextSatisfies P (.next t) := by
  rintro u ⟨⟩
  exact h

theorem nextSatisfies_refused (P : State → Prop) (e : Refusal) : nextSatisfies P (.refused e) := by
  rintro u ⟨⟩

theorem nextSatisfies_fault (P : State → Prop) (e : Fault) : nextSatisfies P (.fault e) := by
  rintro u ⟨⟩

theorem nextSatisfies_andThen {P Q : State → Prop} {r : Result} {f : State → Result} (hr : nextSatisfies P r)
    (hf : ∀ u, P u → nextSatisfies Q (f u)) : nextSatisfies Q (andThen r f) := by
  cases r with
  | next u => exact hf u (hr u rfl)
  | fault e => exact nextSatisfies_fault Q e
  | refused e => exact nextSatisfies_refused Q e

/-! ## Instructions -/

theorem execInvWaitDsc_registerForm {s : State} (h : s.registerForm) (iflag sw fn pd : Bool) (data : BitVec 32)
    (saddr : BitVec 62) : nextSatisfies State.registerForm (execInvWaitDsc iflag sw fn pd data saddr s) :=
  iteInduction (fun _ => nextSatisfies_refused _ _) fun _ =>
    nextSatisfies_next (State.runDsc_registerForm h 5 _ fun u hu => (u.pend_deviceEffect _).form hu)

/-- A command that only a unit with the function takes, with a field of the state set before it is submitted. -/
theorem supported_registerForm {s u : State} (h : s.registerForm) (hu : u.registerForm) (b : Bool) (i : Instr) :
    nextSatisfies State.registerForm (.next (if b then u.submit i else s)) :=
  nextSatisfies_next (iteInduction (fun _ => State.submitAny_registerForm hu (.instr i)) fun _ => h)

theorem exec_registerForm {s : State} (h : s.registerForm) (i : Instr) :
    nextSatisfies State.registerForm (exec i s) := by
  have hdevice : ∀ {i}, DeviceMessage i → nextSatisfies State.registerForm (exec i s) := fun hi _ ht =>
    (exec_deviceEffect hi ht).form h
  have hsubmit : ∀ {u : State}, u.registerForm → ∀ i, nextSatisfies State.registerForm (.next (u.submit i)) :=
    fun hu i => nextSatisfies_next (State.submitAny_registerForm hu (.instr i))
  have hecmd : ∀ i c oa, nextSatisfies State.registerForm (.next (s.submitEcmd i c oa)) := fun i c oa =>
    nextSatisfies_next (State.submitEcmd_registerForm h i c oa)
  have hvcmd : ∀ i c oa, nextSatisfies State.registerForm (.next (s.submitVcmd i c oa)) := fun i c oa =>
    nextSatisfies_next (State.submitVcmd_registerForm h i c oa)
  cases i with
  | ccInvDsc =>
    exact nextSatisfies_next (State.runDsc_registerForm h 1 _ fun u hu => u.implicitFlush_deviceEffect.form hu)
  | iotlbInvDsc =>
    exact nextSatisfies_next (State.runDsc_registerForm h 2 _ fun u hu =>
      (State.drainWhere_deviceEffect _ _).form (u.implicitFlush_deviceEffect.form hu))
  | devTlbInvDsc =>
    exact nextSatisfies_next (State.runDsc_registerForm h 3 _ fun u hu => (u.pend_deviceEffect _).form hu)
  | iecInvDsc =>
    exact nextSatisfies_next (State.runDsc_registerForm h 4 _ fun u hu =>
      (State.acceptWhere_deviceEffect _ _).form (u.implicitFlush_deviceEffect.form hu))
  | invWaitDsc => exact execInvWaitDsc_registerForm h _ _ _ _ _ _
  | pIotlbInvDsc =>
    exact nextSatisfies_next (State.runDsc_registerForm h 6 _ fun u hu =>
      (State.drainWhere_deviceEffect _ _).form
        ((State.invalidatePGrade_deviceEffect _ _ _ _ _ _ _).form (u.implicitFlush_deviceEffect.form hu)))
  | pcInvDsc =>
    exact nextSatisfies_next (State.runDsc_registerForm h 7 _ fun u hu => u.implicitFlush_deviceEffect.form hu)
  | pDevTlbInvDsc =>
    exact nextSatisfies_next (State.runDsc_registerForm h 8 _ fun u hu => (u.pend_deviceEffect _).form hu)
  | pageGrpRespDsc =>
    exact nextSatisfies_next (State.runDsc_registerForm h 9 _ fun u hu => (u.pend_deviceEffect _).form hu)
  | pageReqDsc m => exact nextSatisfies_next ((s.writePrq_deviceEffect m).form h)
  | gcmdTeEnable => exact hsubmit h _
  | gcmdTeDisable => exact hsubmit h _
  | gcmdSrtp => exact iteInduction (fun _ => nextSatisfies_refused _ _) fun _ => hsubmit (by exact h) _
  | gcmdWbf => exact supported_registerForm h (by exact h) _ _
  | gcmdQieEnable => exact supported_registerForm h h _ _
  | gcmdQieDisable => exact supported_registerForm h h _ _
  | gcmdIreEnable => exact supported_registerForm h h _ _
  | gcmdIreDisable => exact supported_registerForm h h _ _
  | gcmdSirtp => exact supported_registerForm h (by exact h) _ _
  | gcmdCfiSet => exact supported_registerForm h h _ _
  | gcmdCfiClear => exact supported_registerForm h h _ _
  | ccmdIcc => exact hsubmit (by exact h) _
  | iotlbIvt => exact hsubmit (by exact h) _
  | pmenEpmEnable =>
    exact nextSatisfies_next (iteInduction (fun _ => State.writeEpm_registerForm h true _) fun _ => h)
  | pmenEpmDisable =>
    exact nextSatisfies_next (iteInduction (fun _ => State.writeEpm_registerForm h false _) fun _ => h)
  | ecmdEnable => exact hecmd _ _ _
  | ecmdDisable => exact hecmd _ _ _
  | ecmdResetConfig => exact hecmd _ _ _
  | ecmdResetValues => exact hecmd _ _ _
  | ecmdFreeze => exact hecmd _ _ _
  | ecmdUnfreeze => exact hecmd _ _ _
  | ecmdReserved => exact hecmd _ _ _
  | vcmdNull => exact hvcmd _ _ _
  | vcmdAllocate => exact hvcmd _ _ _
  | vcmdFree => exact hvcmd _ _ _
  | untranslatedRequest r => exact hdevice (.untranslated r)
  | translationRequest r => exact hdevice (.translation r)
  | translatedRequest r => exact hdevice (.translated r)
  | interruptRequest sid addr data => exact hdevice (.interrupt sid addr data)
  | pageRequest m => exact hdevice (.page m)
  | invalidationCompletion sid vec cc => exact hdevice (.completion sid vec cc)

theorem runAll_registerForm {s : State} (h : s.registerForm) (is : List Instr) :
    nextSatisfies State.registerForm (runAll is s) := by
  induction is generalizing s with
  | nil => exact nextSatisfies_next h
  | cons i rest ih => exact nextSatisfies_andThen (exec_registerForm h i) fun _ => ih

theorem runWord_registerForm {s : State} (h : s.registerForm) (raw : Raw) :
    nextSatisfies State.registerForm (runWord raw s) := by
  unfold runWord
  split
  · exact runAll_registerForm h _
  · exact nextSatisfies_next (State.undefinedVirtual_registerForm h _ _)
  · exact nextSatisfies_next h

/-! ## The agents around the unit -/

theorem State.softWrite4_registerForm {s : State} (h : s.registerForm) (off : Nat) (v : BitVec 32) :
    nextSatisfies State.registerForm (s.softWrite4 off v) := by
  unfold State.softWrite4
  split
  · exact nextSatisfies_refused _ _
  split
  · exact runWord_registerForm h _
  · exact nextSatisfies_next (State.writePlain_registerForm h off v)

theorem State.softWrite_registerForm {s : State} (h : s.registerForm) (off width : Nat) (v : BitVec 64) :
    nextSatisfies State.registerForm (s.softWrite off width v) := by
  have hboth : ∀ a b x y, nextSatisfies State.registerForm (andThen (s.softWrite4 a x) (fun t => t.softWrite4 b y)) :=
    fun a b x y => nextSatisfies_andThen (State.softWrite4_registerForm h a x) fun _ hu =>
      State.softWrite4_registerForm hu b y
  unfold State.softWrite
  refine iteInduction (fun _ => nextSatisfies_refused _ _) fun _ => iteInduction (fun _ => nextSatisfies_next h) fun _ => ?_
  exact iteInduction (fun _ => State.softWrite4_registerForm h off _) fun _ =>
    iteInduction (fun _ => hboth _ _ _ _) fun _ => hboth _ _ _ _

theorem State.softRead_registerForm {s : State} (h : s.registerForm) (off width : Nat) :
    nextSatisfies State.registerForm (s.softRead off width) :=
  iteInduction (fun _ => nextSatisfies_next h) fun _ => nextSatisfies_refused _ _

theorem State.softStore_registerForm {s : State} (h : s.registerForm) (a : Nat) (bs : List Byte) :
    (s.softStore a bs).registerForm := iteInduction (fun _ => h) fun _ => h

theorem State.memStore_registerForm {s : State} (h : s.registerForm) (a : Nat) (bs : List Byte) :
    nextSatisfies State.registerForm (s.memStore a bs) :=
  iteInduction (fun _ => State.softWrite_registerForm h _ _ _) fun _ =>
    iteInduction (fun _ => nextSatisfies_next (State.softStore_registerForm h a bs)) fun _ => nextSatisfies_fault _ _

theorem State.memLoad_registerForm {s : State} (h : s.registerForm) (a n : Nat) :
    nextSatisfies State.registerForm (s.memLoad a n) :=
  iteInduction (fun _ => State.softRead_registerForm h _ n) fun _ => nextSatisfies_next h

theorem State.iqTurn_registerForm {s : State} (h : s.registerForm) : nextSatisfies State.registerForm s.iqTurn := by
  have hnote : s.advance.noteFetch.registerForm :=
    (s.advance_deviceEffect.trans s.advance.noteFetch_deviceEffect).form h
  unfold State.iqTurn
  dsimp only
  split
  · exact nextSatisfies_next hnote
  · exact nextSatisfies_next (State.raiseIqe_registerForm hnote _)
  · exact exec_registerForm hnote _

theorem runPiece_registerForm {s : State} (h : s.registerForm) (atf : BitVec 2) (r : MemReq) :
    nextSatisfies State.registerForm (runPiece atf s r) := by
  unfold runPiece
  split
  · exact exec_registerForm h _
  · exact nextSatisfies_next ((s.turnAway_deviceEffect r).form h)

theorem runPieces_registerForm {s : State} (h : s.registerForm) (atf : BitVec 2) (l : List MemReq) :
    nextSatisfies State.registerForm (runPieces atf l s) := by
  induction l generalizing s with
  | nil => exact nextSatisfies_next h
  | cons r rest ih => exact nextSatisfies_andThen (runPiece_registerForm h atf r) fun _ => ih

theorem State.inboundMem_registerForm {s : State} (h : s.registerForm) (atf : BitVec 2) (r : MemReq) :
    nextSatisfies State.registerForm (s.inboundMem atf r) := by
  have hcount := (s.countRequest_deviceEffect r.sid (reqPasid r) atf.toNat).form h
  have haway := (s.turnAway_deviceEffect r).form h
  unfold State.inboundMem
  refine iteInduction (fun _ => nextSatisfies_next hcount) fun _ => ?_
  split
  · exact exec_registerForm h _
  · exact nextSatisfies_next hcount
  · exact iteInduction (fun _ => nextSatisfies_next haway) fun _ =>
      iteInduction (fun _ => exec_registerForm h _) fun _ => runPieces_registerForm h atf _
  · exact nextSatisfies_next haway
  · exact nextSatisfies_next ((State.turnAway_deviceEffect _ r).form hcount)

theorem State.inbound_registerForm {s : State} (h : s.registerForm) (raw : Raw) :
    nextSatisfies State.registerForm (s.inbound raw) := by
  cases raw with
  | mem atf r => exact State.inboundMem_registerForm h atf r
  | page m => exact runWord_registerForm h (.page m)
  | completion sid vec cc => exact runWord_registerForm h (.completion sid vec cc)
  | _ => exact nextSatisfies_next h

theorem State.completeOldest_registerForm {s : State} (h : s.registerForm) :
    nextSatisfies State.registerForm s.completeOldest := by
  unfold State.completeOldest
  split
  · exact nextSatisfies_next h
  next p rest heq =>
    have hrest : ({ s with pendCmds := rest } : State).registerForm :=
      s.registerForm_pendCmds h fun q hq => h.pendCmds_eime q (heq ▸ List.mem_cons_of_mem p hq)
    have hp : p.irt.eime = true → s.caps.eim = true := h.pendCmds_eime p (heq ▸ List.mem_cons_self)
    exact iteInduction (fun _ => nextSatisfies_refused _ _) fun _ => nextSatisfies_next (finishCmd_registerForm hrest hp)

theorem State.drainStore_registerForm {s : State} (h : s.registerForm) : s.drainStore.registerForm := by
  obtain ⟨m, b, heq⟩ := s.drainStore_frame
  rw [heq]
  exact h

theorem State.perfPulse_deviceEffect (s : State) (g e n : Nat) : DeviceEffect s (s.perfPulse g e n) :=
  .ite (s.count_deviceEffect _) (.refl s)

theorem State.releaseAll_registerForm {s : State} (h : s.registerForm) : s.releaseAll.registerForm :=
  State.releaseEvent_registerForm (State.releaseEvent_registerForm (State.releaseEvent_registerForm
    (State.releaseEvent_registerForm h .fault) .inv) .page) .perf

theorem State.resetUnit_registerForm {s : State} (h : s.registerForm) (p : Bool) : (s.resetUnit p).registerForm := by
  obtain ⟨⟨hlen, hidx, hcnt⟩, hiq, hice, -⟩ := h
  have hlen' : (s.resetUnit p).frcd.length = s.frcd.length := by
    cases p with
    | true => exact List.length_replicate
    | false => rfl
  have hidx' : 0 < (s.resetUnit p).frcd.length := hlen'.symm ▸ Nat.zero_lt_of_lt hidx
  have hcnt' : (s.resetUnit p).perf.counters.length = s.caps.ncntr := List.length_replicate.trans hcnt
  have hiq' : s.plat.iqercd = false → (s.resetUnit p).iqercd = { icesid := 0, itesid := 0, iqei := 0 } := by
    cases p with
    | true => exact fun _ => rfl
    | false => exact hiq
  have hice' : s.caps.dt = false → (s.resetUnit p).fsts.ice = false := by
    cases p with
    | true => exact fun _ => rfl
    | false => exact hice
  refine ⟨⟨hlen'.trans hlen, hidx', hcnt'⟩, hiq', hice', fun heime => absurd heime Bool.false_ne_true,
    fun heime => absurd heime Bool.false_ne_true, fun q hq => absurd hq List.not_mem_nil,
    clearLow_zero _, clearLow_zero _, clearLow_zero _, clearLow_zero _, fun k x hx => ?_⟩
  obtain rfl : x = PerfCounter.reset := List.eq_of_mem_replicate (List.mem_of_getElem? hx)
  exact Nat.two_pow_pos _

/-- Every event of the environment, a reset included. -/
theorem State.process_registerForm {s : State} (h : s.registerForm) (e : Event) :
    nextSatisfies State.registerForm (s.process e) := by
  cases e with
  | softWrite off width v => exact State.softWrite_registerForm h off width v
  | softRead off width => exact State.softRead_registerForm h off width
  | softLocked => exact nextSatisfies_refused _ _
  | memStore a bs => exact State.memStore_registerForm h a bs
  | memLoad a n => exact State.memLoad_registerForm h a n
  | iqTurn => exact State.iqTurn_registerForm h
  | device raw => exact State.inbound_registerForm h raw
  | prqWrite w => exact runWord_registerForm h (.prqDsc w)
  | devTlbTimeout k => exact nextSatisfies_next (State.devTlbTimeout_registerForm h k)
  | complete => exact State.completeOldest_registerForm h
  | commit n => exact nextSatisfies_next ((s.commitNth_deviceEffect n).form h)
  | accept n => exact nextSatisfies_next ((s.acceptNth_deviceEffect n).form h)
  | evict c n => exact nextSatisfies_next (by cases c <;> exact h)
  | drainStore => exact nextSatisfies_next (State.drainStore_registerForm h)
  | readCompletion sid => exact nextSatisfies_next ((s.acceptWhere_deviceEffect _).form h)
  | release => exact nextSatisfies_next (State.releaseAll_registerForm h)
  | perfPulse g e n => exact nextSatisfies_next ((s.perfPulse_deviceEffect g e n).form h)
  | reset p => exact nextSatisfies_next (State.resetUnit_registerForm h p)

theorem step_registerForm {s : State} (h : s.registerForm) : nextSatisfies State.registerForm (step s) := by
  unfold step
  split
  · exact State.iqTurn_registerForm (by exact h)
  · exact State.process_registerForm (by exact h) _

/-- Settles O7: each event keeps the form, a message of a device by `DeviceEffect`, a register write or command by the rule for
the register. -/
theorem stepKeepsRegisterForm : Obligations.StepKeepsRegisterForm := fun _ t hrec hres hstep =>
  step_registerForm ⟨hrec, hres⟩ t hstep

end Sys2Proof.Machine
end

section
/-! O57: software's accesses to the registers that are no command, and the memory type the MTRRs give. A write is reduced, once for
each width, to the doublewords it stores (`State.softWrite_dword`, `State.softWrite_quadword`) and a doubleword to its register; then
each register has its own rule. -/

namespace Sys2Proof

/-! ## Fields and flags -/

/-- A field of a field. -/
theorem field_field {w : Nat} (x : BitVec w) (a m lo n : Nat) (h : lo + n ≤ m) :
    field (field x a m) lo n = field x (a + lo) n := by
  ext i hi
  have hm : lo + i < m := by omega
  simp [field, BitVec.getElem_extractLsb', hm, Nat.add_assoc]

/-- A bit of a field. -/
theorem bitAt_field {w : Nat} (x : BitVec w) (lo n i : Nat) (h : i < n) : bitAt (field x lo n) i = bitAt x (lo + i) := by
  rw [bitAt, getLsbD_field, decide_eq_true h, Bool.true_and, bitAt]

/-- A flag is set at its own bit only. -/
theorem bitAt_flag {w i : Nat} (hi : i < w) (b : Bool) (k : Nat) : bitAt (flag w b i) k = (decide (k = i) && b) := by
  unfold bitAt flag put
  rw [BitVec.getLsbD_shiftLeft, BitVec.getLsbD_setWidth, BitVec.getLsbD_ofBool]
  obtain hk | rfl | hk := Nat.lt_trichotomy k i
  · simp [hk, Nat.ne_of_lt hk]
  · have hw : 0 < w := by omega
    simp [hi, hw]
  · simp [Nat.sub_ne_zero_of_lt hk, Nat.ne_of_gt hk]

theorem bitAt_or {w : Nat} (x y : BitVec w) (k : Nat) : bitAt (x ||| y) k = (bitAt x k || bitAt y k) :=
  BitVec.getLsbD_or

/-- A value placed at bit `lo` leaves the bits below 0. -/
theorem bitAt_put_below (w : Nat) {n : Nat} (x : BitVec n) (lo k : Nat) (h : k < lo) : bitAt (put w x lo) k = false := by
  simp [bitAt, put, h]

end Sys2Proof

namespace Sys2Proof.Machine

theorem bitAt_loWord (x : BitVec 64) {i : Nat} (h : i < 32) : bitAt (loWord x) i = bitAt x i := by
  rw [loWord, bitAt_field x 0 32 i h, Nat.zero_add]

theorem field_loWord (x : BitVec 64) {lo n : Nat} (h : lo + n ≤ 32) : field (loWord x) lo n = field x lo n := by
  rw [loWord, field_field x 0 32 lo n h, Nat.zero_add]

/-- A page-number field written by both doublewords of a quadword, the low one first. -/
theorem setPageHi_setPageLo (p : BitVec 52) (x : BitVec 64) :
    setPageHi (setPageLo p (loWord x)) (hiWord x) = field x 12 52 := by
  unfold setPageHi setPageLo
  rw [field_append_low _ _ 0 20 (by decide), field_all, field_loWord x (by decide)]
  refine eq_of_fields (k := 20) _ _ ?_ ?_
  · rw [field_append_low _ _ 0 20 (by decide), field_all, field_field x 12 52 0 20 (by decide)]
  · rw [field_append_high _ _ 20 32 (by decide), field_all, field_field x 12 52 20 32 (by decide), hiWord]

/-- Each bit of GSTS_REG (11 R210); the others read 0. -/
theorem bitAt_gstsWord (g : Gsts) (k : Nat) :
    bitAt (gstsWord g) k =
      (decide (k = 31) && g.tes || decide (k = 30) && g.rtps || decide (k = 27) && g.wbfs || decide (k = 26) && g.qies ||
        decide (k = 25) && g.ires || decide (k = 24) && g.irtps || decide (k = 23) && g.cfis) := by
  simp only [gstsWord, bitAt_or, bitAt_flag, Nat.reduceLT]

/-- PPF stands at bit 1 of FSTS_REG (11 R250). -/
theorem bitAt_fstsWord_ppf (s : State) : bitAt (fstsWord s) 1 = s.ppf := by
  simp [fstsWord, bitAt_or, bitAt_flag, bitAt_put_below]

/-- The element of an array that a register stands for. -/
theorem slotAt_add_mul (base n : Nat) {stride k : Nat} (hstride : 0 < stride) (hk : k < n) :
    slotAt base stride n (base + stride * k) = some k := by
  simp [slotAt, hstride, hk]

/-! ## The doublewords of a write -/

/-- The doubleword at `off` is written as plain data: it holds no command, and IVA_REG and IOTLB_REG are not busy if it is part of
them (41 R998, 93 U25). -/
structure State.plainAt (s : State) (off : Nat) : Prop where
  noCommand : off ∉ [0x18, 0x28, 0x2C, 0x64, 0x400, 0xE00]
  noIvt : off ≠ 16 * s.caps.iro + 12
  idle : 16 * s.caps.iro ≤ off → off < 16 * s.caps.iro + 16 → s.iotlbReg.ivt = false

theorem writeRefusal_of_plainAt {s : State} {off : Nat} (h : s.plainAt off) (v : BitVec 32) :
    writeRefusal s off v = none := by
  obtain ⟨hcmd, hivt, hidle⟩ := h
  simp only [List.mem_cons, List.not_mem_nil, or_false, not_or] at hcmd
  obtain ⟨h18, h28, h2C, -, -, -⟩ := hcmd
  have hbusy : (decide (16 * s.caps.iro ≤ off) && decide (off < 16 * s.caps.iro + 16) && s.iotlbReg.ivt) = false := by
    simpa using hidle
  simp [writeRefusal, h18, h28, h2C, hivt, hbusy]

theorem commandWord_of_plainAt {s : State} {off : Nat} (h : s.plainAt off) (v : BitVec 32) :
    commandWord s off v = none := by
  obtain ⟨hcmd, hivt, -⟩ := h
  unfold commandWord
  split
  case h_6 => simp [hivt]
  all_goals simp at hcmd

theorem State.softWrite4_of_plainAt {s : State} {off : Nat} (h : s.plainAt off) (v : BitVec 32) :
    s.softWrite4 off v = .next (s.writePlain off v) := by
  rw [State.softWrite4, writeRefusal_of_plainAt h, commandWord_of_plainAt h]

/-- A doubleword write (10 R113). -/
theorem State.softWrite_dword {s : State} {off : Nat} (halign : off % 4 = 0) (hin : off < s.plat.regBytes)
    (h : s.plainAt off) (v : BitVec 64) : s.softWrite off 4 v = .next (s.writePlain off (loWord v)) := by
  rw [← State.softWrite4_of_plainAt h]
  simp [State.softWrite, accessOk, halign, Nat.not_le.2 hin]

/-- A quadword write stores its low doubleword, then its high one (10 R113). -/
theorem State.softWrite_quadword {s t : State} {off : Nat} {v : BitVec 64} (halign : off % 8 = 0)
    (hin : off < s.plat.regBytes) (hlo : s.plainAt off) (ht : s.writePlain off (loWord v) = t) (hhi : t.plainAt (off + 4)) :
    s.softWrite off 8 v = .next (t.writePlain (off + 4) (hiWord v)) := by
  have hcmd := hlo.noCommand
  simp only [List.mem_cons, List.not_mem_nil, or_false, not_or] at hcmd
  obtain ⟨-, -, -, -, h400, hE00⟩ := hcmd
  simp [State.softWrite, accessOk, halign, Nat.not_le.2 hin, h400, hE00, State.softWrite4_of_plainAt hlo, andThen, ht,
    State.softWrite4_of_plainAt hhi]

theorem State.writePlain_fixed {s : State} {off : Nat} (h : fixedAt s (off / 8 * 8) = true) (v : BitVec 32) :
    s.writePlain off v = s.writeFixedOffset off v := if_pos h

theorem State.writePlain_located {s : State} {off : Nat} (h : fixedAt s (off / 8 * 8) = false) (v : BitVec 32) :
    s.writePlain off v = s.writeLocated off v := if_neg (by simp [h])

/-- The registers fill whole pages, so what stands at an offset below 4096 exists (10 R111). -/
theorem Platform.lt_regBytes {p : Platform} (h : 0 < p.regPages) {off : Nat} (hoff : off < 4096) : off < p.regBytes := by
  unfold Platform.regBytes
  omega

/-- The step takes the next event of the environment (10 R101). -/
theorem step_of_nextEvent {s u : State} {e : Event} {c : Choice} (h : s.nextEvent e c u) : step s = u.process e := by
  obtain ⟨rest, hin, rfl⟩ := h
  rw [step, hin]

/-! ## FSTS_REG and the fault records -/

/-- Software has cleared status of the fault event: IP drops once none is left (60 R1402). -/
theorem State.statusCleared_fault (s : State) :
    s.statusCleared .fault =
      { s with faultEv := if s.faultStatusAny = true then s.faultEv else { s.faultEv with ip := false } } := by
  unfold State.statusCleared
  rw [State.evStatus_fault]
  split <;> rfl

/-- Clearing status of the fault event moves IP alone, by the status that is left. -/
theorem State.statusCleared_fault_moves_ip (s : State) {t : State} (ht : t = s.statusCleared .fault) :
    t = { s with faultEv := t.faultEv } ∧
      t.faultEv = if t.faultStatusAny = true then s.faultEv else { s.faultEv with ip := false } := by
  subst ht
  rw [State.statusCleared_fault]
  exact ⟨rfl, rfl⟩

theorem State.softWrite_fsts {s : State} (hpages : 0 < s.plat.regPages) (hivt : s.iotlbReg.ivt = false) (v : BitVec 64) :
    s.softWrite 0x34 4 v = .next (s.writeFsts (loWord v)) := by
  have hplain : s.plainAt 0x34 := ⟨by decide, by omega, fun _ _ => hivt⟩
  rw [State.softWrite_dword rfl (Platform.lt_regBytes hpages (by decide)) hplain, State.writePlain_fixed rfl]
  rfl

/-- The fault recording registers at their reported offset (10 R118): F stands in the last doubleword of its record. -/
theorem State.writeLocated_frcd {s : State} {n : Nat} (hn : n < s.frcd.length) (hiro : s.caps.iro ≠ s.caps.fro + n)
    (v : BitVec 32) : s.writeLocated (16 * s.caps.fro + 16 * n + 12) v = s.writeFrcd n v := by
  have hslot : slotAt (16 * s.caps.fro) 4 (4 * s.frcd.length) (16 * s.caps.fro + 16 * n + 12) = some (4 * n + 3) := by
    have hat := slotAt_add_mul (16 * s.caps.fro) (4 * s.frcd.length) (stride := 4) (k := 4 * n + 3) (by decide) (by omega)
    rwa [show 16 * s.caps.fro + 4 * (4 * n + 3) = 16 * s.caps.fro + 16 * n + 12 by omega] at hat
  have hiva : 16 * s.caps.fro + 16 * n + 12 ≠ 16 * s.caps.iro := by omega
  have hivaHigh : 16 * s.caps.fro + 16 * n + 12 ≠ 16 * s.caps.iro + 4 := by omega
  have hiotlb : 16 * s.caps.fro + 16 * n + 12 ≠ 16 * s.caps.iro + 12 := by omega
  have hlast : (4 * n + 3) % 4 = 3 := by omega
  have hrecord : (4 * n + 3) / 4 = n := by omega
  simp only [State.writeLocated, beq_iff_eq, hiva, hivaHigh, hiotlb, if_false, hslot, hlast, hrecord, if_true]

theorem State.softWrite_frcd {s : State} {n off : Nat} (hoff : off = 16 * s.caps.fro + 16 * n + 12)
    (hn : n < s.frcd.length) (hin : off < s.plat.regBytes) (hfixed : fixedAt s (off - 4) = false)
    (hiro : s.caps.iro ≠ s.caps.fro + n) (v : BitVec 64) : s.softWrite off 4 v = .next (s.writeFrcd n (loWord v)) := by
  have h2C : off ≠ 0x2C := by
    rintro rfl
    exact Bool.noConfusion hfixed
  have hplain : s.plainAt off := by
    refine ⟨?_, by omega, fun _ _ => by omega⟩
    simp only [List.mem_cons, List.not_mem_nil, or_false]
    omega
  have hquad : off / 8 * 8 = off - 4 := by omega
  rw [State.softWrite_dword (by omega) hin hplain, State.writePlain_located (by rwa [hquad]), hoff,
    State.writeLocated_frcd hn hiro]

/-- The records once F of record `n` is cleared. -/
theorem getElem?_clearF {l : List Frcd} {n k : Nat} {x : Frcd} :
    (l.modify n (fun r => { r with f := false }))[k]? = some x ↔
      ∃ y, l[k]? = some y ∧ x = (if k = n then { y with f := false } else y) := by
  simp only [List.getElem?_modify, Option.map_eq_map, Option.map_eq_some_iff, eq_comm (a := n), eq_comm (b := x)]

/-- PPF is the OR of the F bits (60 R1370). -/
theorem State.ppf_iff (s : State) : s.ppf = true ↔ ∃ (k : Nat) (x : Frcd), s.frcd[k]? = some x ∧ x.f = true := by
  simp only [State.ppf, List.any_eq_true, List.mem_iff_getElem?]
  exact ⟨fun ⟨x, ⟨k, hk⟩, hf⟩ => ⟨k, x, hk, hf⟩, fun ⟨k, x, hk, hf⟩ => ⟨x, ⟨k, hk⟩, hf⟩⟩

/-- PPF reads the records that are left once F of record `n` is cleared. -/
theorem State.ppf_clearF_iff {s t : State} {n : Nat} (ht : t.frcd = s.frcd.modify n (fun r => { r with f := false })) :
    t.ppf = true ↔ ∃ (k : Nat) (x : Frcd), k ≠ n ∧ s.frcd[k]? = some x ∧ x.f = true := by
  simp only [State.ppf_iff, ht, getElem?_clearF]
  constructor
  · rintro ⟨k, x, ⟨y, hy, rfl⟩, hf⟩
    by_cases hk : k = n
    · simp [hk] at hf
    · exact ⟨k, y, hk, hy, by simpa [hk] using hf⟩
  · rintro ⟨k, x, hk, hx, hf⟩
    exact ⟨k, x, ⟨x, hx, (if_neg hk).symm⟩, hf⟩

/-! ## RTADDR_REG and MTRRDEF_REG -/

/-- Both doublewords of RTADDR_REG, the low one first: a plain store (11 R220). -/
theorem State.softWrite_rtaddr {s : State} (hpages : 0 < s.plat.regPages) (hivt : s.iotlbReg.ivt = false)
    (v : BitVec 64) :
    s.softWrite 0x20 8 v = .next { s with rtaddr := { rta := field v 12 52, ttm := field v 10 2 } } := by
  have hlo : s.plainAt 0x20 := ⟨by decide, by omega, fun _ _ => hivt⟩
  have hfirst : s.writePlain 0x20 (loWord v) =
      { s with rtaddr := { rta := setPageLo s.rtaddr.rta (loWord v), ttm := field (loWord v) 10 2 } } :=
    State.writePlain_fixed rfl _
  rw [State.softWrite_quadword rfl (Platform.lt_regBytes hpages (by decide)) hlo hfirst
      ⟨by decide, by dsimp only; omega, fun _ _ => hivt⟩, State.writePlain_fixed rfl, ← setPageHi_setPageLo s.rtaddr.rta v,
    ← field_loWord v (by decide)]
  rfl

/-- MTRRDEF_REG once software has written `v` to it (12 R401). -/
def State.withMtrrDef (s : State) (v : BitVec 64) : State :=
  { s with mtrr := { s.mtrr with e := bitAt v 11, fe := bitAt v 10, type := field v 0 8 } }

/-- The high doubleword of MTRRDEF_REG is reserved: writing it changes nothing (12 R401). -/
theorem State.softWrite_mtrrDef {s : State} (hpages : 0 < s.plat.regPages) (hmts : s.caps.mts = true)
    (hivt : s.iotlbReg.ivt = false) (hiro : s.caps.iro ≠ 16) (v : BitVec 64) :
    s.softWrite 0x108 8 v = .next (s.withMtrrDef v) := by
  have hlo : s.plainAt 0x108 := ⟨by decide, by omega, fun _ _ => hivt⟩
  have hfirst : s.writePlain 0x108 (loWord v) = s.withMtrrDef v := by
    rw [State.writePlain_fixed (off := 0x108) hmts, State.withMtrrDef, ← bitAt_loWord v (by decide : 11 < 32),
      ← bitAt_loWord v (by decide : 10 < 32), ← field_loWord v (by decide : 0 + 8 ≤ 32)]
    rfl
  have hhi : (s.withMtrrDef v).plainAt 0x10C :=
    ⟨by decide, by change 0x10C ≠ 16 * s.caps.iro + 12; omega, fun _ _ => hivt⟩
  have hsecond : (s.withMtrrDef v).writePlain 0x10C (hiWord v) = s.withMtrrDef v :=
    State.writePlain_fixed (s := s.withMtrrDef v) (off := 0x10C) hmts _
  exact (State.softWrite_quadword rfl (Platform.lt_regBytes hpages (by decide)) hlo hfirst hhi).trans
    (congrArg _ hsecond)

/-! ## Reading -/

/-- A read adds its value to the trace and changes nothing else (41 R999). -/
theorem State.softRead_of_accessOk {s : State} {off width : Nat} (h : accessOk off width = true) :
    s.softRead off width =
      .next { s with out := .regRead off width (regValue s off width) :: s.out, freeCtr := s.freeCtr + 1 } :=
  if_pos h

/-- GSTS_REG reads as its status bits (11 R210). -/
theorem regValue_gsts {s : State} (hpages : 0 < s.plat.regPages) : regValue s 0x1C 4 = (gstsWord s.gsts).setWidth 64 := by
  have hword : hiWord (regWindow s 0x18 (Config.freeRead s.freeCtr)) = gstsWord s.gsts :=
    (field_append_high _ _ 32 32 (by decide)).trans (field_all _)
  rw [regValue, if_neg (Nat.not_le.2 (Platform.lt_regBytes hpages (by decide)))]
  exact congrArg (BitVec.setWidth 64) hword

theorem bitAt_regValue_gsts {s : State} (hpages : 0 < s.plat.regPages) {k : Nat} (hk : k < 64) :
    bitAt (regValue s 0x1C 4) k = bitAt (gstsWord s.gsts) k := by
  rw [regValue_gsts hpages]
  simp [bitAt, hk]

/-! ## The memory type the MTRRs give (22 R772) -/

/-- The memory types of the variable-range pairs that match an address, in the order of the pairs. -/
def matchedTypes (s : State) (pa : Addr) : List MemType :=
  ((mtrrPairs s).filter
    (fun v => v.valid && pageAddr v.mask &&& pa == pageAddr v.mask &&& pageAddr v.base)).map (fun v => mtrrField s v.type)

theorem mem_matchedTypes {s : State} {pa : Addr} {x : MemType} :
    x ∈ matchedTypes s pa ↔ ∃ m ∈ s.mtrr.var.take s.caps.vcnt, m.covers pa ∧ mtrrField s m.type = x := by
  simp [matchedTypes, mtrrPairs, MtrrVar.covers, and_assoc]

/-- The type of an address from the types of the pairs that match it: the default type, the one type of them all, or what an
overlap of several gives (12 R404). -/
def overlapType (s : State) (ts : List MemType) : MemType :=
  match ts with
  | [] => mtrrField s s.mtrr.type
  | t :: rest =>
    if rest.all (· == t) then t
    else if ts.contains .uc then .uc
    else if ts.all (fun x => x == .wt || x == .wb) then .wt
    else memTypeOf (Config.freeMemType s.freeCtr)

theorem mtrrType_of_off {s : State} (h : s.mtrr.e = false) (pa : Addr) : mtrrType s pa = .uc := by
  rw [mtrrType, h]
  rfl

/-- Where the fixed ranges say nothing, the variable ranges do. -/
theorem mtrrType_of_variable {s : State} {pa : Addr} (he : s.mtrr.e = true)
    (hfixed : 0x100000 ≤ pa.toNat ∨ s.mtrr.fe = false) : mtrrType s pa = overlapType s (matchedTypes s pa) := by
  have hnot : (decide (pa.toNat < 0x100000) && s.mtrr.fe && bitAt s.caps.mtrrcap 8) = false := by
    rcases hfixed with hpa | hfe
    · simp [Nat.not_lt.2 hpa]
    · simp [hfe]
  unfold mtrrType
  rw [he, hnot]
  rfl

/-- Pairs of one type agree on it. -/
theorem overlapType_of_forall_eq {s : State} {ts : List MemType} {t : MemType} (ht : t ∈ ts) (h : ∀ x ∈ ts, x = t) :
    overlapType s ts = t := by
  match ts with
  | a :: rest =>
    obtain rfl : a = t := h a List.mem_cons_self
    have hall : rest.all (· == a) = true := List.all_eq_true.2 fun x hx => beq_iff_eq.2 (h x (List.mem_cons_of_mem a hx))
    exact if_pos hall

/-- Pairs that do not agree: UC wins every overlap, WT one with WB. -/
theorem overlapType_of_mixed {s : State} {ts : List MemType} (h : ¬ ∃ t, ∀ x ∈ ts, x = t) :
    overlapType s ts =
      if .uc ∈ ts then .uc else if ∀ x ∈ ts, x = .wt ∨ x = .wb then .wt else memTypeOf (Config.freeMemType s.freeCtr) := by
  match ts with
  | [] => exact absurd ⟨.uc, fun x hx => absurd hx List.not_mem_nil⟩ h
  | a :: rest =>
    have hall : ¬ rest.all (· == a) = true := fun hrest =>
      h ⟨a, List.forall_mem_cons.2 ⟨rfl, fun x hx => beq_iff_eq.1 (List.all_eq_true.1 hrest x hx)⟩⟩
    rw [overlapType, if_neg hall]
    simp only [List.contains_iff_mem, List.all_eq_true, Bool.or_eq_true, beq_iff_eq]

theorem overlapType_of_uc {s : State} {ts : List MemType} (h : .uc ∈ ts) : overlapType s ts = .uc := by
  by_cases hsame : ∃ t, ∀ x ∈ ts, x = t
  · obtain ⟨t, ht⟩ := hsame
    exact overlapType_of_forall_eq h fun x hx => (ht x hx).trans (ht .uc h).symm
  · rw [overlapType_of_mixed hsame, if_pos h]

theorem overlapType_of_wt {s : State} {ts : List MemType} (h : .wt ∈ ts) (hall : ∀ x ∈ ts, x = .wt ∨ x = .wb) :
    overlapType s ts = .wt := by
  by_cases hsame : ∃ t, ∀ x ∈ ts, x = t
  · obtain ⟨t, ht⟩ := hsame
    exact overlapType_of_forall_eq h fun x hx => (ht x hx).trans (ht .wt h).symm
  · have huc : .uc ∉ ts := fun hmem => absurd (hall .uc hmem) (by decide)
    rw [overlapType_of_mixed hsame, if_neg huc, if_pos hall]

/-- The types of the pairs that match, where each pair that matches has a type of a kind. -/
theorem forall_matchedTypes {s : State} {pa : Addr} {P : MemType → Prop}
    (h : ∀ m ∈ s.mtrr.var.take s.caps.vcnt, m.covers pa → P (mtrrField s m.type)) : ∀ x ∈ matchedTypes s pa, P x := by
  intro x hx
  obtain ⟨m, hm, hcovers, rfl⟩ := mem_matchedTypes.1 hx
  exact h m hm hcovers

/-- An address that no pair matches has the default type. -/
theorem overlapType_of_unmatched {s : State} {pa : Addr}
    (h : ∀ m ∈ s.mtrr.var.take s.caps.vcnt, ¬ m.covers pa) :
    overlapType s (matchedTypes s pa) = mtrrField s s.mtrr.type := by
  have hnil : matchedTypes s pa = [] :=
    List.eq_nil_iff_forall_not_mem.2 (forall_matchedTypes fun m hm hcovers => absurd hcovers (h m hm))
  rw [hnil, overlapType]

/-! The type values of 12 R401. -/

theorem mtrrField_uc (s : State) : mtrrField s 0 = .uc := rfl
theorem mtrrField_wc (s : State) : mtrrField s 1 = .wc := rfl
theorem mtrrField_wt (s : State) : mtrrField s 4 = .wt := rfl
theorem mtrrField_wp (s : State) : mtrrField s 5 = .wp := rfl
theorem mtrrField_wb (s : State) : mtrrField s 6 = .wb := rfl

/-! The pairs that match an address, by their type values. -/

theorem overlapType_of_covers_uc {s : State} {pa : Addr} {m : MtrrVar} (hm : m ∈ s.mtrr.var.take s.caps.vcnt)
    (hcovers : m.covers pa) (htype : m.type = 0) : overlapType s (matchedTypes s pa) = .uc :=
  overlapType_of_uc (mem_matchedTypes.2 ⟨m, hm, hcovers, htype ▸ mtrrField_uc s⟩)

theorem overlapType_of_covers_wb {s : State} {pa : Addr} {m : MtrrVar} (hm : m ∈ s.mtrr.var.take s.caps.vcnt)
    (hcovers : m.covers pa) (htype : m.type = 6)
    (hall : ∀ n ∈ s.mtrr.var.take s.caps.vcnt, n.covers pa → n.type = 6) : overlapType s (matchedTypes s pa) = .wb :=
  overlapType_of_forall_eq (mem_matchedTypes.2 ⟨m, hm, hcovers, htype ▸ mtrrField_wb s⟩)
    (forall_matchedTypes fun n hn hc => hall n hn hc ▸ mtrrField_wb s)

theorem overlapType_of_covers_wt {s : State} {pa : Addr} {m : MtrrVar} (hm : m ∈ s.mtrr.var.take s.caps.vcnt)
    (hcovers : m.covers pa) (htype : m.type = 4)
    (hall : ∀ n ∈ s.mtrr.var.take s.caps.vcnt, n.covers pa → n.type = 4 ∨ n.type = 6) :
    overlapType s (matchedTypes s pa) = .wt :=
  overlapType_of_wt (mem_matchedTypes.2 ⟨m, hm, hcovers, htype ▸ mtrrField_wt s⟩)
    (forall_matchedTypes fun n hn hc =>
      (hall n hn hc).imp (fun ht : n.type = 4 => ht ▸ mtrrField_wt s) fun ht : n.type = 6 => ht ▸ mtrrField_wb s)

/-! ## The statement -/

/-- Settles O57, a register at a time: each write comes to its register as doublewords, and the rule for the register says what it
changes. -/
theorem registerAccesses : Obligations.RegisterAccesses := by
  refine ⟨fun s u c v h hpages hivt => ?fsts, fun s u c n off v h hoff hn hin hfixed hiro => ?frcd,
    fun s u c v h hpages hivt => ?rtaddr, fun s u c off w h hwidth => ?read, fun s u c v h hpages hmts hivt hiro => ?mtrrDef⟩
  case fsts =>
    obtain ⟨hframe, hip⟩ := State.statusCleared_fault_moves_ip _ (t := u.writeFsts (loWord v)) rfl
    refine ⟨u.writeFsts (loWord v), (step_of_nextEvent h).trans (State.softWrite_fsts hpages hivt v), ?_, ?_, hip⟩
    · rw [hframe]
    · rw [hframe]
      simp only [bitAt_loWord, Nat.reduceLT]
  case frcd =>
    have hstep : step s = .next (u.writeFrcd n (loWord v)) :=
      (step_of_nextEvent h).trans (State.softWrite_frcd hoff hn hin hfixed hiro v)
    rw [State.writeFrcd, bitAt_loWord v (by decide)] at hstep
    refine ⟨fun hclear => ?_, fun hset => ?_⟩
    · rwa [hclear] at hstep
    · rw [if_pos hset] at hstep
      obtain ⟨hframe, hip⟩ := State.statusCleared_fault_moves_ip _ rfl
      refine ⟨_, hstep, ?_, ?_, ?_, hip⟩
      · rw [hframe]
      · rw [hframe]
        exact fun k x => getElem?_clearF
      · rw [bitAt_fstsWord_ppf]
        exact State.ppf_clearF_iff (by rw [hframe])
  case rtaddr => exact (step_of_nextEvent h).trans (State.softWrite_rtaddr hpages hivt v)
  case read =>
    have hstep := (step_of_nextEvent h).trans (State.softRead_of_accessOk (by simpa [accessOk] using hwidth))
    refine ⟨⟨_, hstep⟩, ?_⟩
    rintro rfl rfl hpages t ht
    obtain rfl := Host.Outcome.next.inj (hstep.symm.trans ht)
    refine ⟨regValue u 0x1C 4, rfl, ?_⟩
    simp +contextual [bitAt_regValue_gsts hpages, bitAt_gstsWord]
  case mtrrDef =>
    refine ⟨u.withMtrrDef v, (step_of_nextEvent h).trans (State.softWrite_mtrrDef hpages hmts hivt hiro v), rfl, fun pa =>
      ⟨fun hoff => mtrrType_of_off hoff pa, fun hon hfixed => ?_⟩⟩
    have hdefault : (∀ m ∈ u.mtrr.var.take u.caps.vcnt, ¬ m.covers pa) →
        mtrrType (u.withMtrrDef v) pa = mtrrField (u.withMtrrDef v) (field v 0 8) := fun hnone =>
      (mtrrType_of_variable hon hfixed).trans (overlapType_of_unmatched hnone)
    refine ⟨fun hnone => ?_, fun m hm hc htype => ?_, fun m hm hc htype hall => ?_, fun m hm hc htype hall => ?_⟩
    · rw [hdefault hnone]
      exact ⟨fun ht => ht ▸ mtrrField_uc _, fun ht => ht ▸ mtrrField_wc _, fun ht => ht ▸ mtrrField_wt _,
        fun ht => ht ▸ mtrrField_wp _, fun ht => ht ▸ mtrrField_wb _⟩
    · exact (mtrrType_of_variable hon hfixed).trans (overlapType_of_covers_uc hm hc htype)
    · exact (mtrrType_of_variable hon hfixed).trans (overlapType_of_covers_wb hm hc htype hall)
    · exact (mtrrType_of_variable hon hfixed).trans (overlapType_of_covers_wt hm hc htype hall)

end Sys2Proof.Machine
end

section
/-! O6: the canonical form of memory (20 R502, R510; log 2), operation by operation in the order of the model. Memory changes only
by a store of bytes, by a flush of the write buffer or by a piece of it reaching memory, which keep the form
(Sys2Proof/Laws/Memory.lean); every other update leaves the memory field as it stands, and the form with it by definition. -/

namespace Sys2Proof.Machine

/-- A choice between two operations. -/
theorem memoryForm_ite {t u : State} {p : Prop} [Decidable p] (ht : t.memoryForm) (hu : u.memoryForm) :
    (if p then t else u).memoryForm := iteInduction (fun _ => ht) fun _ => hu

/-- An operation repeated along a list. -/
theorem foldl_memoryForm {α : Type} {f : State → α → State}
    (hf : ∀ {u : State}, u.memoryForm → ∀ a, (f u a).memoryForm) (l : List α) {s : State} (h : s.memoryForm) : (l.foldl f s).memoryForm :=
  List.foldlRecOn l f h fun _ hu a _ => hf hu a

/-- An operation that its frame lemma shows to move the caches alone. -/
theorem memoryForm_of_caches_frame {s t : State} (h : s.memoryForm) (frame : ∃ c, t = { s with caches := c }) :
    t.memoryForm := by
  obtain ⟨c, rfl⟩ := frame
  exact h

/-- An operation that its frame lemma shows to move the trace and the interrupts in flight alone. -/
theorem memoryForm_of_interrupts_frame {s t : State} (h : s.memoryForm)
    (frame : ∃ o l, t = { s with out := o, intrFlight := l }) : t.memoryForm := by
  obtain ⟨o, l, rfl⟩ := frame
  exact h

/-! ## Events and faults -/

theorem State.setEvRegs_memoryForm {s : State} (h : s.memoryForm) (e : EventName) (r : EventRegs) :
    (s.setEvRegs e r).memoryForm := by
  cases e <;> exact h

/-- The message of an event whose address is no interrupt address is a store. -/
theorem State.sendInterrupt_memoryForm {s : State} (h : s.memoryForm) (e : EventName) :
    (s.sendInterrupt e).memoryForm := by
  have hstore : (s.storeMessage (s.evRegs e)).memoryForm := memoryForm_ite (State.memWrite_memoryForm h _ _ _) h
  exact hstore

/-- The registers of an event replaced, then its message sent. -/
theorem State.setEvRegs_send_memoryForm {s : State} (h : s.memoryForm) (e : EventName) (r : EventRegs) :
    ((s.setEvRegs e r).sendInterrupt e).memoryForm :=
  State.sendInterrupt_memoryForm (State.setEvRegs_memoryForm h e r) e

theorem State.raiseEvent_memoryForm {s : State} (h : s.memoryForm) (e : EventName) (w : Bool) :
    (s.raiseEvent e w).memoryForm :=
  memoryForm_ite h (memoryForm_ite (State.setEvRegs_memoryForm h e _) (State.setEvRegs_send_memoryForm h e _))

theorem State.statusCleared_memoryForm {s : State} (h : s.memoryForm) (e : EventName) : (s.statusCleared e).memoryForm :=
  memoryForm_ite h (State.setEvRegs_memoryForm h e _)

theorem State.writeIm_memoryForm {s : State} (h : s.memoryForm) (e : EventName) (im : Bool) :
    (s.writeIm e im).memoryForm :=
  memoryForm_ite (State.setEvRegs_send_memoryForm h e _) (State.setEvRegs_memoryForm h e _)

theorem State.releaseEvent_memoryForm {s : State} (h : s.memoryForm) (e : EventName) : (s.releaseEvent e).memoryForm :=
  memoryForm_ite (State.setEvRegs_send_memoryForm h e _) h

theorem State.releaseAll_memoryForm {s : State} (h : s.memoryForm) : s.releaseAll.memoryForm :=
  State.releaseEvent_memoryForm (State.releaseEvent_memoryForm (State.releaseEvent_memoryForm
    (State.releaseEvent_memoryForm h .fault) .inv) .page) .perf

theorem State.reportFault_memoryForm {s : State} (h : s.memoryForm) (r : FaultReport) : (s.reportFault r).memoryForm := by
  unfold State.reportFault
  iterate 3 refine memoryForm_ite h ?_
  split
  · exact h
  · exact memoryForm_ite h (memoryForm_ite h (State.raiseEvent_memoryForm (by exact h) .fault _))

theorem State.resetFaultIdx_memoryForm {s : State} (h : s.memoryForm) : s.resetFaultIdx.memoryForm := memoryForm_ite h h

/-! ## Perfmon -/

theorem State.perfmonEvent_memoryForm {s : State} (h : s.memoryForm) : s.perfmonEvent.memoryForm :=
  State.raiseEvent_memoryForm (by exact h) .perf _

/-- A counter counts, and its overflow may raise the event and freeze the counters. -/
theorem State.countAt_memoryForm {s : State} (h : s.memoryForm) (o : Occurrence) (k : Nat) : (s.countAt o k).memoryForm := by
  unfold State.countAt
  split
  · exact h
  next p _ =>
    have hevent : (if (p.overflows o (s.caps.counterWidth k) && p.io) = true
        then (s.setCounter k (p.bump o (s.caps.counterWidth k))).perfmonEvent
        else s.setCounter k (p.bump o (s.caps.counterWidth k))).memoryForm :=
      memoryForm_ite (State.perfmonEvent_memoryForm h) h
    exact memoryForm_ite (memoryForm_ite hevent hevent) h

theorem State.count_memoryForm {s : State} (h : s.memoryForm) (o : Occurrence) : (s.count o).memoryForm :=
  memoryForm_ite (foldl_memoryForm (fun hu k => State.countAt_memoryForm hu o k) _ h) h

theorem State.perfPulse_memoryForm {s : State} (h : s.memoryForm) (g e n : Nat) : (s.perfPulse g e n).memoryForm :=
  memoryForm_ite (State.count_memoryForm h _) h

/-! ## Walks -/

theorem State.updateFlags_memoryForm {s : State} (h : s.memoryForm) (u : FlagUpdate) : (s.updateFlags u).memoryForm :=
  State.memWrite_memoryForm (by exact h) _ _ _

/-- The state a walk leaves: its flag updates are the one thing that stores. -/
theorem memoryForm_of_runWalk {α : Type} {s u : State} {w : Walk α} {sid : SourceId} {p : Option Pasid} {a : Nat}
    {res : Except Cond α} {t : Trail} (h : s.memoryForm) (hw : s.runWalk w sid p a = (res, t, u)) : u.memoryForm := by
  have hmet : ∀ t : Trail, (((s.accessAll t).countTrail t sid p a).keepTrail t).memoryForm := fun t =>
    memoryForm_of_caches_frame (foldl_memoryForm State.count_memoryForm _ (by exact h)) (State.keepTrail_frame _ t)
  unfold State.runWalk at hw
  generalize w.run.run Trail.empty = walked at hw
  obtain ⟨found, t'⟩ := walked
  cases found with
  | error c =>
    cases hw
    exact memoryForm_of_caches_frame (hmet t) (State.fillPsc_frame _ _)
  | ok x =>
    cases hw
    exact memoryForm_of_caches_frame (foldl_memoryForm State.updateFlags_memoryForm _ (hmet t)) (State.fillPsc_frame _ _)

/-! ## Requests in flight -/

/-- A request observed: a write or an AtomicOp to memory stores. -/
theorem State.commit_memoryForm {s : State} (h : s.memoryForm) (f : Forwarded) : (s.commit f).memoryForm := by
  unfold State.commit
  dsimp only
  split
  · exact memoryForm_ite (State.memWriteBytes_memoryForm (by exact h) _ _) h
  · exact memoryForm_ite h h
  · exact h
  · refine memoryForm_ite ?_ h
    exact State.memWrite_memoryForm (s := s.emit (.forward f)) h _ _ _

theorem State.drainWhere_memoryForm {s : State} (h : s.memoryForm) (p : Forwarded → Bool) : (s.drainWhere p).memoryForm :=
  foldl_memoryForm State.commit_memoryForm _ (by exact h)

theorem State.forward_memoryForm {s : State} (h : s.memoryForm) (f : Forwarded) : (s.forward f).memoryForm :=
  memoryForm_ite h (State.commit_memoryForm (State.drainWhere_memoryForm h _) f)

theorem State.commitNth_memoryForm {s : State} (h : s.memoryForm) (k : Nat) : (s.commitNth k).memoryForm := by
  unfold State.commitNth
  split
  · exact h
  · exact State.commit_memoryForm (foldl_memoryForm State.commit_memoryForm _ (by exact h)) _

theorem State.acceptWhere_memoryForm {s : State} (h : s.memoryForm) (p : IntrFlight → Bool) :
    (s.acceptWhere p).memoryForm := by
  rw [State.acceptWhere_eq]
  exact h

theorem State.deliver_memoryForm {s : State} (h : s.memoryForm) (d : IntrFlight) : (s.deliver d).memoryForm :=
  memoryForm_of_interrupts_frame h (s.deliver_frame d)

/-! ## Interrupt requests (44 R1100 to R1137) -/

theorem State.handleCompat_memoryForm {s : State} (h : s.memoryForm) (sid : SourceId) (addr data : BitVec 32) :
    (s.handleCompat sid addr data).memoryForm :=
  memoryForm_ite (by exact State.reportFault_memoryForm h _) (State.deliver_memoryForm h _)

/-- The posted-interrupt descriptor is stored, then its notification delivered. -/
theorem State.post_memoryForm {s : State} (h : s.memoryForm) (sid : SourceId) (e : BitVec 128) :
    (s.post sid e).memoryForm := by
  have hstore : ∀ v, (s.drainInterrupts.memWrite (irtePid e).toNat 64 v).memoryForm := fun v =>
    State.memWrite_memoryForm (State.acceptWhere_memoryForm h _) _ _ v
  exact memoryForm_ite (State.deliver_memoryForm (hstore _) _) (hstore _)

theorem State.useIrte_memoryForm {s : State} (h : s.memoryForm) (sid : SourceId) (idx : Nat) (e : BitVec 128)
    (cached : Bool) : (s.useIrte sid idx e cached).memoryForm := by
  have hfetched : (if cached || ((useFault s sid e).isSome && !s.caps.cm) then s
      else s.fillIec { index := BitVec.ofNat 16 idx, irte := e }).memoryForm :=
    memoryForm_ite h (memoryForm_of_caches_frame h (s.fillIec_frame _))
  have haccess : ∀ {u : State} n, u.memoryForm →
      (if reachesPid s sid e then u.access .atomic n 64 true else u).memoryForm := fun _ hu => memoryForm_ite hu hu
  unfold State.useIrte
  dsimp only
  split
  · exact State.reportFault_memoryForm (haccess _ hfetched) _
  · exact memoryForm_ite (State.post_memoryForm (haccess _ hfetched) sid e)
      (State.deliver_memoryForm (haccess _ hfetched) _)

theorem State.remapInterrupt_memoryForm {s : State} (h : s.memoryForm) (sid : SourceId) (addr data : BitVec 32) :
    (s.remapInterrupt sid addr data).memoryForm := by
  have hlooked : (s.countInt 4 0 sid).memoryForm := State.count_memoryForm h _
  refine memoryForm_ite (by exact State.reportFault_memoryForm h _)
    (memoryForm_ite (State.reportFault_memoryForm h _) ?_)
  dsimp only
  split
  · exact State.useIrte_memoryForm (State.count_memoryForm hlooked _) _ _ _ _
  refine memoryForm_ite (State.reportFault_memoryForm hlooked _) ?_
  split
  · exact State.reportFault_memoryForm (by exact State.count_memoryForm hlooked _) _
  · exact State.useIrte_memoryForm (by exact State.count_memoryForm hlooked _) _ _ _ _

theorem State.handleInterrupt_memoryForm {s : State} (h : s.memoryForm) (sid : SourceId) (addr data : BitVec 32) :
    (s.handleInterrupt sid addr data).memoryForm := by
  have hdrained : s.drainPosted.memoryForm := State.drainWhere_memoryForm h _
  exact memoryForm_ite (State.deliver_memoryForm hdrained _)
    (memoryForm_ite (State.handleCompat_memoryForm hdrained sid addr data)
      (State.remapInterrupt_memoryForm hdrained sid addr data))

/-! ## Memory requests (42 R1000 to R1032, 43 R1055 to R1075) -/

theorem State.turnAway_memoryForm {s : State} (h : s.memoryForm) (r : MemReq) : (s.turnAway r).memoryForm :=
  memoryForm_ite h h

theorem State.block_memoryForm {s : State} (h : s.memoryForm) (k : ReqKind) (r : MemReq) (c : Cond) (fpd : Bool) :
    (s.block k r c fpd).memoryForm := State.reportFault_memoryForm (State.turnAway_memoryForm h r) _

theorem State.passOn_memoryForm {s : State} (h : s.memoryForm) (k : ReqKind) (r : MemReq) (hpa : Addr) (pt snoop : Bool)
    (mt : Option MemType) : (s.passOn k r hpa pt snoop mt).memoryForm :=
  memoryForm_ite (State.turnAway_memoryForm h r) (State.forward_memoryForm h _)

theorem State.blockIllegal_memoryForm {s : State} (h : s.memoryForm) (r : MemReq) : (s.blockIllegal r).memoryForm :=
  memoryForm_ite (State.block_memoryForm h _ r _ _) (State.turnAway_memoryForm h r)

theorem State.interruptRange_memoryForm {s : State} (h : s.memoryForm) (r : MemReq) : (s.interruptRange r).memoryForm := by
  unfold State.interruptRange
  split
  · exact memoryForm_ite (State.handleInterrupt_memoryForm h _ _ _) (State.blockIllegal_memoryForm h r)
  · exact h
  · exact State.blockIllegal_memoryForm h r
  · exact State.blockIllegal_memoryForm h r

theorem State.keepFound_memoryForm {s : State} (h : s.memoryForm) (f : Found) (r : MemReq) (fpd : Bool) :
    (s.keepFound f r fpd).memoryForm := memoryForm_of_caches_frame h (s.keepFound_frame f r fpd)

theorem State.forwardFound_memoryForm {s : State} (h : s.memoryForm) (r : MemReq) (f : Found) (fpd : Bool) :
    (s.forwardFound r f fpd).memoryForm := by
  have hpassed := State.passOn_memoryForm (State.keepFound_memoryForm h f r fpd)
  exact hpassed _ _ _ _ _ _

theorem State.handleUntranslated_memoryForm {s : State} (h : s.memoryForm) (r : MemReq) :
    (s.handleUntranslated r).memoryForm := by
  refine memoryForm_ite (State.interruptRange_memoryForm h r) (memoryForm_ite (State.passOn_memoryForm h _ _ _ _ _ _) ?_)
  split
  next hw => exact State.block_memoryForm (memoryForm_of_runWalk h hw) _ _ _ _
  next hw => exact State.forwardFound_memoryForm (memoryForm_of_runWalk h hw) _ _ _

theorem State.answerFault_memoryForm {s : State} (h : s.memoryForm) (r : MemReq) (c : Cond) (t : Trail) :
    (s.answerFault r c t).memoryForm := by
  have hfault : ∀ a f, ((s.respond r.sid a).reportFault f).memoryForm := fun _ f =>
    State.reportFault_memoryForm (by exact h) f
  unfold State.answerFault
  split
  · exact memoryForm_ite (hfault _ _) h
  · exact h
  · exact hfault _ _
  · exact hfault _ _

theorem State.handleTranslation_memoryForm {s : State} (h : s.memoryForm) (r : MemReq) :
    (s.handleTranslation r).memoryForm := by
  refine memoryForm_ite h ?_
  split
  next hw => exact State.answerFault_memoryForm (memoryForm_of_runWalk h hw) _ _ _
  next hw => exact State.keepFound_memoryForm (memoryForm_of_runWalk h hw) _ _ _

theorem State.handleTranslated_memoryForm {s : State} (h : s.memoryForm) (r : MemReq) :
    (s.handleTranslated r).memoryForm := by
  refine memoryForm_ite (State.forward_memoryForm h _) (memoryForm_ite (State.turnAway_memoryForm h r) ?_)
  split
  next hw => exact State.block_memoryForm (memoryForm_of_runWalk h hw) _ _ _ _
  next hw => exact State.passOn_memoryForm (memoryForm_of_runWalk h hw) _ _ _ _ _ _

/-! ## Page requests (45 R1170 to R1185) -/

theorem State.autoResponse_memoryForm {s : State} (h : s.memoryForm) (m : PageMsg) (c : BitVec 4) :
    (s.autoResponse m c).memoryForm := memoryForm_ite h h

theorem State.prqDelivered_memoryForm {s : State} (h : s.memoryForm) : s.prqDelivered.memoryForm :=
  State.raiseEvent_memoryForm (by exact h) .page _

/-- The descriptor is stored, if its address can be written. -/
theorem State.writePrq_memoryForm {s : State} (h : s.memoryForm) (m : PageMsg) : (s.writePrq m).memoryForm := by
  have hstore : ((s.access .write s.prqAddr 32 true).memWrite s.prqAddr 32 (encodePrq m).toNat).memoryForm :=
    State.memWrite_memoryForm (by exact h) _ _ _
  exact memoryForm_ite (State.count_memoryForm (State.prqDelivered_memoryForm hstore) _) h

theorem State.implicitInvalidate_memoryForm {s : State} (h : s.memoryForm) (g : BitVec 3) (did : DomainId) (p : Pasid)
    (addr : BitVec 52) : (s.implicitInvalidate g did p addr).memoryForm := by
  unfold State.implicitInvalidate
  split <;> exact h

theorem State.acceptPage_memoryForm {s : State} (h : s.memoryForm) (m : PageMsg) (g : BitVec 3) (did : DomainId)
    (p : Pasid) : (s.acceptPage m g did p).memoryForm := by
  have hwritten := State.writePrq_memoryForm (State.implicitInvalidate_memoryForm h g did p m.addr)
  have hpro : s.setPro.memoryForm := State.raiseEvent_memoryForm (by exact h) .page _
  exact memoryForm_ite (State.autoResponse_memoryForm h m _)
    (memoryForm_ite (State.autoResponse_memoryForm hpro m _) (hwritten _))

theorem State.handlePage_memoryForm {s : State} (h : s.memoryForm) (m : PageMsg) : (s.handlePage m).memoryForm := by
  refine memoryForm_ite (State.autoResponse_memoryForm h m _) ?_
  split
  next hw =>
    have hwalked := memoryForm_of_runWalk h hw
    exact State.autoResponse_memoryForm (memoryForm_ite hwalked (State.reportFault_memoryForm hwalked _)) m _
  next hw => exact State.acceptPage_memoryForm (memoryForm_of_runWalk h hw) _ _ _ _

/-! ## The invalidation queue (40 R902 to R943) -/

theorem State.raiseIqe_memoryForm {s : State} (h : s.memoryForm) (i : BitVec 4) : (s.raiseIqe i).memoryForm :=
  State.raiseEvent_memoryForm (by exact h) .fault _

theorem State.setIce_memoryForm {s : State} (h : s.memoryForm) (rid : SourceId) : (s.setIce rid).memoryForm :=
  memoryForm_ite (State.raiseEvent_memoryForm (by exact h) .fault _) h

theorem State.setIte_memoryForm {s : State} (h : s.memoryForm) (sid : SourceId) : (s.setIte sid).memoryForm :=
  State.raiseEvent_memoryForm (by exact h) .fault _

/-- A wait completes: its status is stored, if its address can be written, then the event raised. -/
theorem State.completeWait_memoryForm {s : State} (h : s.memoryForm) (iflag sw : Bool) (data : BitVec 32)
    (saddr : BitVec 62) : (s.completeWait iflag sw data saddr).memoryForm := by
  have hwrite : (s.writeStatus data saddr).memoryForm := memoryForm_ite (State.memWrite_memoryForm (by exact h) _ _ _) h
  have hstatus : (if sw then s.writeStatus data saddr else s).memoryForm := memoryForm_ite hwrite h
  exact memoryForm_ite (State.raiseEvent_memoryForm (by exact hstatus) .inv _) hstatus

theorem advancePend_memoryForm {s : State} (h : s.memoryForm) (kept l : List Pending) :
    (advancePend s kept l).1.memoryForm := by
  induction l generalizing s kept with
  | nil => exact h
  | cons p rest ih =>
    cases p with
    | wait iflag sw fn pd data saddr =>
      unfold advancePend
      split
      · exact ih (State.completeWait_memoryForm h iflag sw data saddr) _
      · exact ih h _
    | sent k => exact ih h _
    | unsent m =>
      unfold advancePend
      split
      · exact ih h _
      · exact ih (by exact h) _
    | resp m =>
      unfold advancePend
      split
      · exact ih h _
      · exact ih (by exact h) _

theorem State.advance_memoryForm {s : State} (h : s.memoryForm) : s.advance.memoryForm :=
  advancePend_memoryForm h [] s.iqPend

theorem State.pend_memoryForm {s : State} (h : s.memoryForm) (p : Pending) : (s.pend p).memoryForm :=
  State.advance_memoryForm (by exact h)

theorem State.devTlbTimeout_memoryForm {s : State} (h : s.memoryForm) (k : Nat) : (s.devTlbTimeout k).memoryForm := by
  unfold State.devTlbTimeout
  split
  · exact h
  · exact State.advance_memoryForm (State.setIte_memoryForm (by exact h) _)

theorem State.noteFetch_memoryForm {s : State} (h : s.memoryForm) : s.noteFetch.memoryForm :=
  memoryForm_ite (State.count_memoryForm (by exact h) _) h

theorem State.invalidatePGrade_memoryForm {s : State} (h : s.memoryForm) (k : Nat) (did : DomainId) (p : Pasid)
    (addr : BitVec 52) (am : Nat) (ih : Bool) : (s.invalidatePGrade k did p addr am ih).memoryForm :=
  memoryForm_ite h (memoryForm_ite h h)

/-- A descriptor whose own effect keeps the form. -/
theorem State.runDsc_memoryForm {s : State} (h : s.memoryForm) (ty : Nat) (r : Bool) {act : State → State}
    (hact : ∀ {u : State}, u.memoryForm → (act u).memoryForm) : (s.runDsc ty r act).memoryForm :=
  memoryForm_ite (State.raiseIqe_memoryForm h 3) (memoryForm_ite (State.raiseIqe_memoryForm h 4) (hact (by exact h)))

/-! ## Register commands (41 R951 to R996) -/

theorem State.finishTeDisable_memoryForm {s : State} (h : s.memoryForm) : s.finishTeDisable.memoryForm := by
  have hinv : (if s.caps.smts then s.invalidateAllDma else s).memoryForm := memoryForm_ite h h
  exact State.resetFaultIdx_memoryForm (by exact hinv)

theorem State.finishIreDisable_memoryForm {s : State} (h : s.memoryForm) : s.finishIreDisable.memoryForm := by
  have hinv : (if s.caps.esirtps then s.invalidateAllIec else s).memoryForm := memoryForm_ite h h
  exact State.resetFaultIdx_memoryForm (by exact hinv)

theorem State.finishSrtp_memoryForm {s : State} (h : s.memoryForm) (p : RootPtr) : (s.finishSrtp p).memoryForm := by
  have hinv : (if s.caps.esrtps then s.invalidateAllDma else s).memoryForm := memoryForm_ite h h
  exact hinv

theorem State.finishSirtp_memoryForm {s : State} (h : s.memoryForm) (p : IrtPtr) : (s.finishSirtp p).memoryForm := by
  have hinv : (if s.caps.esirtps then s.invalidateAllIec else s).memoryForm := memoryForm_ite h h
  exact hinv

theorem State.finishCcmd_memoryForm {s : State} (h : s.memoryForm) : s.finishCcmd.memoryForm :=
  memoryForm_ite h (by exact State.implicitFlush_memoryForm h)

theorem State.finishIotlb_memoryForm {s : State} (h : s.memoryForm) : s.finishIotlb.memoryForm := by
  have hflushed : s.implicitFlush.memoryForm := State.implicitFlush_memoryForm h
  exact memoryForm_ite h (State.drainWhere_memoryForm (by exact hflushed) _)

theorem State.finishPmen_memoryForm {s : State} (h : s.memoryForm) (v : Bool) : (s.finishPmen v).memoryForm := by
  have hdrained : (if v then s.drainAll else s).memoryForm := memoryForm_ite (State.drainWhere_memoryForm h _) h
  exact hdrained

/-- An enhanced command whose own effect keeps the form. -/
theorem State.ecmdRun_memoryForm {s : State} (h : s.memoryForm) (cmd : Nat) {act : State → State × BitVec 7}
    (hact : (act s).1.memoryForm) : (s.ecmdRun cmd act).memoryForm := memoryForm_ite h (memoryForm_ite h hact)

theorem enableCounter_memoryForm {s : State} (h : s.memoryForm) (k : Nat) : (enableCounter k s).1.memoryForm := by
  unfold enableCounter
  split <;> exact h

theorem disableCounter_memoryForm {s : State} (h : s.memoryForm) (k : Nat) : (disableCounter k s).1.memoryForm := by
  unfold disableCounter
  split <;> exact h

theorem State.finishVcmdAllocate_memoryForm {s : State} (h : s.memoryForm) : s.finishVcmdAllocate.memoryForm := by
  unfold State.finishVcmdAllocate
  split
  · exact h
  · split <;> exact h

/-- A register command completes: those that drain or flush store, the others move registers and caches. -/
theorem finishInstr_memoryForm {s : State} (h : s.memoryForm) (p : PendCmd) (i : Instr) : (finishInstr p s i).memoryForm := by
  cases i with
  | gcmdTeEnable => exact State.drainWhere_memoryForm h _
  | gcmdTeDisable => exact State.finishTeDisable_memoryForm h
  | gcmdSrtp => exact State.finishSrtp_memoryForm h p.root
  | gcmdWbf => exact State.flush_memoryForm h
  | gcmdIreEnable => exact State.acceptWhere_memoryForm h _
  | gcmdIreDisable => exact State.finishIreDisable_memoryForm h
  | gcmdSirtp => exact State.finishSirtp_memoryForm h p.irt
  | ccmdIcc => exact State.finishCcmd_memoryForm h
  | iotlbIvt => exact State.finishIotlb_memoryForm h
  | pmenEpmEnable => exact State.finishPmen_memoryForm h true
  | pmenEpmDisable => exact State.finishPmen_memoryForm h false
  | ecmdEnable k => exact State.ecmdRun_memoryForm h 240 (enableCounter_memoryForm h k.toNat)
  | ecmdDisable k => exact State.ecmdRun_memoryForm h 241 (disableCounter_memoryForm h k.toNat)
  | ecmdResetConfig => exact State.ecmdRun_memoryForm h 242 h
  | ecmdResetValues => exact State.ecmdRun_memoryForm h 243 h
  | ecmdFreeze => exact State.ecmdRun_memoryForm h 244 h
  | ecmdUnfreeze => exact State.ecmdRun_memoryForm h 245 h
  | ecmdReserved => exact State.ecmdRun_memoryForm h 0 h
  | vcmdAllocate => exact State.finishVcmdAllocate_memoryForm h
  | vcmdFree oa => exact memoryForm_ite h (memoryForm_ite h h)
  | _ => exact h

theorem finishCmd_memoryForm {s : State} (h : s.memoryForm) (p : PendCmd) : (finishCmd p s).memoryForm := by
  unfold finishCmd
  split
  · exact finishInstr_memoryForm h p _
  · exact h

theorem State.submitAny_memoryForm {s : State} (h : s.memoryForm) (c : Submitted) : (s.submitAny c).memoryForm :=
  memoryForm_ite h (finishCmd_memoryForm h _)

theorem State.writeEpm_memoryForm {s : State} (h : s.memoryForm) (v : Bool) (i : Instr) : (s.writeEpm v i).memoryForm :=
  memoryForm_ite h (State.submitAny_memoryForm (by exact h) (.instr i))

theorem State.undefinedVirtual_memoryForm {s : State} (h : s.memoryForm) (cmd : BitVec 8) (oa : BitVec 48) :
    (s.undefinedVirtual cmd oa).memoryForm := memoryForm_ite (State.submitAny_memoryForm (by exact h) .reservedVirtual) h

/-! ## Register writes (41 R998): only the release of a held event message stores -/

theorem State.writeEvent_memoryForm {s : State} (h : s.memoryForm) (e : EventName) (k : Nat) (v : BitVec 32) :
    (s.writeEvent e k v).memoryForm := by
  unfold State.writeEvent
  split
  · exact State.writeIm_memoryForm h e _
  · exact State.setEvRegs_memoryForm h e _
  · exact State.setEvRegs_memoryForm h e _
  · exact memoryForm_ite (State.setEvRegs_memoryForm h e _) h

theorem State.writeOverflow_memoryForm {s : State} (h : s.memoryForm) (first : Nat) (v : BitVec 32) :
    (s.writeOverflow first v).memoryForm := by
  unfold State.writeOverflow
  refine foldl_memoryForm (fun hu _ => ?_) _ h
  exact memoryForm_ite hu hu

theorem State.writePerf_memoryForm {s : State} (h : s.memoryForm) (off : Nat) (v : BitVec 32) :
    (s.writePerf off v).memoryForm := by
  unfold State.writePerf
  dsimp only
  split
  · exact State.writeOverflow_memoryForm h _ v
  split
  · exact h
  · exact memoryForm_ite h h

theorem State.memoryForm_of_writeMtrrs {s t : State} (h : s.memoryForm) {off : Nat} {v : BitVec 32}
    (ht : s.writeMtrrs off v = some t) : t.memoryForm := by
  unfold State.writeMtrrs at ht
  split at ht
  · cases ht
  split at ht
  · cases ht
    exact h
  · obtain ⟨k, -, rfl⟩ := Option.map_eq_some_iff.1 ht
    exact h

theorem State.writeLocated_memoryForm {s : State} (h : s.memoryForm) (off : Nat) (v : BitVec 32) :
    (s.writeLocated off v).memoryForm := by
  have hiva : ∀ b, (s.writeIva b v).memoryForm := fun _ => memoryForm_ite h h
  have hfrcd : ∀ n, (s.writeFrcd n v).memoryForm := fun _ =>
    memoryForm_ite (State.statusCleared_memoryForm (by exact h) .fault) h
  refine memoryForm_ite (hiva false) (memoryForm_ite (hiva true) (memoryForm_ite h ?_))
  split
  · exact memoryForm_ite (hfrcd _) h
  split
  next ht => exact State.memoryForm_of_writeMtrrs h ht
  next => exact memoryForm_ite (State.writePerf_memoryForm h off v) h

/-- The registers at fixed offsets: those of the events, those that clear a status, those of a function that may be absent, and
plain ones. -/
theorem State.writeFixedOffset_memoryForm {s : State} (h : s.memoryForm) (off : Nat) (v : BitVec 32) :
    (s.writeFixedOffset off v).memoryForm := by
  have hevent : ∀ e k, (s.writeEvent e k v).memoryForm := fun e k => State.writeEvent_memoryForm h e k v
  have hcleared : ∀ {t : State} e, t.memoryForm → (t.statusCleared e).memoryForm := fun e ht =>
    State.statusCleared_memoryForm ht e
  have honly : ∀ {t : State} b, t.memoryForm → (s.onlyIf b t).memoryForm := fun _ ht => memoryForm_ite ht h
  unfold State.writeFixedOffset
  dsimp only
  split
  case h_6 | h_7 | h_8 | h_9 | h_20 | h_21 | h_22 | h_23 | h_31 | h_32 | h_33 | h_34 | h_37 | h_38 | h_39 | h_40 =>
    exact hevent _ _
  case h_5 => exact hcleared .fault (by exact h)
  case h_19 => exact memoryForm_ite (hcleared .inv (by exact h)) h
  case h_30 => exact hcleared .page (by exact h)
  case h_36 => exact memoryForm_ite (hcleared .perf (by exact h)) h
  case h_10 | h_11 | h_12 | h_13 | h_14 | h_15 | h_41 | h_42 | h_43 | h_44 | h_45 | h_46 => exact honly _ (by exact h)
  all_goals exact h

theorem State.writePlain_memoryForm {s : State} (h : s.memoryForm) (off : Nat) (v : BitVec 32) :
    (s.writePlain off v).memoryForm :=
  memoryForm_ite (State.writeFixedOffset_memoryForm h off v) (State.writeLocated_memoryForm h off v)

end Sys2Proof.Machine
end

section
/-! What an invariant of the machine must survive (10 R101), said once for any property of the state: the instructions, and the
operations that the agents around the unit perform beside them. The step is then the case split over the events, the register
words, the pieces of a request and the pending commands, whatever the property. -/

namespace Sys2Proof.Machine

/-- Every instruction, and every operation of an event that is no instruction, keeps `P`. -/
structure StepInvariant (P : State → Prop) : Prop where
  /-- The next event is taken, with the choice that comes with it. -/
  event {s : State} (h : P s) (i : List Input) (c : Choice) : P { s with inputs := i, choice := c }
  exec {s : State} (h : P s) (i : Instr) : nextSatisfies P (exec i s)
  undefinedVirtual {s : State} (h : P s) (cmd : BitVec 8) (oa : BitVec 48) : P (s.undefinedVirtual cmd oa)
  writePlain {s : State} (h : P s) (off : Nat) (v : BitVec 32) : P (s.writePlain off v)
  /-- The answer to a register read goes into the trace, and free values move on. -/
  regRead {s : State} (h : P s) (off width : Nat) : P (s.emit (.regRead off width (regValue s off width))).fresh
  softStore {s : State} (h : P s) (a : Nat) (bs : List Byte) : P (s.softStore a bs)
  drainStore {s : State} (h : P s) : P s.drainStore
  advance {s : State} (h : P s) : P s.advance
  noteFetch {s : State} (h : P s) : P s.noteFetch
  raiseIqe {s : State} (h : P s) (i : BitVec 4) : P (s.raiseIqe i)
  devTlbTimeout {s : State} (h : P s) (k : Nat) : P (s.devTlbTimeout k)
  countRequest {s : State} (h : P s) (sid : SourceId) (p : Option Pasid) (atf : Nat) : P (s.countRequest sid p atf)
  respond {s : State} (h : P s) (sid : SourceId) (r : Response) : P (s.respond sid r)
  /-- The oldest pending command completes. -/
  complete {s : State} (h : P s) {p : PendCmd} {rest : List PendCmd} (oldest : s.pendCmds = p :: rest) :
    P (finishCmd p { s with pendCmds := rest })
  commitNth {s : State} (h : P s) (n : Nat) : P (s.commitNth n)
  acceptNth {s : State} (h : P s) (n : Nat) : P (s.acceptNth n)
  readCompletion {s : State} (h : P s) (sid : SourceId) : P (s.readCompletion sid)
  evict {s : State} (h : P s) (c : CacheName) (n : Nat) : P (s.evict c n)
  releaseAll {s : State} (h : P s) : P s.releaseAll
  perfPulse {s : State} (h : P s) (g e n : Nat) : P (s.perfPulse g e n)
  resetUnit {s : State} (h : P s) (powerGood : Bool) : P (s.resetUnit powerGood)

namespace StepInvariant

variable {P : State → Prop} {s : State}

/-! ## Software -/

theorem runAll (inv : StepInvariant P) (h : P s) (is : List Instr) : nextSatisfies P (runAll is s) := by
  induction is generalizing s with
  | nil => exact nextSatisfies_next h
  | cons i rest ih => exact nextSatisfies_andThen (inv.exec h i) fun _ => ih

theorem runWord (inv : StepInvariant P) (h : P s) (raw : Raw) : nextSatisfies P (runWord raw s) := by
  unfold Machine.runWord
  split
  · exact inv.runAll h _
  · exact nextSatisfies_next (inv.undefinedVirtual h _ _)
  · exact nextSatisfies_next h

theorem softWrite4 (inv : StepInvariant P) (h : P s) (off : Nat) (v : BitVec 32) :
    nextSatisfies P (s.softWrite4 off v) := by
  unfold State.softWrite4
  split
  · exact nextSatisfies_refused P _
  split
  · exact inv.runWord h _
  · exact nextSatisfies_next (inv.writePlain h off v)

/-- A quadword write is two doubleword writes, in either order. -/
theorem softWrite (inv : StepInvariant P) (h : P s) (off width : Nat) (v : BitVec 64) :
    nextSatisfies P (s.softWrite off width v) := by
  have hboth : ∀ a b x y, nextSatisfies P (andThen (s.softWrite4 a x) fun t => t.softWrite4 b y) := fun a b x y =>
    nextSatisfies_andThen (inv.softWrite4 h a x) fun _ hu => inv.softWrite4 hu b y
  unfold State.softWrite
  split
  · exact nextSatisfies_refused P _
  split
  · exact nextSatisfies_next h
  split
  · exact inv.softWrite4 h off _
  split
  · exact hboth _ _ _ _
  · exact hboth _ _ _ _

theorem softRead (inv : StepInvariant P) (h : P s) (off width : Nat) : nextSatisfies P (s.softRead off width) :=
  iteInduction (fun _ => nextSatisfies_next (inv.regRead h off width)) fun _ => nextSatisfies_refused P _

theorem memStore (inv : StepInvariant P) (h : P s) (a : Nat) (bs : List Byte) : nextSatisfies P (s.memStore a bs) := by
  unfold State.memStore
  split
  · exact inv.softWrite h _ _ _
  split
  · exact nextSatisfies_next (inv.softStore h a bs)
  · exact nextSatisfies_fault P _

theorem memLoad (inv : StepInvariant P) (h : P s) (a n : Nat) : nextSatisfies P (s.memLoad a n) :=
  iteInduction (fun _ => inv.softRead h _ n) fun _ => nextSatisfies_next h

/-- The oldest pending command completes, unless that is refused. -/
theorem completeOldest (inv : StepInvariant P) (h : P s) : nextSatisfies P s.completeOldest := by
  unfold State.completeOldest
  split
  · exact nextSatisfies_next h
  next oldest => exact iteInduction (fun _ => nextSatisfies_refused P _) fun _ => nextSatisfies_next (inv.complete h oldest)

/-! ## The queue engine -/

/-- What the fetch meets decides between nothing, a queue error and the descriptor. -/
theorem iqTurn (inv : StepInvariant P) (h : P s) : nextSatisfies P s.iqTurn := by
  have hnote : P s.advance.noteFetch := inv.noteFetch (inv.advance h)
  unfold State.iqTurn
  dsimp only
  split
  · exact nextSatisfies_next hnote
  · exact nextSatisfies_next (inv.raiseIqe hnote _)
  · exact inv.exec hnote _

/-! ## Devices -/

theorem turnAway (inv : StepInvariant P) (h : P s) (r : MemReq) : P (s.turnAway r) :=
  iteInduction (fun _ => h) fun _ => inv.respond h _ _

theorem runPiece (inv : StepInvariant P) (h : P s) (atf : BitVec 2) (r : MemReq) :
    nextSatisfies P (runPiece atf s r) := by
  unfold Machine.runPiece
  split
  · exact inv.exec h _
  · exact nextSatisfies_next (inv.turnAway h r)

theorem runPieces (inv : StepInvariant P) (h : P s) (atf : BitVec 2) (l : List MemReq) :
    nextSatisfies P (runPieces atf l s) := by
  induction l generalizing s with
  | nil => exact nextSatisfies_next h
  | cons r rest ih => exact nextSatisfies_andThen (inv.runPiece h atf r) fun _ => ih

theorem inboundMem (inv : StepInvariant P) (h : P s) (atf : BitVec 2) (r : MemReq) :
    nextSatisfies P (s.inboundMem atf r) := by
  have hcount : P (s.countRequest r.sid (reqPasid r) atf.toNat) := inv.countRequest h _ _ _
  have hmalformed := nextSatisfies_next (inv.respond hcount r.sid .malformed)
  have haway := nextSatisfies_next (inv.turnAway h r)
  unfold State.inboundMem
  dsimp only
  split
  · exact hmalformed
  split
  · exact inv.exec h _
  · exact hmalformed
  · exact iteInduction (fun _ => haway) fun _ => iteInduction (fun _ => inv.exec h _) fun _ => inv.runPieces h atf _
  · exact haway
  · exact nextSatisfies_next (inv.turnAway hcount r)

theorem inbound (inv : StepInvariant P) (h : P s) (raw : Raw) : nextSatisfies P (s.inbound raw) := by
  cases raw with
  | mem atf r => exact inv.inboundMem h atf r
  | page m => exact inv.runWord h (.page m)
  | completion sid vec cc => exact inv.runWord h (.completion sid vec cc)
  | invalidation sid => exact nextSatisfies_next (inv.respond h sid .malformed)
  | _ => exact nextSatisfies_next h

/-! ## The step -/

/-- Every event of the environment, a reset included. -/
theorem process (inv : StepInvariant P) (h : P s) (e : Event) : nextSatisfies P (s.process e) := by
  cases e with
  | softWrite off width v => exact inv.softWrite h off width v
  | softRead off width => exact inv.softRead h off width
  | softLocked => exact nextSatisfies_refused P _
  | memStore a bs => exact inv.memStore h a bs
  | memLoad a n => exact inv.memLoad h a n
  | iqTurn => exact inv.iqTurn h
  | device raw => exact inv.inbound h raw
  | prqWrite w => exact inv.runWord h (.prqDsc w)
  | devTlbTimeout k => exact nextSatisfies_next (inv.devTlbTimeout h k)
  | complete => exact inv.completeOldest h
  | commit n => exact nextSatisfies_next (inv.commitNth h n)
  | accept n => exact nextSatisfies_next (inv.acceptNth h n)
  | evict c n => exact nextSatisfies_next (inv.evict h c n)
  | drainStore => exact nextSatisfies_next (inv.drainStore h)
  | readCompletion sid => exact nextSatisfies_next (inv.readCompletion h sid)
  | release => exact nextSatisfies_next (inv.releaseAll h)
  | perfPulse g e n => exact nextSatisfies_next (inv.perfPulse h g e n)
  | reset p => exact nextSatisfies_next (inv.resetUnit h p)

/-- One step of the machine: a turn of the queue engine, or the next event. -/
theorem step (inv : StepInvariant P) (h : P s) : nextSatisfies P (step s) := by
  unfold Machine.step
  split
  · exact inv.iqTurn (inv.event h s.inputs Choice.plain)
  · exact inv.process (inv.event h _ _) _

end StepInvariant

end Sys2Proof.Machine
end

section
/-! O6: every instruction keeps the canonical form of memory, and so does every step. -/

namespace Sys2Proof.Machine

/-! ## Instructions -/

theorem execInvWaitDsc_memoryForm {s : State} (h : s.memoryForm) (iflag sw fn pd : Bool) (data : BitVec 32)
    (saddr : BitVec 62) : nextSatisfies State.memoryForm (execInvWaitDsc iflag sw fn pd data saddr s) :=
  iteInduction (fun _ => nextSatisfies_refused _ _) fun _ =>
    nextSatisfies_next (State.runDsc_memoryForm h 5 _ fun hu => State.pend_memoryForm hu _)

/-- A completion goes behind the device's earlier stores. -/
theorem execInvalidationCompletion_memoryForm {s : State} (h : s.memoryForm) (sid : SourceId) (vec : BitVec 32)
    (cc : BitVec 3) : nextSatisfies State.memoryForm (execInvalidationCompletion sid vec cc s) := by
  have hdrained : (s.drainStoresOf sid).memoryForm := State.drainWhere_memoryForm h _
  refine nextSatisfies_next (memoryForm_ite h (memoryForm_ite ?_ (State.setIce_memoryForm hdrained sid)))
  exact State.advance_memoryForm (by exact hdrained)

theorem exec_memoryForm {s : State} (h : s.memoryForm) (i : Instr) : nextSatisfies State.memoryForm (exec i s) := by
  have hcounted : ∀ sid p atf, (s.countRequest sid p atf).memoryForm := fun _ _ _ => State.count_memoryForm h _
  have hpend : ∀ {p : Pending} {u : State}, u.memoryForm → (u.pend p).memoryForm := fun hu => State.pend_memoryForm hu _
  have hsubmit : ∀ {u : State}, u.memoryForm → ∀ i, nextSatisfies State.memoryForm (.next (u.submit i)) := fun hu i =>
    nextSatisfies_next (State.submitAny_memoryForm hu (.instr i))
  have hsupported : ∀ {u : State} (b : Bool) i, u.memoryForm →
      nextSatisfies State.memoryForm (.next (if b then u.submit i else s)) := fun _ i hu =>
    nextSatisfies_next (memoryForm_ite (State.submitAny_memoryForm hu (.instr i)) h)
  have hepm : ∀ v i, nextSatisfies State.memoryForm (.next (if hasPmr s.caps then s.writeEpm v i else s)) := fun v i =>
    nextSatisfies_next (memoryForm_ite (State.writeEpm_memoryForm h v i) h)
  have hecmd : ∀ i c oa, nextSatisfies State.memoryForm (.next (s.submitEcmd i c oa)) := fun i _ _ =>
    nextSatisfies_next (memoryForm_ite h (State.submitAny_memoryForm (by exact h) (.instr i)))
  have hvcmd : ∀ i c oa, nextSatisfies State.memoryForm (.next (s.submitVcmd i c oa)) := fun i _ _ =>
    nextSatisfies_next (memoryForm_ite (State.submitAny_memoryForm (by exact h) (.instr i)) h)
  cases i with
  | ccInvDsc =>
    exact nextSatisfies_next (State.runDsc_memoryForm h 1 _ fun hu => by exact State.implicitFlush_memoryForm hu)
  | iotlbInvDsc =>
    exact nextSatisfies_next (State.runDsc_memoryForm h 2 _ fun hu =>
      State.drainWhere_memoryForm (by exact State.implicitFlush_memoryForm hu) _)
  | devTlbInvDsc => exact nextSatisfies_next (State.runDsc_memoryForm h 3 _ hpend)
  | iecInvDsc =>
    exact nextSatisfies_next (State.runDsc_memoryForm h 4 _ fun hu =>
      State.acceptWhere_memoryForm (by exact State.implicitFlush_memoryForm hu) _)
  | invWaitDsc => exact execInvWaitDsc_memoryForm h _ _ _ _ _ _
  | pIotlbInvDsc =>
    exact nextSatisfies_next (State.runDsc_memoryForm h 6 _ fun hu => State.drainWhere_memoryForm
      (State.invalidatePGrade_memoryForm (State.implicitFlush_memoryForm hu) _ _ _ _ _ _) _)
  | pcInvDsc =>
    exact nextSatisfies_next (State.runDsc_memoryForm h 7 _ fun hu => by exact State.implicitFlush_memoryForm hu)
  | pDevTlbInvDsc => exact nextSatisfies_next (State.runDsc_memoryForm h 8 _ hpend)
  | pageGrpRespDsc => exact nextSatisfies_next (State.runDsc_memoryForm h 9 _ hpend)
  | pageReqDsc m => exact nextSatisfies_next (State.writePrq_memoryForm h m)
  | gcmdTeEnable => exact hsubmit h _
  | gcmdTeDisable => exact hsubmit h _
  | gcmdSrtp => exact iteInduction (fun _ => nextSatisfies_refused _ _) fun _ => hsubmit (by exact h) _
  | gcmdWbf => exact hsupported _ _ (by exact h)
  | gcmdQieEnable => exact hsupported _ _ h
  | gcmdQieDisable => exact hsupported _ _ h
  | gcmdIreEnable => exact hsupported _ _ h
  | gcmdIreDisable => exact hsupported _ _ h
  | gcmdSirtp => exact hsupported _ _ (by exact h)
  | gcmdCfiSet => exact hsupported _ _ h
  | gcmdCfiClear => exact hsupported _ _ h
  | ccmdIcc => exact hsubmit (by exact h) _
  | iotlbIvt => exact hsubmit (by exact h) _
  | pmenEpmEnable => exact hepm _ _
  | pmenEpmDisable => exact hepm _ _
  | ecmdEnable => exact hecmd _ _ _
  | ecmdDisable => exact hecmd _ _ _
  | ecmdResetConfig => exact hecmd _ _ _
  | ecmdResetValues => exact hecmd _ _ _
  | ecmdFreeze => exact hecmd _ _ _
  | ecmdUnfreeze => exact hecmd _ _ _
  | ecmdReserved => exact hecmd _ _ _
  | vcmdNull => exact hvcmd _ _ _
  | vcmdAllocate => exact hvcmd _ _ _
  | vcmdFree => exact hvcmd _ _ _
  | untranslatedRequest r => exact nextSatisfies_next (State.handleUntranslated_memoryForm (hcounted _ _ _) r)
  | translationRequest r => exact nextSatisfies_next (State.handleTranslation_memoryForm (hcounted _ _ _) r)
  | translatedRequest r => exact nextSatisfies_next (State.handleTranslated_memoryForm (hcounted _ _ _) r)
  | interruptRequest sid addr data =>
    exact nextSatisfies_next (State.handleInterrupt_memoryForm (hcounted _ _ _) sid addr data)
  | pageRequest m => exact nextSatisfies_next (State.handlePage_memoryForm h m)
  | invalidationCompletion sid vec cc => exact execInvalidationCompletion_memoryForm h sid vec cc

/-! ## Steps -/

/-- The canonical form survives every instruction and every operation of the agents; a reset leaves memory alone (70 R1451). -/
theorem memoryForm_stepInvariant : StepInvariant State.memoryForm where
  event h _ _ := h
  exec := exec_memoryForm
  undefinedVirtual := State.undefinedVirtual_memoryForm
  writePlain := State.writePlain_memoryForm
  regRead h _ _ := h
  softStore := State.softStore_memoryForm
  drainStore := State.drainStore_memoryForm
  advance := State.advance_memoryForm
  noteFetch := State.noteFetch_memoryForm
  raiseIqe := State.raiseIqe_memoryForm
  devTlbTimeout := State.devTlbTimeout_memoryForm
  countRequest h _ _ _ := State.count_memoryForm h _
  respond h _ _ := h
  complete h p _ _ := finishCmd_memoryForm (by exact h) p
  commitNth := State.commitNth_memoryForm
  acceptNth {s} h n := memoryForm_of_interrupts_frame h (s.acceptNth_frame n)
  readCompletion h _ := State.acceptWhere_memoryForm h _
  evict h c _ := by cases c <;> exact h
  releaseAll := State.releaseAll_memoryForm
  perfPulse := State.perfPulse_memoryForm
  resetUnit h _ := h

/-- Settles O6: the form is an invariant of the step. -/
theorem stepKeepsMemoryForm : Obligations.StepKeepsMemoryForm := fun _ t h hstep =>
  memoryForm_stepInvariant.step h t hstep

end Sys2Proof.Machine
end

section
/-! Rules for walks. -/

namespace Sys2Proof.Machine

variable {α β : Type}

/-- What the caller of a walk uses of its trail: the accesses made, the flag updates owed, the FPD bits met, and the IOTLB entry
that a faulted translation makes. The rest goes to the counters and to caches that the step does not fill. -/
structure Seen where
  bus : List UnitAccess
  upd : List FlagUpdate
  fpd : Bool
  iotlb : Option IotlbEntry

def Trail.seen (t : Trail) : Seen := { bus := t.bus, upd := t.upd, fpd := t.fpd, iotlb := t.iotlb }

/-- More accesses, newest first. -/
def Seen.reads (x : Seen) (l : List UnitAccess) : Seen := { x with bus := l ++ x.bus }

/-- More flag updates owed. -/
def Seen.owes (x : Seen) (l : List FlagUpdate) : Seen := { x with upd := x.upd ++ l }

/-- One more FPD bit met. -/
def Seen.meets (x : Seen) (b : Bool) : Seen := { x with fpd := x.fpd || b }

@[simp] theorem Seen.reads_bus (x : Seen) (l : List UnitAccess) : (x.reads l).bus = l ++ x.bus := rfl
@[simp] theorem Seen.reads_upd (x : Seen) (l : List UnitAccess) : (x.reads l).upd = x.upd := rfl
@[simp] theorem Seen.reads_fpd (x : Seen) (l : List UnitAccess) : (x.reads l).fpd = x.fpd := rfl
@[simp] theorem Seen.reads_iotlb (x : Seen) (l : List UnitAccess) : (x.reads l).iotlb = x.iotlb := rfl
@[simp] theorem Seen.owes_bus (x : Seen) (l : List FlagUpdate) : (x.owes l).bus = x.bus := rfl
@[simp] theorem Seen.owes_upd (x : Seen) (l : List FlagUpdate) : (x.owes l).upd = x.upd ++ l := rfl
@[simp] theorem Seen.owes_fpd (x : Seen) (l : List FlagUpdate) : (x.owes l).fpd = x.fpd := rfl
@[simp] theorem Seen.owes_iotlb (x : Seen) (l : List FlagUpdate) : (x.owes l).iotlb = x.iotlb := rfl
@[simp] theorem Seen.meets_bus (x : Seen) (b : Bool) : (x.meets b).bus = x.bus := rfl
@[simp] theorem Seen.meets_upd (x : Seen) (b : Bool) : (x.meets b).upd = x.upd := rfl
@[simp] theorem Seen.meets_fpd (x : Seen) (b : Bool) : (x.meets b).fpd = (x.fpd || b) := rfl
@[simp] theorem Seen.meets_iotlb (x : Seen) (b : Bool) : (x.meets b).iotlb = x.iotlb := rfl
@[simp] theorem Trail.empty_seen_bus : Trail.empty.seen.bus = [] := rfl
@[simp] theorem Trail.empty_seen_upd : Trail.empty.seen.upd = [] := rfl
@[simp] theorem Trail.empty_seen_fpd : Trail.empty.seen.fpd = false := rfl
@[simp] theorem Trail.empty_seen_iotlb : Trail.empty.seen.iotlb = none := rfl

/-- The walk finds `a`, and takes what is seen of its trail from `x` to `y`. -/
def yields (w : Walk α) (a : α) (x y : Seen) : Prop :=
  ∀ t : Trail, t.seen = x → ∃ t', w.run.run t = (.ok a, t') ∧ t'.seen = y

/-- The walk raises `c`, having made the accesses and met the FPD bits named. -/
def faults (w : Walk α) (c : Cond) (x : Seen) (bus : List UnitAccess) (fpd : Bool) : Prop :=
  ∀ t : Trail, t.seen = x → ∃ t', w.run.run t = (.error c, t') ∧ t'.bus = bus ∧ t'.fpd = fpd

/-! ## One step of a walk -/

theorem yields_pure (a : α) (x : Seen) : yields (pure a) a x x := fun t h => ⟨t, rfl, h⟩

theorem faults_throw (c : Cond) (x : Seen) : faults (throw c : Walk α) c x x.bus x.fpd := by
  rintro t rfl
  exact ⟨t, rfl, rfl, rfl⟩

theorem yields_modify {f : Trail → Trail} {x y : Seen} (h : ∀ t : Trail, t.seen = x → (f t).seen = y) :
    yields (modify f : Walk Unit) () x y := fun t ht => ⟨f t, rfl, h t ht⟩

/-- A change of the trail that its caller does not see. -/
theorem yields_unseen {f : Trail → Trail} (h : ∀ t : Trail, (f t).seen = t.seen) (x : Seen) :
    yields (modify f : Walk Unit) () x x := yields_modify fun t ht => (h t).trans ht

theorem yields_check {b : Bool} (h : b = false) (c : Cond) (x : Seen) : yields (check b c) () x x := by
  subst h
  exact yields_pure () x

theorem faults_check {b : Bool} (h : b = true) (c : Cond) (x : Seen) : faults (check b c) c x x.bus x.fpd := by
  subst h
  exact faults_throw c x

/-! ## One step after another -/

theorem run_bind_ok {w : Walk α} {k : α → Walk β} {t t' : Trail} {a : α} (h : w.run.run t = (.ok a, t')) :
    (w >>= k).run.run t = (k a).run.run t' := by
  change (ExceptT.bindCont k (w.run.run t).1).run (w.run.run t).2 = _
  rw [h]
  rfl

theorem run_bind_error {w : Walk α} {k : α → Walk β} {t t' : Trail} {c : Cond} (h : w.run.run t = (.error c, t')) :
    (w >>= k).run.run t = (.error c, t') := by
  change (ExceptT.bindCont k (w.run.run t).1).run (w.run.run t).2 = _
  rw [h]
  rfl

theorem yields.bind {w : Walk α} {k : α → Walk β} {a : α} {b : β} {x y z : Seen} (h : yields w a x y)
    (hk : yields (k a) b y z) : yields (w >>= k) b x z := by
  intro t ht
  obtain ⟨t', hrun, hseen⟩ := h t ht
  rw [run_bind_ok hrun]
  exact hk t' hseen

theorem yields.bind_faults {w : Walk α} {k : α → Walk β} {a : α} {c : Cond} {x y : Seen} {bus : List UnitAccess}
    {fpd : Bool} (h : yields w a x y) (hk : faults (k a) c y bus fpd) : faults (w >>= k) c x bus fpd := by
  intro t ht
  obtain ⟨t', hrun, hseen⟩ := h t ht
  rw [run_bind_ok hrun]
  exact hk t' hseen

theorem faults.bind {w : Walk α} {c : Cond} {x : Seen} {bus : List UnitAccess} {fpd : Bool} (h : faults w c x bus fpd)
    (k : α → Walk β) : faults (w >>= k) c x bus fpd := by
  intro t ht
  obtain ⟨t', hrun, hseen⟩ := h t ht
  exact ⟨t', run_bind_error hrun, hseen⟩

/-- The walk comes to `w'`, what is seen of its trail taken from `x` to `y`. -/
def leads (w w' : Walk α) (x y : Seen) : Prop := ∀ t : Trail, t.seen = x → ∃ t', w.run.run t = w'.run.run t' ∧ t'.seen = y

theorem leads_refl (w : Walk α) (x : Seen) : leads w w x x := fun t h => ⟨t, rfl, h⟩

theorem yields.leads {w : Walk α} {k : α → Walk β} {w' : Walk β} {a : α} {x y z : Seen} (h : yields w a x y)
    (hk : leads (k a) w' y z) : leads (w >>= k) w' x z := by
  intro t ht
  obtain ⟨t', hrun, hseen⟩ := h t ht
  rw [run_bind_ok hrun]
  exact hk t' hseen

theorem leads.trans {w w' w'' : Walk α} {x y z : Seen} (h : leads w w' x y) (h' : leads w' w'' y z) : leads w w'' x z := by
  intro t ht
  obtain ⟨t', hrun, hseen⟩ := h t ht
  rw [hrun]
  exact h' t' hseen

theorem leads.yields {w w' : Walk α} {a : α} {x y z : Seen} (h : leads w w' x y) (h' : yields w' a y z) : yields w a x z := by
  intro t ht
  obtain ⟨t', hrun, hseen⟩ := h t ht
  rw [hrun]
  exact h' t' hseen

theorem leads.faults {w w' : Walk α} {c : Cond} {x y : Seen} {bus : List UnitAccess} {fpd : Bool} (h : leads w w' x y)
    (h' : faults w' c y bus fpd) : faults w c x bus fpd := by
  intro t ht
  obtain ⟨t', hrun, hseen⟩ := h t ht
  rw [hrun]
  exact h' t' hseen

/-- The trail read, for a continuation that does not depend on it. -/
theorem yields_get_bind {k : Trail → Walk β} {b : β} {x y : Seen} (h : ∀ t, yields (k t) b x y) :
    yields (get >>= k) b x y := fun t ht => h t t ht

theorem faults_get_bind {k : Trail → Walk β} {c : Cond} {x : Seen} {bus : List UnitAccess} {fpd : Bool}
    (h : ∀ t, faults (k t) c x bus fpd) : faults (get >>= k) c x bus fpd := fun t ht => h t t ht

/-! ## Results kept as values -/

theorem run_attempt (w : Walk α) (t : Trail) : (attempt w).run.run t = (.ok (w.run.run t).1, (w.run.run t).2) := rfl

theorem yields.attempt {w : Walk α} {a : α} {x y : Seen} (h : yields w a x y) : yields (attempt w) (.ok a) x y := by
  intro t ht
  obtain ⟨t', hrun, hseen⟩ := h t ht
  exact ⟨t', by rw [run_attempt, hrun], hseen⟩

/-- A fault kept as a value: what goes on with it sees the accesses and the FPD bits, and raises a fault in the end. -/
theorem faults.attempt_bind {w : Walk α} {k : Except Cond α → Walk β} {c c' : Cond} {x : Seen}
    {bus bus' : List UnitAccess} {fpd fpd' : Bool} (h : faults w c x bus fpd)
    (hk : ∀ y : Seen, y.bus = bus → y.fpd = fpd → faults (k (.error c)) c' y bus' fpd') :
    faults (attempt w >>= k) c' x bus' fpd' := by
  intro t ht
  obtain ⟨t', hrun, hbus, hfpd⟩ := h t ht
  have hkept : (attempt w).run.run t = (.ok (.error c), t') := by rw [run_attempt, hrun]
  rw [run_bind_ok hkept]
  exact hk t'.seen hbus hfpd t' rfl

/-! ## Walks from any trail -/

/-- From any trail the walk finds `a`, having made the accesses `l`, newest first, and owing the flag updates `u`. -/
def finds (w : Walk α) (a : α) (l : List UnitAccess) (u : List FlagUpdate) : Prop :=
  ∀ x : Seen, yields w a x ((x.reads l).owes u)

/-- From any trail the walk raises `c`, having made the accesses `l` and met no FPD bit. -/
def stops (w : Walk α) (c : Cond) (l : List UnitAccess) : Prop := ∀ x : Seen, faults w c x (l ++ x.bus) x.fpd

theorem finds_pure (a : α) : finds (pure a) a [] [] := by
  intro x
  simpa [Seen.reads, Seen.owes] using yields_pure a x

theorem stops_throw (c : Cond) : stops (throw c : Walk α) c [] := faults_throw c

theorem finds_unseen {f : Trail → Trail} (h : ∀ t : Trail, (f t).seen = t.seen) : finds (modify f : Walk Unit) () [] [] := by
  intro x
  simpa [Seen.reads, Seen.owes] using yields_unseen h x

theorem finds_check {b : Bool} (h : b = false) (c : Cond) : finds (check b c) () [] [] := by
  subst h
  exact finds_pure ()

theorem stops_check {b : Bool} (h : b = true) (c : Cond) : stops (check b c) c [] := by
  subst h
  exact stops_throw c

theorem finds_owe (u : List FlagUpdate) : finds (modify fun t : Trail => { t with upd := t.upd ++ u }) () [] u := by
  intro x
  exact yields_modify fun t ht => by rw [← ht]; rfl

theorem finds.bind {w : Walk α} {k : α → Walk β} {a : α} {b : β} {l l' : List UnitAccess} {u u' : List FlagUpdate}
    (h : finds w a l u) (hk : finds (k a) b l' u') : finds (w >>= k) b (l' ++ l) (u ++ u') := by
  intro x
  simpa [Seen.reads, Seen.owes] using (h x).bind (hk _)

theorem finds.bind_stops {w : Walk α} {k : α → Walk β} {a : α} {c : Cond} {l l' : List UnitAccess} {u : List FlagUpdate}
    (h : finds w a l u) (hk : stops (k a) c l') : stops (w >>= k) c (l' ++ l) := by
  intro x
  simpa [Seen.reads, Seen.owes] using (h x).bind_faults (hk _)

theorem stops.bind {w : Walk α} {c : Cond} {l : List UnitAccess} (h : stops w c l) (k : α → Walk β) : stops (w >>= k) c l :=
  fun x => (h x).bind k

@[simp] theorem Seen.owes_nil (x : Seen) : x.owes [] = x := by simp [Seen.owes]

@[simp] theorem Seen.reads_nil (x : Seen) : x.reads [] = x := rfl

theorem finds.yields {w : Walk α} {a : α} {l : List UnitAccess} (h : finds w a l []) (x : Seen) :
    yields w a x (x.reads l) := by
  simpa using h x

theorem finds.yields_same {w : Walk α} {a : α} (h : finds w a [] []) (x : Seen) : Machine.yields w a x x := by
  simpa using h x

theorem stops.faults_reads {w : Walk α} {c : Cond} {l : List UnitAccess} (h : stops w c l) (x : Seen) :
    faults w c x (l ++ x.bus) x.fpd := h x

theorem stops.faults_same {w : Walk α} {c : Cond} (h : stops w c []) (x : Seen) : faults w c x x.bus x.fpd := h x

/-- A step without accesses and updates, first. -/
theorem finds.skip {w : Walk α} {k : α → Walk β} {a : α} {b : β} {l : List UnitAccess} {u : List FlagUpdate}
    (h : finds w a [] []) (hk : finds (k a) b l u) : finds (w >>= k) b l u := by
  simpa using h.bind hk

theorem finds.skip_stops {w : Walk α} {k : α → Walk β} {a : α} {c : Cond} {l : List UnitAccess}
    (h : finds w a [] []) (hk : stops (k a) c l) : stops (w >>= k) c l := by
  simpa using h.bind_stops hk

/-- A step without accesses and updates, last. -/
theorem finds.last {w : Walk α} {k : α → Walk β} {a : α} {b : β} {l : List UnitAccess} {u : List FlagUpdate}
    (h : finds w a l u) (hk : finds (k a) b [] []) : finds (w >>= k) b l u := by
  simpa using h.bind hk

theorem finds.last_stops {w : Walk α} {k : α → Walk β} {a : α} {c : Cond} {l : List UnitAccess} {u : List FlagUpdate}
    (h : finds w a l u) (hk : stops (k a) c []) : stops (w >>= k) c l := by
  simpa using h.bind_stops hk

/-- A choice between two walks with one outcome. -/
theorem finds.ite {p : Prop} [Decidable p] {w w' : Walk α} {a : α} {l : List UnitAccess} {u : List FlagUpdate}
    (h : finds w a l u) (h' : finds w' a l u) : finds (if p then w else w') a l u := by
  split
  · exact h
  · exact h'

theorem stops.ite {p : Prop} [Decidable p] {w w' : Walk α} {c : Cond} {l : List UnitAccess}
    (h : stops w c l) (h' : stops w' c l) : stops (if p then w else w') c l := by
  split
  · exact h
  · exact h'

theorem finds_get_bind {k : Trail → Walk β} {b : β} {l : List UnitAccess} {u : List FlagUpdate}
    (h : ∀ t, finds (k t) b l u) : finds (get >>= k) b l u := fun x => yields_get_bind fun t => h t x

theorem stops_get_bind {k : Trail → Walk β} {c : Cond} {l : List UnitAccess}
    (h : ∀ t, stops (k t) c l) : stops (get >>= k) c l := fun x => faults_get_bind fun t => h t x

theorem finds.attempt {w : Walk α} {a : α} {l : List UnitAccess} {u : List FlagUpdate} (h : finds w a l u) :
    finds (attempt w) (.ok a) l u := fun x => (h x).attempt

/-- A fault kept as a value: what goes on with it raises a fault in the end. -/
theorem stops.attempt_bind {w : Walk α} {k : Except Cond α → Walk β} {c c' : Cond} {l l' : List UnitAccess}
    (h : stops w c l) (hk : stops (k (.error c)) c' l') : stops (attempt w >>= k) c' (l' ++ l) := by
  intro x
  rw [List.append_assoc]
  refine (h x).attempt_bind fun y hbus hfpd => ?_
  rw [← hbus, ← hfpd]
  exact hk y

/-- A fault kept as a value and raised at once, as this condition or as another. -/
theorem stops.attempt_rethrow {w : Walk α} {k : Except Cond α → Walk β} {c c' : Cond} {l : List UnitAccess}
    (h : stops w c l) (hk : stops (k (.error c)) c' []) : stops (attempt w >>= k) c' l := by
  simpa using h.attempt_bind hk

/-! ## Walks that differ in what they note -/

/-- `w` ends as `w'` does, with what is seen of the trail, or after a fault the accesses and the FPD bits, the same. -/
def alike (w w' : Walk α) : Prop := ∀ t : Trail,
  (∀ a t', w'.run.run t = (.ok a, t') → ∃ t'', w.run.run t = (.ok a, t'') ∧ t''.seen = t'.seen) ∧
  (∀ c t', w'.run.run t = (.error c, t') → ∃ t'', w.run.run t = (.error c, t'') ∧ t''.bus = t'.bus ∧ t''.fpd = t'.fpd)

theorem alike.yields {w w' : Walk α} (h : alike w w') {a : α} {x y : Seen} (hf : yields w' a x y) : yields w a x y := by
  intro t ht
  obtain ⟨t', hrun, hseen⟩ := hf t ht
  obtain ⟨t'', hrun', hseen'⟩ := (h t).1 a t' hrun
  exact ⟨t'', hrun', hseen'.trans hseen⟩

theorem alike.faults {w w' : Walk α} (h : alike w w') {c : Cond} {x : Seen} {bus : List UnitAccess} {fpd : Bool}
    (hf : faults w' c x bus fpd) : faults w c x bus fpd := by
  intro t ht
  obtain ⟨t', hrun, hbus, hfpd⟩ := hf t ht
  obtain ⟨t'', hrun', hbus', hfpd'⟩ := (h t).2 c t' hrun
  exact ⟨t'', hrun', hbus'.trans hbus, hfpd'.trans hfpd⟩

theorem alike.finds {w w' : Walk α} (h : alike w w') {a : α} {l : List UnitAccess} {u : List FlagUpdate} (hf : finds w' a l u) :
    finds w a l u := fun x => h.yields (hf x)

theorem alike.stops {w w' : Walk α} (h : alike w w') {c : Cond} {l : List UnitAccess} (hf : stops w' c l) : stops w c l :=
  fun x => h.faults (hf x)

theorem run_attempt_ok {w : Walk α} {t t' : Trail} {a : α} (h : w.run.run t = (.ok a, t')) :
    (attempt w).run.run t = (.ok (.ok a), t') := by rw [run_attempt, h]

theorem run_attempt_error {w : Walk α} {t t' : Trail} {c : Cond} (h : w.run.run t = (.error c, t')) :
    (attempt w).run.run t = (.ok (.error c), t') := by rw [run_attempt, h]

/-- A walk whose faults are noted on the way. -/
theorem alike_attempt {w : Walk α} {k : Except Cond α → Walk α} (hok : ∀ a, k (.ok a) = pure a)
    (herror : ∀ (c : Cond) (t : Trail), ∃ t', (k (.error c)).run.run t = (.error c, t') ∧ t'.bus = t.bus ∧ t'.fpd = t.fpd) :
    alike (attempt w >>= k) w := by
  intro t
  constructor
  · intro a t' h
    rw [run_bind_ok (run_attempt_ok h), hok]
    exact ⟨t', rfl, rfl⟩
  · intro c t' h
    rw [run_bind_ok (run_attempt_error h)]
    exact herror c t'

end Sys2Proof.Machine
end

section
/-! What a walk reads. -/

namespace Sys2Proof.Machine

/-- `s` with the fields that counting moves as they stand in `v` (46 R1255). -/
def State.counted (s v : State) : State := { s with perf := v.perf, perfEv := v.perfEv, out := v.out }

theorem eq_counted_of_onlyCounted {s v : State} (h : onlyCounted s v) : v = s.counted v := by
  obtain ⟨hv, -⟩ := h
  rw [hv]
  rfl

theorem ssLevels_counted (s v : State) (p : SsParams) (a : Access) (addr : Addr) (l : List Nat) (table : Addr)
    (first r w : Bool) (path : List PathEntry) :
    ssLevels (s.counted v) p a addr l table first r w path = ssLevels s p a addr l table first r w path := by
  induction l generalizing table first r w path with
  | nil => rfl
  | cons sh rest ih =>
    unfold ssLevels
    simp only [ih]
    rfl

theorem ssFlags_counted (s v : State) (snooped d : Bool) (path : List PathEntry) :
    ssFlags (s.counted v) snooped d path = ssFlags s snooped d path := by
  induction path with
  | nil => rfl
  | cons x rest ih =>
    unfold ssFlags
    simp only [ih]
    rfl

theorem fsFlags_counted (s v : State) (snooped eafe d : Bool) (path : List PathEntry) :
    fsFlags (s.counted v) snooped eafe d path = fsFlags s snooped eafe d path := by
  induction path with
  | nil => rfl
  | cons x rest ih =>
    unfold fsFlags
    simp only [ih]
    rfl

theorem ssFind_counted (s v : State) (p : SsParams) (a : Access) (addr : Addr) :
    ssFind (s.counted v) p a addr = ssFind s p a addr := by
  unfold ssFind
  simp only [ssLevels_counted]
  rfl

theorem ssFinish_counted (s v : State) (p : SsParams) (lenient : Bool) (a : Access) (x : SsFound × List PathEntry) :
    ssFinish (s.counted v) p lenient a x = ssFinish s p lenient a x := by
  unfold ssFinish
  simp only [ssFlags_counted]
  rfl

theorem ssWalk_counted (s v : State) (p : SsParams) (lenient : Bool) (a : Access) (addr : Addr) :
    ssWalk (s.counted v) p lenient a addr = ssWalk s p lenient a addr := by
  unfold ssWalk
  simp only [ssFind_counted, ssFinish_counted]

theorem ssLast_counted (s v : State) (p : SsParams) (lenient : Bool) (a : Access) (rw us : Bool) (addr : Addr) :
    ssLast (s.counted v) p lenient a rw us addr = ssLast s p lenient a rw us addr := by
  unfold ssLast
  simp only [ssFind_counted, ssFinish_counted]

theorem nestedTranslate_counted (s v : State) (p : SsParams) (gpa : Addr) (first : Bool) :
    nestedTranslate (s.counted v) p gpa first = nestedTranslate s p gpa first := by
  unfold nestedTranslate
  simp only [ssWalk_counted]

theorem fsLevels_counted (s v : State) (p : FsParams) (addr : Addr) (l : List Nat) (table : Addr)
    (first host tblW rw us : Bool) (pend : Option PscEntry) (path : List PathEntry) :
    fsLevels (s.counted v) p addr l table first host tblW rw us pend path =
      fsLevels s p addr l table first host tblW rw us pend path := by
  induction l generalizing table first host tblW rw us pend path with
  | nil => rfl
  | cons sh rest ih =>
    unfold fsLevels
    simp only [ih, nestedTranslate_counted]
    rfl

theorem fsWalk_counted (s v : State) (p : FsParams) (lenient : Bool) (a : Access) (addr : Addr) :
    fsWalk (s.counted v) p lenient a addr = fsWalk s p lenient a addr := by
  unfold fsWalk fsFinal
  simp only [fsLevels_counted, ssLast_counted, fsFlags_counted]
  rfl

theorem translate_counted (s v : State) (k : ReqKind) (r : MemReq) :
    Machine.translate (s.counted v) k r = Machine.translate s k r := by
  unfold Machine.translate translateScalable translateLegacy
  simp only [fsWalk_counted, ssLast_counted]
  rfl

end Sys2Proof.Machine
end

section
/-! Requests. -/

namespace Sys2Proof.Machine

variable {α : Type} {s : State}

/-! ## Caches that the step does not fill -/

/-- The step fills no cache but, perhaps, the IOTLB. -/
def State.fillsIotlbAtMost (s : State) : Prop := s.choice.fill = [] ∨ s.choice.fill = [.iotlb]

theorem State.fillPsc_of_fillsIotlbAtMost (h : s.fillsIotlbAtMost) (l : List PscEntry) : s.fillPsc l = s :=
  if_neg (by rcases h with h | h <;> simp [Choice.fills, h])

theorem State.fillCtx_of_fillsIotlbAtMost (h : s.fillsIotlbAtMost) (e : CtxEntry) : s.fillCtx e = s :=
  if_neg (by rcases h with h | h <;> simp [Choice.fills, h])

theorem State.fillPasid_of_fillsIotlbAtMost (h : s.fillsIotlbAtMost) (e : PasidEntry) : s.fillPasid e = s :=
  if_neg (by rcases h with h | h <;> simp [Choice.fills, h])

theorem State.fillIotlb_of_fillsNone (h : s.choice.fill = []) (e : IotlbEntry) : s.fillIotlb e = s :=
  if_neg (by simp [Choice.fills, h])

theorem State.withSome_eq_self {β : Type} {f : State → β → State} (h : ∀ e, f s e = s) (o : Option β) : s.withSome f o = s := by
  cases o with
  | none => rfl
  | some e => exact h e

/-- Nothing of a trail is kept where the IOTLB alone may be filled and the trail makes no entry for it. -/
theorem State.keepTrail_eq_self (h : s.fillsIotlbAtMost) {t : Trail} (ht : s.choice.fill = [] ∨ t.iotlb = none) :
    s.keepTrail t = s := by
  have hiotlb : s.withSome State.fillIotlb t.iotlb = s := by
    rcases ht with hfill | hnone
    · exact State.withSome_eq_self (State.fillIotlb_of_fillsNone hfill) _
    · rw [hnone]
      rfl
  rw [State.keepTrail, State.withSome_eq_self (State.fillCtx_of_fillsIotlbAtMost h),
    State.withSome_eq_self (State.fillPasid_of_fillsIotlbAtMost h), hiotlb]

/-! ## A walk run -/

/-- Counting does not look at the bus. -/
theorem onlyCounted_withBus {s u : State} {b : List UnitAccess} (h : onlyCounted { s with bus := b } u) :
    onlyCounted s { u with bus := s.bus } ∧ u = { u with bus := b } := by
  obtain ⟨hu, hsetup, hout⟩ := h
  refine ⟨⟨?_, hsetup, hout⟩, ?_⟩ <;> rw [hu]

/-- The state after the accesses and the counting of a walk. -/
theorem State.countTrail_onlyCounted (q : s.quiet .perf) (t : Trail) (sid : SourceId) (p : Option Pasid) (atf : Nat) :
    ∃ v, onlyCounted s v ∧ (s.accessAll t).countTrail t sid p atf = { v with bus := t.bus ++ s.bus } := by
  have hcounted : onlyCounted { s with bus := t.bus ++ s.bus } ((s.accessAll t).countTrail t sid p atf) :=
    (s.accessAll t).countAll_only _ q
  obtain ⟨hv, hu⟩ := onlyCounted_withBus hcounted
  exact ⟨_, hv, hu⟩

theorem runWalk_of_faults {w : Walk α} {c : Cond} {reads : List UnitAccess} {fpd : Bool}
    (hw : faults w c Trail.empty.seen reads fpd) (hu : s.uncached) (q : s.quiet .perf) (sid : SourceId) (p : Option Pasid)
    (atf : Nat) :
    ∃ v t, onlyCounted s v ∧ s.runWalk w sid p atf = (.error c, t, { v with bus := reads ++ s.bus }) ∧ t.fpd = fpd := by
  obtain ⟨t, hrun, rfl, hfpd⟩ := hw _ rfl
  obtain ⟨v, hv, hcount⟩ := State.countTrail_onlyCounted q t sid p atf
  have hchoice : v.choice = s.choice := by rw [hv.1]
  have hfill : ({ v with bus := t.bus ++ s.bus } : State).choice.fill = [] := hchoice ▸ hu.2
  refine ⟨v, t, hv, ?_, hfpd⟩
  unfold State.runWalk
  simp only [hrun, hcount, State.keepTrail_eq_self (.inl hfill) (.inl hfill), State.fillPsc_of_fillsIotlbAtMost (.inl hfill)]

/-- A list of flag updates performed, oldest first. -/
def State.updateAll (s : State) (l : List FlagUpdate) : State := l.foldl State.updateFlags s

theorem State.updateAll_choice (s : State) (l : List FlagUpdate) : (s.updateAll l).choice = s.choice := by
  obtain ⟨m, b, x, h⟩ := foldl_updateFlags_frame l s
  rw [State.updateAll, h]

theorem runWalk_of_yields {w : Walk α} {a : α} {y : Seen} (hw : yields w a Trail.empty.seen y) (hy : y.iotlb = none)
    (hfill : s.fillsIotlbAtMost) (q : s.quiet .perf) (sid : SourceId) (p : Option Pasid) (atf : Nat) :
    ∃ v t, onlyCounted s v ∧
      s.runWalk w sid p atf = (.ok a, t, State.updateAll { v with bus := y.bus ++ s.bus } y.upd) ∧ t.fpd = y.fpd := by
  obtain ⟨t, hrun, rfl⟩ := hw _ rfl
  obtain ⟨v, hv, hcount⟩ := State.countTrail_onlyCounted q t sid p atf
  have hchoice : v.choice = s.choice := by rw [hv.1]
  have hfillv : ({ v with bus := t.bus ++ s.bus } : State).fillsIotlbAtMost := by
    rwa [State.fillsIotlbAtMost, hchoice]
  have hfillu : (State.updateAll { v with bus := t.bus ++ s.bus } t.upd).fillsIotlbAtMost := by
    rwa [State.fillsIotlbAtMost, State.updateAll_choice]
  refine ⟨v, t, hv, ?_, rfl⟩
  unfold State.runWalk
  simp only [hrun, hcount, State.keepTrail_eq_self hfillv (.inr hy)]
  exact congrArg (fun u => (Except.ok a, t, u)) (State.fillPsc_of_fillsIotlbAtMost hfillu _)

/-! ## Untranslated requests with translation on -/

/-- Translation is on, and the request is no one for the interrupt range (42 R1001). -/
def State.walksFor (s : State) (r : MemReq) : Prop :=
  s.gsts.tes = true ∧ (r.pasid = none → inInterruptRange r.addr = false)

/-- What follows the walk of an untranslated request: it is blocked or forwarded (42 R1030, R1032). -/
def afterWalk (r : MemReq) : Except Cond Found × Trail × State → State
  | (.error c, t, u) => u.block .untranslated r c t.fpd
  | (.ok f, t, u) => u.forwardFound r f t.fpd

theorem State.handleUntranslated_of_walksFor {r : MemReq} (h : s.walksFor r) :
    s.handleUntranslated r = afterWalk r (s.runWalk (Machine.translate s .untranslated r) r.sid (reqPasid r) 0) := by
  obtain ⟨htes, hrange⟩ := h
  have hno : ((r.pasid.isNone || !s.gsts.tes) && inInterruptRange r.addr) = false := by
    cases hp : r.pasid <;> simp [htes, hrange, hp]
  unfold State.handleUntranslated
  rw [if_neg (by simp [hno]), if_neg (by simp [htes])]
  rcases s.runWalk (Machine.translate s .untranslated r) r.sid (reqPasid r) 0 with ⟨_ | _, _, _⟩ <;> rfl

/-- The occurrence of the request itself is counted first, of which its walk takes no notice. -/
theorem State.countRequest_onlyCounted (q : s.quiet .perf) (sid : SourceId) (p : Option Pasid) (atf : Nat) :
    onlyCounted s (s.countRequest sid p atf) := s.count_only _ q

theorem countRequest_translate (s : State) (q : s.quiet .perf) (sid : SourceId) (p : Option Pasid) (atf : Nat) (k : ReqKind)
    (r : MemReq) : Machine.translate (s.countRequest sid p atf) k r = Machine.translate s k r := by
  rw [eq_counted_of_onlyCounted (State.countRequest_onlyCounted q sid p atf), translate_counted]

theorem exec_of_faults {r : MemReq} {c : Cond} {reads : List UnitAccess} {fpd : Bool} (hr : s.walksFor r)
    (hu : s.uncached) (q : s.quiet .perf)
    (hw : faults (Machine.translate s .untranslated r) c Trail.empty.seen reads fpd) :
    ∃ v, onlyCounted s v ∧ exec (.untranslatedRequest r) s =
      .next (State.block { v with bus := reads ++ s.bus } .untranslated r c fpd) := by
  have h0 := State.countRequest_onlyCounted q r.sid (reqPasid r) 0
  have heq := eq_counted_of_onlyCounted h0
  have hbus : (s.countRequest r.sid (reqPasid r) 0).bus = s.bus := by rw [heq]; rfl
  have hr0 : (s.countRequest r.sid (reqPasid r) 0).walksFor r := by rw [heq]; exact hr
  have hu0 : (s.countRequest r.sid (reqPasid r) 0).uncached := by rw [heq]; exact hu
  rw [← countRequest_translate s q r.sid (reqPasid r) 0] at hw
  obtain ⟨v, t, hv, hrun, rfl⟩ := runWalk_of_faults hw hu0 (onlyCounted_quiet h0 q) r.sid (reqPasid r) 0
  refine ⟨v, onlyCounted_trans h0 hv, ?_⟩
  change Host.Outcome.next (State.handleUntranslated _ r) = _
  rw [State.handleUntranslated_of_walksFor hr0, hrun, hbus, afterWalk]

theorem exec_of_yields {r : MemReq} {f : Found} {y : Seen} (hr : s.walksFor r) (hfill : s.fillsIotlbAtMost)
    (q : s.quiet .perf) (hw : yields (Machine.translate s .untranslated r) f Trail.empty.seen y) (hy : y.iotlb = none) :
    ∃ v, onlyCounted s v ∧ exec (.untranslatedRequest r) s =
      .next ((State.updateAll { v with bus := y.bus ++ s.bus } y.upd).forwardFound r f y.fpd) := by
  have h0 := State.countRequest_onlyCounted q r.sid (reqPasid r) 0
  have heq := eq_counted_of_onlyCounted h0
  have hbus : (s.countRequest r.sid (reqPasid r) 0).bus = s.bus := by rw [heq]; rfl
  have hr0 : (s.countRequest r.sid (reqPasid r) 0).walksFor r := by rw [heq]; exact hr
  have hfill0 : (s.countRequest r.sid (reqPasid r) 0).fillsIotlbAtMost := by rw [heq]; exact hfill
  rw [← countRequest_translate s q r.sid (reqPasid r) 0] at hw
  obtain ⟨v, t, hv, hrun, hfpd⟩ := runWalk_of_yields hw hy hfill0 (onlyCounted_quiet h0 q) r.sid (reqPasid r) 0
  refine ⟨v, onlyCounted_trans h0 hv, ?_⟩
  change Host.Outcome.next (State.handleUntranslated _ r) = _
  rw [State.handleUntranslated_of_walksFor hr0, hrun, hbus, ← hfpd, afterWalk]

/-! ## Blocked requests -/

theorem State.reportFault_of_suppressed {x : FaultReport} (hq : x.qualified = true) (hf : x.fpd = true) :
    s.reportFault x = s := by
  simp [State.reportFault, hq, hf]

/-- A fault that no FPD bit suppresses, with a record free for it (60 R1370). -/
theorem State.reportFault_recorded {x : FaultReport} (hs : (x.qualified && x.fpd) = false) (hfree : s.recordFree x.sid)
    (q : s.quiet .fault) : onlyReported s (s.reportFault x) ∧ recorded s (s.reportFault x) (x.record s.caps) := by
  obtain ⟨hpfo, ⟨old, hold, hf⟩, hcomp⟩ := hfree
  have hnot : (s.plat.faultCompression && s.frcd.any (fun y => y.f && y.sid == x.sid)) = false := by
    rw [Bool.eq_false_iff]
    intro h
    obtain ⟨hc, y, hy, hyf, hysid⟩ : s.plat.faultCompression = true ∧ ∃ y ∈ s.frcd, y.f = true ∧ y.sid = x.sid := by
      simpa using h
    exact hcomp hc y hy hyf hysid
  unfold State.reportFault
  have hpfo' : ¬ s.fsts.pfo = true := by simp [hpfo]
  simp only [hs, if_neg hpfo', hnot, hold, hf, Bool.false_eq_true, if_false]
  by_cases hppf : s.ppf = true
  · rw [if_pos hppf]
    exact ⟨rfl, rfl, rfl, by rw [if_pos hppf]; exact ⟨rfl, rfl, rfl⟩⟩
  · rw [if_neg hppf]
    obtain ⟨ev, out, hev, hraised⟩ := State.raiseEvent_quiet
      { s with fsts := { s.fsts with fri := BitVec.ofNat 8 s.faultIdx }, frcd := s.frcd.set s.faultIdx (x.record s.caps)
               faultIdx := (s.faultIdx + 1) % s.frcd.length } .fault s.faultStatusAny q
    simp only [State.setEvRegs_fault] at hev hraised
    rw [hev]
    exact ⟨rfl, rfl, rfl, by rw [if_neg hppf]; exact ⟨rfl, hraised⟩⟩

theorem requestReport_record (s : State) (r : MemReq) (c : Cond) (fpd : Bool) :
    (requestReport s .untranslated r c fpd).record s.caps = requestRecord s.caps r r.access 0 c.reason := by
  simp [requestReport, FaultReport.record, requestRecord, reqPasid, effAccess, ReqKind.atField, Bool.and_comm]

theorem State.turnAway_eq (s : State) (r : MemReq) : s.turnAway r = { s with out := blockedAnswer r ++ s.out } := by
  unfold State.turnAway blockedAnswer
  split <;> rfl

/-- A request whose walk faults is blocked (42 R1030). -/
theorem blocks_of_faults {r : MemReq} {c : Cond} {reads : List UnitAccess} {fpd : Bool} (hr : s.walksFor r)
    (hu : s.uncached) (qp : s.quiet .perf) (qf : s.quiet .fault) (hfree : s.recordFree r.sid)
    (hw : faults (Machine.translate s .untranslated r) c Trail.empty.seen reads fpd) :
    s.blocks r reads c.reason (c.qualified && fpd) := by
  obtain ⟨v, hv, hexec⟩ := exec_of_faults hr hu qp hw
  have heq := eq_counted_of_onlyCounted hv
  refine ⟨v, _, _, hexec, hv, rfl, ?_⟩
  rw [State.block, State.turnAway_eq]
  split
  next hsome =>
    split at hsome
    · next h =>
      obtain ⟨hq, hfpd⟩ := Bool.and_eq_true_iff.1 h
      exact State.reportFault_of_suppressed hq hfpd
    · cases hsome
  next hsome =>
    split at hsome
    · cases hsome
    next h =>
      cases hsome
      have hrec := State.reportFault_recorded
        (s := { v with bus := reads ++ s.bus, out := blockedAnswer r ++ v.out })
        (x := requestReport { v with bus := reads ++ s.bus, out := blockedAnswer r ++ v.out } .untranslated r c fpd)
        (Bool.eq_false_iff.2 h) (by rw [heq]; exact hfree) (by rw [heq]; exact qf)
      rw [requestReport_record] at hrec
      have hcaps : v.caps = s.caps := by rw [heq]; rfl
      rw [← hcaps]
      exact hrec

end Sys2Proof.Machine
end

section
/-! The tables of a request. -/

namespace Sys2Proof.Machine

variable {α : Type} {s : State}

/-! ## Structure reads and caches -/

theorem finds_note (group event : Nat) (level : Option Nat) : finds (note group event level) () [] [] :=
  finds_unseen fun _ => rfl

theorem finds_busRead (a n : Nat) (snoop : Bool) :
    finds (modify fun t : Trail => { t with bus := busRead a n snoop :: t.bus }) () [busRead a n snoop] [] := by
  intro x
  exact yields_modify fun t ht => by rw [← ht]; simp [Seen.reads, Seen.owes, Trail.seen]

theorem finds_fetch {a : Addr} {n v : Nat} (h : s.memRead a.toNat n = some v) (snoop : Bool) (c : Cond) :
    finds (fetch s a n snoop c) v [busRead a.toNat n snoop] [] := by
  unfold fetch
  refine (finds_note 1 0 none).skip ((finds_busRead a.toNat n snoop).last ?_)
  rw [h]
  exact finds_pure v

theorem stops_fetch {a : Addr} {n : Nat} (h : s.memRead a.toNat n = none) (snoop : Bool) (c : Cond) :
    stops (fetch s a n snoop c) c [busRead a.toNat n snoop] := by
  unfold fetch
  refine (finds_note 1 0 none).skip_stops ((finds_busRead a.toNat n snoop).last_stops ?_)
  rw [h]
  exact stops_throw c

theorem finds_notePsc (e : PscEntry) (ready : Bool) : finds (notePsc e ready) () [] [] := finds_unseen fun _ => rfl

theorem finds_keepCtx (sid : SourceId) (did : DomainId) (ce : BitVec 256) : finds (keepCtx sid did ce) () [] [] :=
  finds_unseen fun _ => rfl

theorem finds_keepPasid (sid : SourceId) (pasid : Pasid) (pe : BitVec 512) : finds (keepPasid sid pasid pe) () [] [] :=
  finds_unseen fun _ => rfl

theorem finds_keepPasid_if (b : Bool) (sid : SourceId) (pasid : Pasid) (pe : BitVec 512) :
    finds (if b then keepPasid sid pasid pe else pure ()) () [] [] := by
  split
  · exact finds_keepPasid sid pasid pe
  · exact finds_pure ()

theorem ctxMarked_alike (sid : SourceId) (ce : BitVec 256) (x : Walk α) : alike (ctxMarked s sid ce x) x := by
  unfold ctxMarked
  refine alike_attempt (fun _ => rfl) fun c t => ?_
  dsimp only
  split <;> exact ⟨_, rfl, rfl, rfl⟩

theorem pasidMarked_alike (sid : SourceId) (pasid : Pasid) (pe : BitVec 512) (x : Walk α) :
    alike (pasidMarked s sid pasid pe x) x := by
  unfold pasidMarked
  refine alike_attempt (fun _ => rfl) fun c t => ?_
  dsimp only
  split <;> exact ⟨_, rfl, rfl, rfl⟩

theorem keepBad_alike (r : MemReq) (out : PageResult → Found) (x : Walk α) : alike (keepBad s r out x) x := by
  unfold keepBad
  refine alike_attempt (fun _ => rfl) fun c t => ?_
  dsimp only
  split <;> exact ⟨_, rfl, rfl, rfl⟩

/-! ## Caches that the step does not use -/

theorem State.ctxLookup_of_unused (h : s.choice.use = []) (sid : SourceId) : s.ctxLookup sid = none :=
  if_neg (by simp [Choice.uses, h])

theorem State.pasidLookup_of_unused (h : s.choice.use = []) (sid : SourceId) (pasid : Pasid) : s.pasidLookup sid pasid = none :=
  if_neg (by simp [Choice.uses, h])

theorem State.iotlbLookup_of_unused (h : s.choice.use = []) (sid : SourceId) (p : Option Pasid) (a : Addr) :
    s.iotlbLookup sid p a = none := if_neg (by simp [Choice.uses, h])

theorem State.pscLookup_of_unused (h : s.choice.use = []) (k : PscKind) (did : DomainId) (pasid : Pasid) (width : Nat) (a : Addr) :
    s.pscLookup k did pasid width a = none := if_neg (by simp [Choice.uses, h])

theorem finds_iotlbTry_of_unused (h : s.choice.use = []) (lenient : Bool) (r : MemReq) (a : Access) :
    finds (iotlbTry s lenient r a) none [] [] := by
  unfold iotlbTry
  refine (finds_note 3 0 none).skip ?_
  rw [State.iotlbLookup_of_unused h]
  exact finds_pure none

/-! ## The mode -/

theorem finds_checkMode (h : modeFault s = none) : finds (checkMode s) () [] [] := by
  unfold checkMode
  rw [h]
  exact finds_pure ()

theorem stops_checkMode {c : Cond} (h : modeFault s = some c) : stops (checkMode s) c [] := by
  unfold checkMode
  rw [h]
  exact stops_throw c

theorem modeFault_of_legacyOn (h : s.legacyOn) : modeFault s = none ∧ s.scalable = false := by
  obtain ⟨-, hmode⟩ := h
  simp [modeFault, State.scalable, hmode]

theorem modeFault_of_scalableOn (h : s.scalableOn) : modeFault s = none ∧ s.scalable = true := by
  obtain ⟨-, hmode, hsmts⟩ := h
  simp [modeFault, State.scalable, hmode, hsmts]

/-- A refused mode raises a condition of the reason named, that no FPD bit suppresses. -/
theorem modeFault_of_modeRefuses {reason : BitVec 8} (h : s.modeRefuses reason) :
    ∃ c, modeFault s = some c ∧ c.reason = reason ∧ c.qualified = false := by
  obtain ⟨rfl, hmode | ⟨hmode, hno⟩ | ⟨hmode, hno⟩⟩ | ⟨rfl, hmode, hadms⟩ := h
  · exact ⟨.rta1_1, by simp [modeFault, hmode], rfl, rfl⟩
  · exact ⟨.rta1_2, by simp [modeFault, hmode, hno], rfl, rfl⟩
  · exact ⟨.rta1_3, by simp [modeFault, hmode, hno], rfl, rfl⟩
  · exact ⟨.rta4, by simp [modeFault, hmode, hadms], rfl, rfl⟩

theorem stops_translate_of_modeFault {c : Cond} (h : modeFault s = some c) (r : MemReq) :
    stops (Machine.translate s .untranslated r) c [] := by
  unfold Machine.translate
  exact (stops_checkMode h).bind _

theorem stops_translate_of_legacyPasid (hon : s.legacyOn) {r : MemReq} (hp : r.pasid ≠ none) :
    stops (Machine.translate s .untranslated r) .rta2 [] := by
  obtain ⟨hmode, hscal⟩ := modeFault_of_legacyOn hon
  unfold Machine.translate translateLegacy
  refine (finds_checkMode hmode).skip_stops ?_
  rw [if_neg (by simp [hscal])]
  exact (stops_check (Option.isSome_iff_ne_none.2 hp) .rta2).bind _

/-! ## Legacy tables -/

theorem finds_legacyFetch (huse : s.choice.use = []) {sid : SourceId} {ca : Addr} {ce : BitVec 256} (hroot : s.legacyRoot sid ca)
    (hce : s.contextAt ca 16 ce) : finds (legacyFetch s sid) ce (s.legacyReads sid ca) [] := by
  obtain ⟨re, hre, hpresent, hrsvd, rfl⟩ := hroot
  obtain ⟨c, hc, rfl⟩ := hce
  unfold legacyFetch
  refine (finds_note 2 0 none).skip ?_
  rw [State.ctxLookup_of_unused huse]
  refine (ctxMarked_alike sid 0 _).finds ?_
  refine (finds_fetch hre s.caps.c .lrt1).bind (u' := []) (l' := [_]) ?_
  refine (finds_check (by simp [hpresent]) .lrt2).skip ((finds_check hrsvd .lrt3).skip ?_)
  exact (finds_fetch hc s.caps.c .lct1).last (finds_pure _)

theorem finds_legacyEntryChecks {ce : BitVec 256} (hp : ceP ce = true) (hr : ctxRsvd s.caps s.plat.haw ce = false)
    (haw : s.caps.awOk (ceAw ce) = true) (htt : ttOk s.caps (ceTt ce) = true) : finds (legacyEntryChecks s ce) () [] [] := by
  unfold legacyEntryChecks
  refine (finds_check (by simp [hp]) .lct2).skip ((finds_check hr .lct3).skip ?_)
  exact (finds_check (by simp [haw]) .lct4_1).skip (finds_check (by simp [htt]) .lct4_2)

/-- The Fault Processing Disable bit of an entry is met. -/
theorem yields_meet (b : Bool) (x : Seen) :
    yields (modify fun t : Trail => { t with fpd := t.fpd || b }) () x (x.meets b) :=
  yields_modify fun t ht => by rw [← ht]; rfl

theorem yields_legacyChecks {ce : BitVec 256} (h : finds (legacyEntryChecks s ce) () [] []) (sid : SourceId) (new : Bool)
    (x : Seen) : yields (legacyChecks s .untranslated sid new ce) () x (x.meets (ceFpd ce)) := by
  unfold legacyChecks
  refine (yields_meet (ceFpd ce) x).bind (finds.yields_same (((ctxMarked_alike sid ce _).finds h).skip ?_) _)
  have hlast : finds (modify fun t : Trail => { t with did := some (ceDid ce) }) () [] [] := finds_unseen fun _ => rfl
  have hkeep : ∀ {w : Walk Unit}, finds w () [] [] → finds (keepCtx sid (ceDid ce) ce >>= fun _ => w) () [] [] :=
    fun h => (finds_keepCtx sid (ceDid ce) ce).skip h
  have hrest : ∀ {w : Walk Unit}, finds w () [] [] → finds (check (ReqKind.untranslated != .untranslated && ceTt ce != 1) .lct5 >>=
      fun _ => w) () [] [] := fun h => (finds_check rfl .lct5).skip h
  exact finds.ite (hkeep (hrest (finds.ite (hkeep hlast) hlast))) (hrest (finds.ite (hkeep hlast) hlast))

theorem faults_legacyChecks {ce : BitVec 256} {c : Cond} (h : stops (legacyEntryChecks s ce) c []) (sid : SourceId) (new : Bool)
    (x : Seen) : faults (legacyChecks s .untranslated sid new ce) c x x.bus (x.fpd || ceFpd ce) := by
  unfold legacyChecks
  exact (yields_meet (ceFpd ce) x).bind_faults (((ctxMarked_alike sid ce _).stops h).bind _ (x.meets (ceFpd ce)))

/-- What a legacy context entry and a page make of a request. -/
def legacyFound (s : State) (r : MemReq) (hit : Option IotlbEntry) (ce : BitVec 256) (p : PageResult) : Found :=
  { hpa := p.output r.addr, page := p, legacy := true, pgtt := if ceTt ce == 2 then 4 else 2, pasid := 0, did := ceDid ce,
    ce := ce, pe := 0, r := p.r, w := p.w && !(ReqKind.untranslated == .translation && reqReadOnly s.caps r), special := false,
    fromIotlb := hit.isSome }

/-- The second-stage walk of a legacy context entry. -/
def legacySs (s : State) (ce : BitVec 256) : SsParams :=
  { legacy := true, ptr := ceSsptptr s.plat.haw ce, aw := ceAw ce, did := ceDid ce, ssade := false, emte := false,
    snooped := s.caps.c, final := true }

/-- The second-stage translation of a legacy request, behind the checks of its context entry, without a cached one. -/
def legacyWalk (s : State) (r : MemReq) (ce : BitVec 256) : Walk PageResult :=
  keepBad s r (legacyFound s r none ce) do
    let f ← ctxMarked s r.sid ce (ssLast s (legacySs s ce) false r.access true true r.addr)
    pure (ssPage f)

/-- The translation of a legacy request, behind the checks of its context entry, without a cached one. -/
def legacyFinish (s : State) (r : MemReq) (ce : BitVec 256) : Walk Found :=
  if ceTt ce == 2 then do
    check (s.hpaEnd ≤ r.addr.toNat) .lgn1_3
    check (inInterruptRange r.addr) .lgn4
    pure (legacyFound s r none ce (ptPage s false r.addr))
  else do
    let p ← legacyWalk s r ce
    check (outputInRange .untranslated p r.addr) .lgn4
    pure (legacyFound s r none ce p)

theorem isSpecial_untranslated (r : MemReq) : isSpecial .untranslated r = false := rfl

/-- Legacy mode without PASID and without caches: the context entry is found, checked, and followed. -/
theorem translate_leads_legacy (hon : s.legacyOn) (huse : s.choice.use = []) {r : MemReq} (hp : r.pasid = none) (x : Seen) :
    leads (Machine.translate s .untranslated r) (legacyFetch s r.sid >>= fun ce => legacyChecks s .untranslated r.sid true ce >>=
      fun _ => legacyFinish s r ce) x x := by
  obtain ⟨hmode, hscal⟩ := modeFault_of_legacyOn hon
  unfold Machine.translate translateLegacy
  refine ((finds_checkMode hmode).yields_same _).leads ?_
  rw [if_neg (by simp [hscal])]
  refine ((finds_check (by simp [hp]) .rta2).yields_same _).leads ?_
  refine ((finds_iotlbTry_of_unused huse _ r _).yields_same _).leads ?_
  exact leads_refl _ _

theorem translate_leads_legacyFinish (hon : s.legacyOn) (huse : s.choice.use = []) {r : MemReq} (hp : r.pasid = none)
    {ca : Addr} {ce : BitVec 256} (hce : s.legacyContext r.sid ca ce) :
    leads (Machine.translate s .untranslated r) (legacyFinish s r ce) Trail.empty.seen
      ((Trail.empty.seen.reads (s.legacyReads r.sid ca)).meets (ceFpd ce)) := by
  obtain ⟨hroot, hread, hpresent, hrsvd, haw, htt⟩ := hce
  refine (translate_leads_legacy hon huse hp _).trans ?_
  refine ((finds_legacyFetch huse hroot hread).yields _).leads ?_
  refine (yields_legacyChecks (finds_legacyEntryChecks hpresent hrsvd haw htt) r.sid true _).leads ?_
  exact leads_refl _ _

/-- A translation ends in a fault of this reason behind these reads, and this is what the FPD bits met make of it. -/
def refusedAs (w : Walk α) (reads : List UnitAccess) (reason : BitVec 8) (fpd : Bool) : Prop :=
  ∃ c b, c.reason = reason ∧ (c.qualified && b) = fpd ∧ faults w c Trail.empty.seen reads b

theorem stops.refusedAs {w : Walk α} {c : Cond} {l : List UnitAccess} (h : stops w c l) :
    refusedAs w l c.reason false :=
  ⟨c, false, rfl, Bool.and_false _, by simpa [Trail.seen, Trail.empty] using h Trail.empty.seen⟩

theorem blocks_of_refusedAs {r : MemReq} {reads : List UnitAccess} {reason : BitVec 8} {fpd : Bool} (hr : s.walksFor r)
    (hu : s.uncached) (qp : s.quiet .perf) (qf : s.quiet .fault) (hfree : s.recordFree r.sid)
    (hw : refusedAs (Machine.translate s .untranslated r) reads reason fpd) : s.blocks r reads reason fpd := by
  obtain ⟨c, b, rfl, rfl, hfaults⟩ := hw
  exact blocks_of_faults hr hu qp qf hfree hfaults

/-- The root and context entry cannot be read, or the root entry leads nowhere. -/
theorem stops_legacyFetch (huse : s.choice.use = []) {sid : SourceId} {c : Cond} {l : List UnitAccess}
    (h : stops (do
      let v ← fetch s (s.rootAt sid) 16 s.caps.c .lrt1
      check (!bitAt (BitVec.ofNat 128 v) 0) .lrt2
      check (rootRsvd s.plat.haw (BitVec.ofNat 128 v)) .lrt3
      let e ← fetch s (entryAddr (addrField (BitVec.ofNat 128 v) 0 12 s.plat.haw) 16 (field sid 0 8).toNat) 16 s.caps.c .lct1
      pure (BitVec.ofNat 256 e)) c l) : stops (legacyFetch s sid) c l := by
  unfold legacyFetch
  refine (finds_note 2 0 none).skip_stops ?_
  rw [State.ctxLookup_of_unused huse]
  exact (ctxMarked_alike sid 0 _).stops h

theorem translate_of_legacyRefuses (hon : s.legacyOn) (huse : s.choice.use = []) {r : MemReq} (hp : r.pasid = none)
    {reads : List UnitAccess} {reason : BitVec 8} {fpd : Bool} (h : s.LegacyRefuses r.sid reads reason fpd) :
    refusedAs (Machine.translate s .untranslated r) reads reason fpd := by
  have fetched : ∀ {c l}, stops (legacyFetch s r.sid) c l → refusedAs (Machine.translate s .untranslated r) l c.reason false :=
    fun {c l} hstop => stops.refusedAs fun x => (translate_leads_legacy hon huse hp x).faults (hstop.bind _ x)
  have checked : ∀ {ca ce c}, s.legacyRoot r.sid ca → s.contextAt ca 16 ce → stops (legacyEntryChecks s ce) c [] →
      c.qualified = true → refusedAs (Machine.translate s .untranslated r) (s.legacyReads r.sid ca) c.reason (ceFpd ce) := by
    intro ca ce c hroot hce hstop hq
    refine ⟨c, ceFpd ce, rfl, by simp [hq], (translate_leads_legacy hon huse hp _).faults ?_⟩
    refine ((finds_legacyFetch huse hroot hce).yields _).bind_faults ?_
    simpa using (faults_legacyChecks hstop r.sid true (Trail.empty.seen.reads (s.legacyReads r.sid ca))).bind _
  cases h with
  | rootUnread hre => exact fetched (stops_legacyFetch huse ((stops_fetch hre s.caps.c .lrt1).bind _))
  | rootAbsent re hre hno =>
    exact fetched (stops_legacyFetch huse
      ((finds_fetch hre s.caps.c .lrt1).last_stops ((stops_check (by simp [hno]) .lrt2).bind _)))
  | rootReserved re hre hyes hrsvd =>
    exact fetched (stops_legacyFetch huse ((finds_fetch hre s.caps.c .lrt1).last_stops
      ((finds_check (by simp [hyes]) .lrt2).skip_stops ((stops_check hrsvd .lrt3).bind _))))
  | unread ca hroot hce =>
    obtain ⟨re, hre, hyes, hrsvd, rfl⟩ := hroot
    exact fetched (stops_legacyFetch huse ((finds_fetch hre s.caps.c .lrt1).bind_stops (l' := [_])
      ((finds_check (by simp [hyes]) .lrt2).skip_stops
        ((finds_check hrsvd .lrt3).skip_stops ((stops_fetch hce s.caps.c .lct1).bind _)))))
  | absent ca ce hroot hce hno =>
    refine checked (c := .lct2) hroot hce ?_ rfl
    unfold legacyEntryChecks
    exact (stops_check (by simp [hno]) .lct2).bind _
  | reserved ca ce hroot hce hyes hrsvd =>
    refine checked (c := .lct3) hroot hce ?_ rfl
    unfold legacyEntryChecks
    exact (finds_check (by simp [hyes]) .lct2).skip_stops ((stops_check hrsvd .lct3).bind _)
  | programming ca ce hroot hce hyes hrsvd hbad =>
    by_cases haw : s.caps.awOk (ceAw ce) = true
    · have htt := hbad.resolve_left (by simp [haw])
      refine checked (c := .lct4_2) hroot hce ?_ rfl
      unfold legacyEntryChecks
      exact (finds_check (by simp [hyes]) .lct2).skip_stops ((finds_check hrsvd .lct3).skip_stops
        ((finds_check (by simp [haw]) .lct4_1).skip_stops (stops_check (by simp [htt]) .lct4_2)))
    · refine checked (c := .lct4_1) hroot hce ?_ rfl
      unfold legacyEntryChecks
      exact (finds_check (by simp [hyes]) .lct2).skip_stops ((finds_check hrsvd .lct3).skip_stops
        ((stops_check (by simp [haw]) .lct4_1).bind _))

end Sys2Proof.Machine
end

section
/-! The second stage. -/

namespace Sys2Proof.Machine

variable {α : Type} {s : State} {p : SsParams}

/-! ## Flags -/

/-- The flag updates that entries owe, in their order. -/
def owedUpdates (l : List UsedEntry) : List FlagUpdate :=
  (l.filter (fun x => x.e &&& x.want != x.want)).map (fun x => ⟨x.hpa, x.want⟩)

theorem owedUpdates_cons (x : UsedEntry) (l : List UsedEntry) :
    owedUpdates (x :: l) = (if x.e &&& x.want != x.want then [⟨x.hpa, x.want⟩] else []) ++ owedUpdates l := by
  unfold owedUpdates
  by_cases h : (x.e &&& x.want != x.want) = true <;> simp [h]

theorem owedUpdates_append (l l' : List UsedEntry) : owedUpdates (l ++ l') = owedUpdates l ++ owedUpdates l' := by
  simp [owedUpdates]

/-- The flags of the entries of a walk, of either stage: `ssFlags` and `fsFlags` over the entries that the statements describe. -/
def setFlags (s : State) (snooped : Bool) (unsnooped unwritable failed : Cond) : List UsedEntry → Walk Unit
  | [] => pure ()
  | x :: rest => do
    if x.e &&& x.want != x.want then do
      check (!snooped) unsnooped
      check (!x.w) unwritable
      check (!s.writable x.hpa.toNat 8) failed
      modify fun t => { t with upd := t.upd ++ [⟨x.hpa, x.want⟩] }
    setFlags s snooped unsnooped unwritable failed rest

/-- An entry on the path of a second-stage walk is the one that the statements describe. -/
def ssSame (d : Bool) (y : PathEntry) (x : UsedEntry) : Prop :=
  x = { hpa := y.hpa, e := y.e, want := flag 64 true 8 ||| flag 64 (y.leaf && d) 9, w := true }

theorem ssFlags_eq_setFlags (snooped : Bool) {d : Bool} {path : List PathEntry} {l : List UsedEntry}
    (h : List.Forall₂ (ssSame d) path l) : ssFlags s snooped d path = setFlags s snooped .sss5 .sfs8 .sss6 l := by
  induction h with
  | nil => rfl
  | cons hsame hrest ih =>
    cases hsame
    unfold ssFlags setFlags
    rw [ih]
    rfl

/-- The flags that entries owe can be set. -/
def settable (s : State) (snooped : Bool) (l : List UsedEntry) : Prop :=
  ∀ x ∈ l, x.e &&& x.want = x.want ∨ (snooped = true ∧ s.writable x.hpa.toNat 8 = true ∧ x.w = true)

theorem setFlags_cons_of_paid {snooped : Bool} {c1 c2 c3 : Cond} {x : UsedEntry} (h : x.e &&& x.want = x.want) (l : List UsedEntry) :
    setFlags s snooped c1 c2 c3 (x :: l) = setFlags s snooped c1 c2 c3 l := by
  conv => lhs; unfold setFlags
  rw [if_neg (by simp [h])]

theorem finds_setFlags {snooped : Bool} {c1 c2 c3 : Cond} {l : List UsedEntry} (h : settable s snooped l) :
    finds (setFlags s snooped c1 c2 c3 l) () [] (owedUpdates l) := by
  induction l with
  | nil => exact finds_pure ()
  | cons x l ih =>
    have hrest := ih fun z hz => h z (List.mem_cons_of_mem _ hz)
    rw [owedUpdates_cons]
    by_cases howes : x.e &&& x.want = x.want
    · rw [setFlags_cons_of_paid howes]
      simpa [howes] using hrest
    · obtain ⟨hsn, hwr, hw⟩ := (h x List.mem_cons_self).resolve_left howes
      unfold setFlags
      rw [if_pos (by simp [howes]), if_pos (by simp [howes])]
      refine (finds_check (by simp [hsn]) c1).skip ((finds_check (by simp [hw]) c2).skip ((finds_check (by simp [hwr]) c3).skip ?_))
      exact finds.bind (l' := []) (l := []) (finds_owe _) hrest

/-- The entries before the one that fails pass. -/
theorem stops_setFlags_append {snooped : Bool} {c1 c2 c3 c : Cond} {before l : List UsedEntry} (h : settable s snooped before)
    (hl : stops (setFlags s snooped c1 c2 c3 l) c []) : stops (setFlags s snooped c1 c2 c3 (before ++ l)) c [] := by
  induction before with
  | nil => exact hl
  | cons x before ih =>
    have hrest := ih fun z hz => h z (List.mem_cons_of_mem _ hz)
    by_cases howes : x.e &&& x.want = x.want
    · rw [List.cons_append, setFlags_cons_of_paid howes]
      exact hrest
    · obtain ⟨hsn, hwr, hw⟩ := (h x List.mem_cons_self).resolve_left howes
      rw [List.cons_append]
      unfold setFlags
      rw [if_pos (by simp [howes])]
      refine (finds_check (by simp [hsn]) c1).skip_stops ((finds_check (by simp [hw]) c2).skip_stops
        ((finds_check (by simp [hwr]) c3).skip_stops ?_))
      exact finds.bind_stops (l' := []) (l := []) (finds_owe _) hrest

theorem stops_setFlags_unsnooped {c1 c2 c3 : Cond} {l : List UsedEntry} (h : ∃ x ∈ l, x.owes) :
    stops (setFlags s false c1 c2 c3 l) c1 [] := by
  induction l with
  | nil => simp at h
  | cons x l ih =>
    by_cases howes : x.e &&& x.want = x.want
    · rw [setFlags_cons_of_paid howes]
      obtain ⟨y, hy, hyowes⟩ := h
      rcases List.mem_cons.1 hy with rfl | hyl
      · exact absurd howes hyowes
      · exact ih ⟨y, hyl, hyowes⟩
    · unfold setFlags
      rw [if_pos (by simp [howes])]
      exact (stops_check rfl c1).bind _

theorem stops_setFlags_unwritable {c1 c2 c3 : Cond} {x : UsedEntry} (howes : x.owes) (hw : x.w = false) (l : List UsedEntry) :
    stops (setFlags s true c1 c2 c3 (x :: l)) c2 [] := by
  unfold setFlags
  rw [if_pos (bne_iff_ne.2 howes)]
  exact (finds_check rfl c1).skip_stops ((stops_check (by simp [hw]) c2).bind _)

theorem stops_setFlags_failed {c1 c2 c3 : Cond} {x : UsedEntry} (howes : x.owes) (hw : x.w = true)
    (hwr : s.writable x.hpa.toNat 8 = false) (l : List UsedEntry) : stops (setFlags s true c1 c2 c3 (x :: l)) c3 [] := by
  unfold setFlags
  rw [if_pos (bne_iff_ne.2 howes)]
  exact (finds_check rfl c1).skip_stops ((finds_check (by simp [hw]) c2).skip_stops ((stops_check (by simp [hwr]) c3).bind _))

/-- A flag that cannot be set ends the walk with the condition that says why. -/
theorem stops_setFlags_of_flagsFail {pe : BitVec 512} {c1 c3 : Cond} {l : List UsedEntry} {reason : BitVec 8}
    (h : s.flagsFail pe l c1.reason c3.reason reason) :
    ∃ c, c.reason = reason ∧ (c = c1 ∨ c = .sfs8 ∨ c = c3) ∧ stops (setFlags s (snoopedWalk s.caps pe) c1 .sfs8 c3 l) c [] := by
  unfold State.flagsFail at h
  split at h
  next hsn =>
    obtain ⟨before, x, after, rfl, hbefore, howes, ⟨rfl, hw⟩ | ⟨rfl, hw, hwr⟩⟩ := h
    · exact ⟨.sfs8, rfl, .inr (.inl rfl), stops_setFlags_append hbefore (hsn ▸ stops_setFlags_unwritable howes hw after)⟩
    · exact ⟨c3, rfl, .inr (.inr rfl), stops_setFlags_append hbefore (hsn ▸ stops_setFlags_failed howes hw hwr after)⟩
  next hsn =>
    obtain ⟨rfl, hx⟩ := h
    rw [Bool.eq_false_iff.2 hsn]
    exact ⟨c1, rfl, .inl rfl, stops_setFlags_unsnooped hx⟩

/-! ## Levels -/

theorem ssEntryFault_eq_none {a : Access} {e : BitVec 64} {sh : Nat} (hp : bitAt e 0 = true ∨ bitAt e 1 = true)
    (hr : ssRsvd s.caps s.plat.haw p.emte e sh = false) : ssEntryFault s p a e sh = none := by
  unfold ssEntryFault
  rw [if_neg (by rcases hp with h | h <;> simp [h]), if_neg (by simp [hr])]

theorem ssEntryFault_of_absent {e : BitVec 64} (h0 : bitAt e 0 = false) (h1 : bitAt e 1 = false) (a : Access) (sh : Nat) :
    ssEntryFault s p a e sh = some (notPresentSs p.legacy a) := by
  unfold ssEntryFault
  rw [if_pos (by simp [h0, h1])]

theorem ssEntryFault_of_reserved {e : BitVec 64} {sh : Nat} (hp : bitAt e 0 = true ∨ bitAt e 1 = true)
    (hr : ssRsvd s.caps s.plat.haw p.emte e sh = true) (a : Access) :
    ssEntryFault s p a e sh = some (if p.legacy then .lss2 else .sss3) := by
  unfold ssEntryFault
  rw [if_neg (by rcases hp with h | h <;> simp [h]), if_pos hr]

/-- The condition of a second-stage walk that stops; `top`: at its first entry. -/
def haltCond (legacy : Bool) (a : Access) (top : Bool) : Halt → Cond
  | .unread => if legacy then (if top then .lct4_3 else .lss1) else (if top then .sss4 else .sss1)
  | .absent => notPresentSs legacy a
  | .reserved => if legacy then .lss2 else .sss3

theorem leafOf_cons_cons (x y : UsedEntry) (l : List UsedEntry) : leafOf (x :: y :: l) = leafOf (y :: l) := by
  simp [leafOf]

theorem allSet_cons (x : UsedEntry) (l : List UsedEntry) (i : Nat) : allSet (x :: l) i = (bitAt x.e i && allSet l i) := rfl

theorem walkReads_cons (x : UsedEntry) (l : List UsedEntry) (snoop : Bool) :
    walkReads (x :: l) snoop = walkReads l snoop ++ [busRead x.hpa.toNat 8 snoop] := by
  simp [walkReads]

theorem entryReads_cons (h : Addr) (l : List Addr) (snoop : Bool) :
    entryReads (h :: l) snoop = entryReads l snoop ++ [busRead h.toNat 8 snoop] := by
  simp [entryReads]

theorem ssUses_ne_nil {emte d : Bool} {a : Addr} {lv : List Nat} {table : Addr} {l : List UsedEntry} {k : Nat}
    (h : s.ssUses emte d a lv table l k) : l ≠ [] := by
  rintro rfl
  cases lv <;> exact h

theorem finds_ssLevels {d : Bool} (acc : Access) {addr : Addr} {lv : List Nat} {table : Addr} {l : List UsedEntry} {k : Nat}
    (h : s.ssUses p.emte d addr lv table l k) (first r w : Bool) (path : List PathEntry) :
    ∃ path', List.Forall₂ (ssSame d) path' l ∧ finds (ssLevels s p acc addr lv table first r w path)
      (leafOf l, k, r && allSet l 0, w && allSet l 1, path ++ path') (walkReads l p.snooped) [] := by
  induction lv generalizing table l first r w path with
  | nil => exact h.elim
  | cons sh rest ih =>
    cases l with
    | nil => exact h.elim
    | cons x more =>
      obtain ⟨hhpa, hread, hpresent, hrsvd, hw, hwant, hnext⟩ := h
      have hsame : ssSame d ⟨x.hpa, x.e, pgLeaf x.e sh, true⟩ x := by
        rw [ssSame, ← hwant, ← hw]
      have hfetch := finds_fetch hread p.snooped
        (if p.legacy then (if first then .lct4_3 else .lss1) else (if first then .sss4 else .sss1))
      unfold ssLevels
      rw [← hhpa]
      by_cases hleaf : pgLeaf x.e sh = true
      · rw [if_pos hleaf] at hnext
        obtain ⟨rfl, rfl⟩ := hnext
        refine ⟨[⟨x.hpa, x.e, pgLeaf x.e k, true⟩], .cons hsame .nil, ?_⟩
        refine hfetch.last ?_
        simp only [BitVec.ofNat_toNat, BitVec.setWidth_eq, ssEntryFault_eq_none hpresent hrsvd, hleaf, if_true]
        simpa [leafOf, allSet] using finds_pure _
      · rw [if_neg hleaf] at hnext
        obtain ⟨path', hpath, hfinds⟩ := ih hnext false (r && bitAt x.e 0) (w && bitAt x.e 1)
          (path ++ [⟨x.hpa, x.e, pgLeaf x.e sh, true⟩])
        refine ⟨⟨x.hpa, x.e, pgLeaf x.e sh, true⟩ :: path', .cons hsame hpath, ?_⟩
        rw [walkReads_cons]
        refine hfetch.bind (u' := []) ?_
        simp only [BitVec.ofNat_toNat, BitVec.setWidth_eq, ssEntryFault_eq_none hpresent hrsvd, if_neg hleaf]
        refine (finds_notePsc _ _).skip ?_
        obtain ⟨y, l', rfl⟩ := List.exists_cons_of_ne_nil (ssUses_ne_nil hnext)
        rw [leafOf_cons_cons, allSet_cons x, allSet_cons x]
        simpa [Bool.and_assoc] using hfinds

theorem SsStuck_length_pos {emte : Bool} {a : Addr} {lv : List Nat} {table : Addr} {x : Halt} {l : List Addr}
    (h : s.SsStuck emte a lv table x l) : 0 < l.length := by
  cases h <;> simp

theorem stops_ssLevels {acc : Access} {addr : Addr} {lv : List Nat} {table : Addr} {x : Halt} {l : List Addr}
    (h : s.SsStuck p.emte addr lv table x l) (first r w : Bool) (path : List PathEntry) :
    stops (ssLevels s p acc addr lv table first r w path) (haltCond p.legacy acc (first && l.length == 1) x)
      (entryReads l p.snooped) := by
  induction h generalizing first r w path with
  | unread sh rest table h hh hread =>
    subst hh
    unfold ssLevels
    simpa [haltCond, entryReads] using (stops_fetch hread p.snooped _).bind _
  | absent sh rest table h e hh hread h0 h1 =>
    subst hh
    unfold ssLevels
    refine (finds_fetch hread p.snooped _).last_stops ?_
    simp only [BitVec.ofNat_toNat, BitVec.setWidth_eq, ssEntryFault_of_absent h0 h1]
    exact stops.ite ((finds_notePsc _ _).skip_stops (stops_throw _)) (stops_throw _)
  | reserved sh rest table h e hh hread hp hr =>
    subst hh
    unfold ssLevels
    refine (finds_fetch hread p.snooped _).last_stops ?_
    simp only [BitVec.ofNat_toNat, BitVec.setWidth_eq, ssEntryFault_of_reserved hp hr]
    exact stops.ite ((finds_notePsc _ _).skip_stops (stops_throw _)) (stops_throw _)
  | deeper sh rest table h e x l hh hread hp hr hleaf hstuck ih =>
    subst hh
    unfold ssLevels
    rw [entryReads_cons]
    refine (finds_fetch hread p.snooped _).bind_stops ?_
    simp only [BitVec.ofNat_toNat, BitVec.setWidth_eq, ssEntryFault_eq_none hp hr, hleaf, Bool.false_eq_true, if_false]
    refine (finds_notePsc _ _).skip_stops ?_
    have hpos := SsStuck_length_pos hstuck
    have htop : (first && (entryAddr table 8 (pgIndex addr sh) :: l).length == 1) = false := by
      rw [List.length_cons, beq_false_of_ne (by omega), Bool.and_false]
    rw [htop]
    exact ih false _ _ _

/-! ## Walks -/

theorem finds_noteLeaf (e : BitVec 64) : finds (noteLeaf s e) () [] [] := finds_unseen fun _ => rfl

/-- The second-stage tables lead an address below the bound to a leaf. -/
def ssLeads (s : State) (p : SsParams) (d : Bool) (a : Addr) (l : List UsedEntry) (k : Nat) : Prop :=
  a.toNat < 2 ^ ssBound s.caps p.aw ∧ s.ssUses p.emte d a (levels (agawLevels p.aw)) p.ptr l k

/-- What a second-stage walk finds at the end of these entries. -/
def ssLeaf (s : State) (a : Addr) (l : List UsedEntry) (k : Nat) : SsFound :=
  { hpa := s.outputOf (leafOf l) k a, shift := k, r := allSet l 0, w := allSet l 1, dirty := bitAt (leafOf l) 9, leaf := leafOf l }

theorem ssFind_leads {d : Bool} (huse : s.choice.use = []) (acc : Access) {a : Addr} {l : List UsedEntry} {k : Nat}
    (h : ssLeads s p d a l k) :
    ∃ path, List.Forall₂ (ssSame d) path l ∧
      (allSet l 0 = true ∨ allSet l 1 = true → finds (ssFind s p acc a) (ssLeaf s a l k, path) (walkReads l p.snooped) []) ∧
      (allSet l 0 = false → allSet l 1 = false →
        stops (ssFind s p acc a) (notPresentSs p.legacy acc) (walkReads l p.snooped)) := by
  obtain ⟨hbound, huses⟩ := h
  obtain ⟨path, hpath, hlevels⟩ := finds_ssLevels acc huses true true true []
  have hin := finds_check (b := 2 ^ ssBound s.caps p.aw ≤ a.toNat) (by simpa using hbound) (if p.legacy then .lgn1_1 else .sgn5)
  refine ⟨path, hpath, fun hgranted => ?_, fun hr hw => ?_⟩
  · have hany : (!(true && allSet l 0) && !(true && allSet l 1)) = false := by
      rcases hgranted with h | h <;> simp [h]
    unfold ssFind
    rw [State.pscLookup_of_unused huse]
    refine hin.skip ((finds_note 2 4 none).skip (hlevels.last ?_))
    dsimp only
    refine finds.ite ((finds_noteLeaf _).skip ?_) ?_ <;> exact (finds_check hany _).skip (finds_pure _)
  · have hnone : (!(true && allSet l 0) && !(true && allSet l 1)) = true := by
      simp [hr, hw]
    unfold ssFind
    rw [State.pscLookup_of_unused huse]
    refine hin.skip_stops ((finds_note 2 4 none).skip_stops (hlevels.last_stops ?_))
    dsimp only
    refine stops.ite ((finds_noteLeaf _).skip_stops ?_) ?_ <;> exact (stops_check hnone _).bind _

theorem ssFind_stuck (huse : s.choice.use = []) (acc : Access) {a : Addr} {x : Halt} {l : List Addr}
    (hbound : a.toNat < 2 ^ ssBound s.caps p.aw) (h : s.SsStuck p.emte a (levels (agawLevels p.aw)) p.ptr x l) :
    stops (ssFind s p acc a) (haltCond p.legacy acc (l.length == 1) x) (entryReads l p.snooped) := by
  unfold ssFind
  rw [State.pscLookup_of_unused huse]
  refine (finds_check (by simpa using hbound) _).skip_stops ((finds_note 2 4 none).skip_stops ?_)
  exact (stops_ssLevels h true true true []).bind _

theorem ssFind_beyond (acc : Access) {a : Addr} (h : 2 ^ ssBound s.caps p.aw ≤ a.toNat) :
    stops (ssFind s p acc a) (if p.legacy then .lgn1_1 else .sgn5) [] := by
  unfold ssFind
  exact (stops_check (by simpa using h) _).bind _

theorem ssRights_eq_none {c : Caps} {legacy : Bool} {a : Access} {r w : Bool} (h : ssGrants c a r w) :
    ssRights c legacy a r w = none := by
  cases a <;> cases r <;> cases w <;> simp_all [ssGrants, ssRights, accessWrites]

theorem ssRights_of_refused {c : Caps} {legacy : Bool} {a : Access} {r w : Bool} (h : ¬ ssGrants c a r w) :
    ssRights c legacy a r w = some (if accessWrites a && !w then (if legacy then .lgn2 else .sgn6)
      else if legacy then .lgn3 else .sgn7) := by
  cases a <;> cases r <;> cases w <;> simp_all [ssGrants, ssRights, accessWrites]

/-- What a second-stage walk returns: its Dirty flag is set where this access sets it. -/
def SsFound.written (f : SsFound) (p : SsParams) (a : Access) : SsFound := { f with dirty := f.dirty || (p.ssade && (accessWrites a && f.w)) }

theorem ssFinish_of_refused {acc : Access} {x : SsFound × List PathEntry} (h : ¬ ssGrants s.caps acc x.1.r x.1.w) :
    stops (ssFinish s p false acc x) (if accessWrites acc && !x.1.w then (if p.legacy then .lgn2 else .sgn6)
      else if p.legacy then .lgn3 else .sgn7) [] := by
  unfold ssFinish ssDenies
  rw [Bool.false_and, if_neg Bool.false_ne_true, ssRights_of_refused h]
  exact (stops_throw _).bind _

theorem accessWrites_granted {c : Caps} {a : Access} {r w : Bool} (h : ssGrants c a r w) :
    (accessWrites a && w) = accessWrites a := by
  cases a <;> simp_all [ssGrants, accessWrites]

/-- A second-stage walk whose rights grant the access sets its flags. -/
theorem ssFinish_of_granted {acc : Access} {x : SsFound} {d : Bool} {l : List UsedEntry} {path : List PathEntry}
    (hgrants : ssGrants s.caps acc x.r x.w) (hpath : List.Forall₂ (ssSame d) path l) (hd : p.ssade = true → d = accessWrites acc) :
    ssFinish s p false acc (x, path) = (do
      if p.ssade then setFlags s p.snooped .sss5 .sfs8 .sss6 l
      pure (x.written p acc)) := by
  unfold ssFinish ssDenies
  rw [Bool.false_and, if_neg Bool.false_ne_true, ssRights_eq_none hgrants]
  dsimp only
  rw [accessWrites_granted hgrants, SsFound.written, accessWrites_granted hgrants]
  by_cases hade : p.ssade = true
  · rw [← hd hade, ssFlags_eq_setFlags p.snooped hpath]
  · rw [if_neg hade, if_neg hade]

theorem any_of_ssGrants {c : Caps} {acc : Access} {r w : Bool} (h : ssGrants c acc r w) : r = true ∨ w = true := by
  cases acc with
  | read => exact .inl h
  | write => exact .inr h
  | atomic => exact .inl h.1
  | zlr => exact h.imp_right And.right

theorem ssWalk_translates (huse : s.choice.use = []) {acc : Access} {d : Bool} {a : Addr} {l : List UsedEntry} {k : Nat}
    (h : ssLeads s p d a l k) (hgrants : ssGrants s.caps acc (allSet l 0) (allSet l 1))
    (hset : p.ssade = true → d = accessWrites acc ∧ settable s p.snooped l) :
    finds (ssWalk s p false acc a) ((ssLeaf s a l k).written p acc) (walkReads l p.snooped)
      (if p.ssade then owedUpdates l else []) := by
  obtain ⟨path, hpath, hfind, -⟩ := ssFind_leads huse acc h
  unfold ssWalk
  refine finds.bind (l' := []) (u := []) (u' := if p.ssade then owedUpdates l else []) (hfind (any_of_ssGrants hgrants)) ?_
  rw [ssFinish_of_granted (x := ssLeaf s a l k) hgrants hpath fun hade => (hset hade).1]
  by_cases hade : p.ssade = true
  · simp only [hade, if_true]
    exact (finds_setFlags (hset hade).2).last (finds_pure _)
  · simp only [hade]
    exact finds_pure _

/-- The rights of the entries refuse the access. -/
theorem ssWalk_refused (huse : s.choice.use = []) {acc : Access} {d : Bool} {a : Addr} {l : List UsedEntry} {k : Nat}
    (h : ssLeads s p d a l k) (hrefused : ¬ ssGrants s.caps acc (allSet l 0) (allSet l 1)) :
    stops (ssWalk s p false acc a)
      (if allSet l 0 = false ∧ allSet l 1 = false then notPresentSs p.legacy acc
       else if accessWrites acc && !allSet l 1 then (if p.legacy then .lgn2 else .sgn6)
       else if p.legacy then .lgn3 else .sgn7) (walkReads l p.snooped) := by
  obtain ⟨path, -, hfind, hstop⟩ := ssFind_leads huse acc h
  unfold ssWalk
  split
  next hnone => exact (hstop hnone.1 hnone.2).bind _
  next hsome =>
    refine (hfind ?_).last_stops (ssFinish_of_refused hrefused)
    cases h0 : allSet l 0 <;> cases h1 : allSet l 1 <;> simp_all

theorem ssWalk_flagsFail (huse : s.choice.use = []) {acc : Access} {a : Addr} {l : List UsedEntry} {k : Nat}
    (h : ssLeads s p (accessWrites acc) a l k) (hgrants : ssGrants s.caps acc (allSet l 0) (allSet l 1)) (hade : p.ssade = true)
    {c : Cond} (hflags : stops (setFlags s p.snooped .sss5 .sfs8 .sss6 l) c []) :
    stops (ssWalk s p false acc a) c (walkReads l p.snooped) := by
  obtain ⟨path, hpath, hfind, -⟩ := ssFind_leads huse acc h
  unfold ssWalk
  refine (hfind (any_of_ssGrants hgrants)).last_stops ?_
  rw [ssFinish_of_granted (x := ssLeaf s a l k) hgrants hpath fun _ => rfl, if_pos hade]
  exact hflags.bind _

theorem ssLast_alike (lenient : Bool) (acc : Access) (rw us : Bool) (a : Addr) :
    alike (ssLast s p lenient acc rw us a) (ssWalk s p lenient acc a) := by
  intro t
  unfold ssLast ssWalk
  rcases hfind : (ssFind s p acc a).run.run t with ⟨c | x, t1⟩
  · rw [run_bind_error hfind, run_bind_ok (run_attempt_error hfind)]
    refine ⟨fun _ _ h => (by cases h), fun c' t' h => ?_⟩
    cases h
    exact ⟨_, rfl, rfl, rfl⟩
  · rw [run_bind_ok hfind, run_bind_ok (run_attempt_ok hfind)]
    refine alike_attempt (fun _ => rfl) (fun c t2 => ?_) t1
    exact ⟨_, rfl, rfl, rfl⟩

end Sys2Proof.Machine
end

section
/-! Addresses of pages, and requests that go on. -/

namespace Sys2Proof.Machine

variable {s : State}

/-! ## Addresses -/

theorem toNat_lowBits (a : Addr) (n : Nat) : (lowBits a n).toNat = a.toNat % 2 ^ n := by
  rw [lowBits, BitVec.toNat_ofNat, Nat.mod_eq_of_lt (lt_of_le_of_lt (Nat.mod_le _ _) a.isLt)]

theorem toNat_highBits (a : Addr) (n : Nat) : (highBits a n).toNat = a.toNat / 2 ^ n * 2 ^ n := by
  rw [highBits, BitVec.toNat_ofNat, Nat.mod_eq_of_lt (lt_of_le_of_lt (Nat.div_mul_le_self _ _) a.isLt)]

theorem highBits_add_lowBits (a : Addr) (n : Nat) : highBits a n + lowBits a n = a := by
  apply BitVec.eq_of_toNat_eq
  rw [BitVec.toNat_add, toNat_highBits, toNat_lowBits, Nat.div_add_mod', Nat.mod_eq_of_lt a.isLt]

theorem toNat_addrField_mod {w : Nat} (e : BitVec w) (off lo top : Nat) {j : Nat} (hj : j ≤ lo) (hlo : lo ≤ 64) :
    (addrField e off lo top).toNat % 2 ^ j = 0 := by
  have hj64 : (2 : Nat) ^ j ∣ 2 ^ 64 := Nat.pow_dvd_pow 2 (hj.trans hlo)
  rw [addrField, BitVec.toNat_ofNat, Nat.mod_mod_of_dvd _ hj64]
  exact Nat.mod_eq_zero_of_dvd (Dvd.dvd.mul_left (Nat.pow_dvd_pow 2 hj) _)

/-- A leaf maps 2^sh bytes. -/
def leafAt (e : BitVec 64) (sh : Nat) : Prop := pgLeaf e sh = true ∧ 12 ≤ sh ∧ sh ≤ 48

theorem toNat_pgAddr_mod {haw : Nat} {e : BitVec 64} {sh j : Nat} (h : leafAt e sh) (hj : j ≤ sh) :
    (pgAddr haw e sh).toNat % 2 ^ j = 0 := by
  obtain ⟨hleaf, -, hsh⟩ := h
  unfold pgAddr
  by_cases hps : pgPs e sh = true
  · rw [if_pos hps]
    exact toNat_addrField_mod e 0 sh _ hj (by omega)
  · have h12 : sh = 12 := by simpa [pgLeaf, hps] using hleaf
    rw [if_neg hps]
    exact toNat_addrField_mod e 0 12 _ (h12 ▸ hj) (by omega)

theorem toNat_outputOf_mod {e : BitVec 64} {k j : Nat} (h : leafAt e k) (a : Addr) (hj : j ≤ k) :
    (s.outputOf e k a).toNat % 2 ^ j = a.toNat % 2 ^ j := by
  have hj64 : (2 : Nat) ^ j ∣ 2 ^ 64 := Nat.pow_dvd_pow 2 (by have := h.2.2; omega)
  rw [State.outputOf, BitVec.toNat_add, Nat.mod_mod_of_dvd _ hj64, Nat.add_mod, toNat_pgAddr_mod h hj, toNat_lowBits,
    Nat.mod_mod_of_dvd _ (Nat.pow_dvd_pow 2 hj), Nat.zero_add, Nat.mod_mod]

/-- A page of 2^k bytes at the upper bits of an address whose lower bits are the input's. -/
theorem highBits_add_lowBits_of_mod {h a : Addr} {k : Nat} (hmod : h.toNat % 2 ^ k = a.toNat % 2 ^ k) :
    highBits h k + lowBits a k = h := by
  have hlow : lowBits a k = lowBits h k := by rw [lowBits, lowBits, hmod]
  rw [hlow, highBits_add_lowBits]

theorem mem_levels {n sh : Nat} (h : sh ∈ levels n) : 12 ≤ sh ∧ sh ≤ 48 := by
  have hall : sh ∈ [48, 39, 30, 21, 12] := List.mem_of_mem_drop h
  simp at hall
  omega

theorem ssUses_leafAt {emte d : Bool} {a : Addr} {lv : List Nat} {table : Addr} {l : List UsedEntry} {k : Nat}
    (hlv : ∀ sh ∈ lv, 12 ≤ sh ∧ sh ≤ 48) (h : s.ssUses emte d a lv table l k) : leafAt (leafOf l) k := by
  induction lv generalizing table l with
  | nil => exact h.elim
  | cons sh rest ih =>
    cases l with
    | nil => exact h.elim
    | cons x more =>
      obtain ⟨-, -, -, -, -, -, hnext⟩ := h
      split at hnext
      next hleaf =>
        obtain ⟨rfl, rfl⟩ := hnext
        exact ⟨hleaf, hlv _ List.mem_cons_self⟩
      next =>
        obtain ⟨y, l', rfl⟩ := List.exists_cons_of_ne_nil (ssUses_ne_nil hnext)
        rw [leafOf_cons_cons]
        exact ih (fun sh' hsh => hlv sh' (List.mem_cons_of_mem _ hsh)) hnext

theorem ssLeads_leafAt {p : SsParams} {d : Bool} {a : Addr} {l : List UsedEntry} {k : Nat} (h : ssLeads s p d a l k) :
    leafAt (leafOf l) k := ssUses_leafAt (fun _ hsh => mem_levels hsh) h.2

theorem ssPage_output {d : Bool} {p q : SsParams} {acc : Access} {a : Addr} {l : List UsedEntry} {k : Nat} (h : ssLeads s p d a l k) :
    (ssPage ((ssLeaf s a l k).written q acc)).output a = s.outputOf (leafOf l) k a :=
  highBits_add_lowBits_of_mod (toNat_outputOf_mod (ssLeads_leafAt h) a le_rfl)

theorem ptRegion_le (b : Bool) (a : Addr) : ptRegion s b a ≤ 30 := by
  unfold ptRegion
  rw [List.head?_filter]
  cases h : List.find? _ [30, 21] with
  | none => simp
  | some k =>
    have := List.mem_of_find?_eq_some h
    simp at this ⊢
    omega

theorem ptPage_output (b : Bool) (a : Addr) : (ptPage s b a).output a = a := highBits_add_lowBits a _

/-! ## Requests that go on -/

theorem State.forwardFound_of_passed {u : State} {r : MemReq} {f : Found} {fpd : Bool}
    (hno : pmrBlocks u .untranslated r f.hpa (f.pgtt == 4) = false) :
    ∃ x, passedOn (u.keepFound f r fpd) x
        { req := r, hpa := f.hpa, snoop := pageSnoop u r f, mt := pageMemType u r.coherent f } ∧
      u.forwardFound r f fpd = { x with freeCtr := x.freeCtr + 1 } := by
  refine ⟨_, State.forward_passedOn _ _, ?_⟩
  have hkept : pmrBlocks (u.keepFound f r fpd) .untranslated r f.hpa (f.pgtt == 4) = false := by
    obtain ⟨l, hl⟩ := u.keepFound_frame f r fpd
    rw [hl]
    exact hno
  unfold State.forwardFound State.passOn
  rw [if_neg (Bool.eq_false_iff.1 hkept)]
  rfl

/-- A walk that finds a page sends the request there (42 R1032). -/
theorem exec_of_found {r : MemReq} {f : Found} {y : Seen} (hr : s.walksFor r) (hfill : s.fillsIotlbAtMost) (q : s.quiet .perf)
    (hw : yields (Machine.translate s .untranslated r) f Trail.empty.seen y) (hy : y.iotlb = none)
    (hno : pmrBlocks s .untranslated r f.hpa (f.pgtt == 4) = false) :
    ∃ v x, onlyCounted s v ∧
      passedOn ((State.updateAll { v with bus := y.bus ++ s.bus } y.upd).keepFound f r y.fpd) x
        { req := r, hpa := f.hpa, snoop := pageSnoop s r f, mt := pageMemType s r.coherent f } ∧
      exec (.untranslatedRequest r) s = .next { x with freeCtr := x.freeCtr + 1 } := by
  obtain ⟨v, hv, hexec⟩ := exec_of_yields hr hfill q hw hy
  have heq := eq_counted_of_onlyCounted hv
  obtain ⟨m, b, l, hframe⟩ := foldl_updateFlags_frame y.upd { v with bus := y.bus ++ s.bus }
  have hmore : ∀ f', pageSnoop (State.updateAll { v with bus := y.bus ++ s.bus } y.upd) r f' = pageSnoop s r f' ∧
      pageMemType (State.updateAll { v with bus := y.bus ++ s.bus } y.upd) r.coherent f' = pageMemType s r.coherent f' ∧
      pmrBlocks (State.updateAll { v with bus := y.bus ++ s.bus } y.upd) .untranslated r f'.hpa (f'.pgtt == 4) =
        pmrBlocks s .untranslated r f'.hpa (f'.pgtt == 4) := by
    intro f'
    rw [State.updateAll, hframe, heq]
    exact ⟨rfl, rfl, rfl⟩
  obtain ⟨hsnoop, hmt, hpmr⟩ := hmore f
  obtain ⟨x, hpassed, hforward⟩ := State.forwardFound_of_passed (fpd := y.fpd) (hpmr.trans hno)
  rw [hsnoop, hmt] at hpassed
  exact ⟨v, x, hv, hpassed, by rw [hexec, hforward]⟩

theorem State.keepFound_iotlb (u : State) (f : Found) (r : MemReq) (fpd : Bool) :
    ∃ l, u.keepFound f r fpd = { u with caches := { u.caches with iotlb := l } } := by
  unfold State.keepFound State.fillIotlb
  split
  · exact ⟨u.caches.iotlb, rfl⟩
  · split
    · exact ⟨_, rfl⟩
    · exact ⟨u.caches.iotlb, rfl⟩

/-- A fill of the IOTLB keeps the translation, and nothing else that was not there. -/
theorem State.mem_keepFound_of_fillsIotlb {u : State} (h : u.choice.fill = [.iotlb]) {f : Found} (hspecial : f.special = false)
    (hnew : f.fromIotlb = false) (r : MemReq) (fpd : Bool) {e : IotlbEntry}
    (he : e = f.iotlbEntry u.caps u.plat.haw u.choice.smaller r fpd) :
    e ∈ (u.keepFound f r fpd).caches.iotlb ∧ ∀ y ∈ (u.keepFound f r fpd).caches.iotlb, y = e ∨ y ∈ u.caches.iotlb := by
  unfold State.keepFound State.fillIotlb
  rw [if_neg (by simp [hspecial, hnew]), if_pos (by simp [Choice.fills, h]), ← he]
  exact ⟨List.mem_cons_self, fun y hy => (List.mem_cons.1 hy).imp_right fun hy => (List.mem_filter.1 hy).1⟩

theorem State.keepFound_of_fillsNone {u : State} (h : u.choice.fill = []) (f : Found) (r : MemReq) (fpd : Bool) :
    u.keepFound f r fpd = u := by
  unfold State.keepFound
  rw [State.fillIotlb_of_fillsNone h, ite_self]

end Sys2Proof.Machine
end

section
/-! Legacy mode. -/

namespace Sys2Proof.Machine

variable {s : State}

/-! ## The page of a legacy request -/

theorem legacyWalk_finds {r : MemReq} {ce : BitVec 256} {f : SsFound} {l : List UnitAccess}
    (h : finds (ssWalk s (legacySs s ce) false r.access r.addr) f l []) : finds (legacyWalk s r ce) (ssPage f) l [] := by
  unfold legacyWalk
  refine (keepBad_alike r _ _).finds ?_
  exact ((ctxMarked_alike r.sid ce _).finds ((ssLast_alike false r.access true true r.addr).finds h)).last (finds_pure _)

theorem legacyWalk_stops {r : MemReq} {ce : BitVec 256} {c : Cond} {l : List UnitAccess}
    (h : stops (ssWalk s (legacySs s ce) false r.access r.addr) c l) : stops (legacyWalk s r ce) c l := by
  unfold legacyWalk
  refine (keepBad_alike r _ _).stops ?_
  exact ((ctxMarked_alike r.sid ce _).stops ((ssLast_alike false r.access true true r.addr).stops h)).bind _

theorem legacyFinish_walks {ce : BitVec 256} (htt : ceTt ce = 0 ∨ ceTt ce = 1) (r : MemReq) :
    legacyFinish s r ce = (do
      let p ← legacyWalk s r ce
      check (outputInRange .untranslated p r.addr) .lgn4
      pure (legacyFound s r none ce p)) := by
  unfold legacyFinish
  rw [if_neg (by rcases htt with h | h <;> simp [h])]

/-- The page that legacy tables give. -/
def legacyMappedPage (s : State) (r : MemReq) (ce : BitVec 256) (l : List UsedEntry) (k : Nat) : PageResult :=
  ssPage ((ssLeaf s r.addr l k).written (legacySs s ce) r.access)

theorem legacyWalk_translates (huse : s.choice.use = []) {r : MemReq} {ce : BitVec 256} {l : List UsedEntry} {k : Nat}
    (h : s.legacyMapped ce r.addr l k) (hgrants : ssGrants s.caps r.access (allSet l 0) (allSet l 1)) :
    finds (legacyWalk s r ce) (legacyMappedPage s r ce l k) (walkReads l s.caps.c) [] :=
  legacyWalk_finds (ssWalk_translates (p := legacySs s ce) huse h hgrants nofun)

theorem legacyMappedPage_output {r : MemReq} {ce : BitVec 256} {l : List UsedEntry} {k : Nat} (h : s.legacyMapped ce r.addr l k) :
    (legacyMappedPage s r ce l k).output r.addr = s.outputOf (leafOf l) k r.addr :=
  ssPage_output (p := legacySs s ce) h

/-! ## Refused requests -/

theorem refusedAs_of_legacyFinish (hon : s.legacyOn) (huse : s.choice.use = []) {r : MemReq} (hp : r.pasid = none) {ca : Addr}
    {ce : BitVec 256} (hce : s.legacyContext r.sid ca ce) {c : Cond} {l : List UnitAccess} (hq : c.qualified = true)
    (h : stops (legacyFinish s r ce) c l) :
    refusedAs (Machine.translate s .untranslated r) (l ++ s.legacyReads r.sid ca) c.reason (ceFpd ce) := by
  have hstop := h ((Trail.empty.seen.reads (s.legacyReads r.sid ca)).meets (ceFpd ce))
  exact ⟨c, ceFpd ce, rfl, by simp [hq], (translate_leads_legacyFinish hon huse hp hce).faults (by simpa using hstop)⟩

theorem legacyFinish_beyond {r : MemReq} {ce : BitVec 256} (htt : ceTt ce = 2) (h : s.hpaEnd ≤ r.addr.toNat) :
    stops (legacyFinish s r ce) .lgn1_3 [] := by
  unfold legacyFinish
  rw [if_pos (by simp [htt])]
  exact (stops_check (by simpa using h) .lgn1_3).bind _

theorem legacyWalk_unmapped (huse : s.choice.use = []) {r : MemReq} {ce : BitVec 256} {reason : BitVec 8} {l : List Addr}
    (h : s.legacyUnmapped ce r.access r.addr reason l) :
    ∃ c, c.reason = reason ∧ c.qualified = true ∧ stops (legacyWalk s r ce) c (entryReads l s.caps.c) := by
  unfold State.legacyUnmapped at h
  split at h
  next hbeyond =>
    obtain ⟨rfl, rfl⟩ := h
    exact ⟨.lgn1_1, rfl, rfl, legacyWalk_stops ((ssFind_beyond (p := legacySs s ce) r.access hbeyond).bind _)⟩
  next hbound =>
    obtain ⟨x, hstuck, rfl⟩ := h
    refine ⟨_, ?_, ?_, legacyWalk_stops
      ((ssFind_stuck (p := legacySs s ce) huse r.access (Nat.lt_of_not_le hbound) hstuck).bind _)⟩ <;>
    cases x <;> by_cases hone : l.length = 1 <;> cases hw : accessWrites r.access <;>
      simp [haltCond, notPresentSs, legacySs, Halt.legacyReason, hone, hw] <;> rfl

theorem legacyWalk_refused (huse : s.choice.use = []) {r : MemReq} {ce : BitVec 256} {l : List UsedEntry} {k : Nat}
    (h : s.legacyMapped ce r.addr l k) (hno : ¬ ssGrants s.caps r.access (allSet l 0) (allSet l 1)) :
    stops (legacyWalk s r ce) (if accessWrites r.access = true ∧ allSet l 1 = false then .lgn2 else .lgn3)
      (walkReads l s.caps.c) := by
  have hstop := legacyWalk_stops (ssWalk_refused (p := legacySs s ce) huse h hno)
  convert hstop using 1
  · cases hw : accessWrites r.access <;> cases allSet l 0 <;> cases allSet l 1 <;> simp [notPresentSs, legacySs, hw]
  · rfl

/-- Settles O42: each refusal is a condition that the walk raises, and a walk that raises one blocks the request
(`blocks_of_refusedAs`). -/
theorem legacyRequestFaults : Obligations.LegacyRequestFaults := by
  intro s r hwf hu qp qf hfree htes hrange
  have blocked : ∀ {reads reason fpd}, refusedAs (Machine.translate s .untranslated r) reads reason fpd →
      s.blocks r reads reason fpd := fun h => blocks_of_refusedAs ⟨htes, hrange⟩ hu qp qf hfree h
  refine ⟨fun reason hmode => ?_, fun hon hp => ?_, fun hon hp => ⟨fun reads reason fpd h => ?_, fun ca ce hce => ⟨?_, ?_⟩⟩⟩
  · obtain ⟨c, hc, rfl, -⟩ := modeFault_of_modeRefuses hmode
    exact blocked (stops_translate_of_modeFault hc r).refusedAs
  · exact blocked (stops_translate_of_legacyPasid hon hp).refusedAs
  · exact blocked (translate_of_legacyRefuses hon hu.1 hp h)
  · intro htt hbeyond
    exact blocked (refusedAs_of_legacyFinish hon hu.1 hp hce rfl (legacyFinish_beyond htt hbeyond))
  · intro htt
    have finished : ∀ {c l}, c.qualified = true → stops (legacyWalk s r ce) c l →
        s.blocks r (l ++ s.legacyReads r.sid ca) c.reason (ceFpd ce) := fun {c l} hq h =>
      blocked (refusedAs_of_legacyFinish hon hu.1 hp hce hq (by rw [legacyFinish_walks htt]; exact h.bind _))
    refine ⟨fun reason l hun => ?_, fun l k hmap => ⟨fun hno => ?_, fun hgrants hout => ?_⟩⟩
    · obtain ⟨c, rfl, hq, hstop⟩ := legacyWalk_unmapped hu.1 hun
      exact finished hq hstop
    · have hstop := finished ?_ (legacyWalk_refused hu.1 hmap hno)
      · split at hstop
        next h => rw [if_pos h]; exact hstop
        next h => rw [if_neg h]; exact hstop
      · split <;> rfl
    · refine blocked (refusedAs_of_legacyFinish (c := .lgn4) hon hu.1 hp hce rfl ?_)
      rw [legacyFinish_walks htt]
      refine (legacyWalk_translates hu.1 hmap hgrants).last_stops ((stops_check ?_ .lgn4).bind _)
      change inInterruptRange ((legacyMappedPage s r ce l k).output r.addr) = true
      rw [legacyMappedPage_output hmap, hout]

/-! ## Requests that go on -/

theorem pageMemType_legacyFound (r : MemReq) (hit : Option IotlbEntry) (ce : BitVec 256) (p : PageResult) :
    pageMemType s r.coherent (legacyFound s r hit ce p) = if r.coherent && s.caps.mts then some .wb else none := by
  unfold pageMemType
  cases r.coherent <;> cases s.caps.mts <;> rfl

theorem pageSnoop_legacyFound (r : MemReq) (hit : Option IotlbEntry) (ce : BitVec 256) (p : PageResult) :
    pageSnoop s r (legacyFound s r hit ce p) = (!r.ns || (ceTt ce != 2 && s.caps.sc && bitAt p.ssLeaf 11)) := by
  simp [pageSnoop, legacyFound]

theorem legacyFound_pgtt_of_walked {ce : BitVec 256} (htt : ceTt ce = 0 ∨ ceTt ce = 1) (r : MemReq) (hit : Option IotlbEntry)
    (p : PageResult) : ((legacyFound s r hit ce p).pgtt == 4) = false := by
  rcases htt with h | h <;> simp [legacyFound, h]

theorem legacyFinish_passes {r : MemReq} {ce : BitVec 256} (htt : ceTt ce = 2) (hbelow : r.addr.toNat < s.hpaEnd)
    (hrange : inInterruptRange r.addr = false) :
    finds (legacyFinish s r ce) (legacyFound s r none ce (ptPage s false r.addr)) [] [] := by
  unfold legacyFinish
  rw [if_pos (by simp [htt])]
  exact (finds_check (by simpa using hbelow) .lgn1_3).skip ((finds_check hrange .lgn4).skip (finds_pure _))

/-- Settles O41: behind the checks of the context entry the walk finds the page of the address itself. -/
theorem legacyPassThrough : Obligations.LegacyPassThrough := by
  intro s r ca ce hwf hp hon hu hrange hce htt hbelow hno q
  have hpage : (legacyFound s r none ce (ptPage s false r.addr)).hpa = r.addr := ptPage_output false r.addr
  have hw := (translate_leads_legacyFinish hon hu.1 hp hce).yields
    ((legacyFinish_passes htt hbelow hrange).yields_same _)
  obtain ⟨v, x, hv, hpassed, hexec⟩ := exec_of_found ⟨hon.1, fun _ => hrange⟩ (.inl hu.2) q hw rfl
    (by rw [hpage]; simpa [legacyFound, htt] using hno)
  refine ⟨v, x, hv, ?_, hexec⟩
  have hfill : v.choice.fill = [] := by rw [hv.1]; exact hu.2
  rw [State.keepFound_of_fillsNone (by simpa [State.updateAll] using hfill), hpage] at hpassed
  rw [pageMemType_legacyFound, pageSnoop_legacyFound] at hpassed
  simpa [State.updateAll, htt] using hpassed

/-! ## Cached translations -/

theorem Found.iotlbEntry_cut {f : Found} {r : MemReq} {k : Nat} (hk : f.page.shift = k) (h12 : 12 ≤ k)
    (hmod : ∀ j ≤ k, (f.page.output r.addr).toNat % 2 ^ j = r.addr.toNat % 2 ^ j) (c : Caps) (haw smaller : Nat) (fpd : Bool) :
    (f.iotlbEntry c haw smaller r fpd).page.output r.addr = f.page.output r.addr ∧
      (f.iotlbEntry c haw smaller r fpd).base.toNat / 2 ^ (f.iotlbEntry c haw smaller r fpd).page.shift =
        r.addr.toNat / 2 ^ (f.iotlbEntry c haw smaller r fpd).page.shift := by
  have hle : fillShift f.page.shift smaller ≤ k := by
    unfold fillShift
    omega
  constructor
  · exact highBits_add_lowBits_of_mod (hmod _ hle)
  · change (highBits r.addr (fillShift f.page.shift smaller)).toNat / 2 ^ fillShift f.page.shift smaller = _
    rw [toNat_highBits, Nat.mul_div_cancel _ (Nat.two_pow_pos _)]
    rfl

theorem legacyFinish_translates (huse : s.choice.use = []) {r : MemReq} {ce : BitVec 256} (htt : ceTt ce = 0 ∨ ceTt ce = 1)
    {l : List UsedEntry} {k : Nat} (h : s.legacyMapped ce r.addr l k)
    (hgrants : ssGrants s.caps r.access (allSet l 0) (allSet l 1))
    (hrange : inInterruptRange (s.outputOf (leafOf l) k r.addr) = false) :
    finds (legacyFinish s r ce) (legacyFound s r none ce (legacyMappedPage s r ce l k)) (walkReads l s.caps.c) [] := by
  rw [legacyFinish_walks htt]
  refine (legacyWalk_translates huse h hgrants).last ((finds_check ?_ .lgn4).skip (finds_pure _))
  change inInterruptRange ((legacyMappedPage s r ce l k).output r.addr) = false
  rw [legacyMappedPage_output h, hrange]

/-- A cached translation answers the request. -/
theorem translate_of_hit {r : MemReq} {e : IotlbEntry} (hp : r.pasid = none) (hon : s.legacyOn) (huse : s.choice.use = [.iotlb])
    (honly : ∀ y, (y ∈ s.caches.iotlb ∧ y.serves s.plat.iotlbCrossHit false r.sid none r.addr = true) ↔ y = e)
    (hfault : e.fault = none) (hentry : finds (legacyEntryChecks s e.ce) () [] []) (htt : ceTt e.ce = 0 ∨ ceTt e.ce = 1)
    (hfs : usesFs e.pgtt = false) (hade : peSsade e.pe = false) (hgrants : ssGrants s.caps r.access e.page.r e.page.w)
    (hrange : inInterruptRange (e.page.output r.addr) = false) :
    yields (Machine.translate s .untranslated r) (legacyFound s r (some e) e.ce e.page) Trail.empty.seen
      (Trail.empty.seen.meets (ceFpd e.ce)) := by
  obtain ⟨hmode, hscal⟩ := modeFault_of_legacyOn hon
  have hlookup : s.iotlbLookup r.sid (r.pasid.map (·.pasid)) r.addr = some e := by
    have hmem : ∀ y, y ∈ s.caches.iotlb.filter (fun y => y.serves s.plat.iotlbCrossHit false r.sid none r.addr) ↔ y = e :=
      fun y => List.mem_filter.trans (honly y)
    have hpos : 0 < (s.caches.iotlb.filter (fun y => y.serves s.plat.iotlbCrossHit false r.sid none r.addr)).length :=
      List.length_pos_of_mem ((hmem e).2 rfl)
    unfold State.iotlbLookup Choice.among
    rw [if_pos (by simp [Choice.uses, huse]), hscal, hp, Option.map_none, List.getElem?_eq_getElem (Nat.mod_lt _ hpos)]
    exact congrArg some ((hmem _).1 (List.getElem_mem _))
  have husable : e.usable s.caps false r.access = true := by
    simp [IotlbEntry.usable, hfault, hfs, hade]
  have hrefuses : e.refuses s.caps false r.access = none := by
    simp [IotlbEntry.refuses, hfault, ssDenies, ssRights_eq_none hgrants]
  have htry : finds (iotlbTry s false r r.access) (some e) [] [] := by
    unfold iotlbTry
    refine (finds_note 3 0 none).skip ?_
    rw [hlookup]
    refine (finds_note 3 1 _).skip ?_
    rw [if_pos husable]
    exact finds_pure _
  have hrights : finds (cachedRights s e false false 0 r.access) () [] [] := by
    unfold cachedRights
    rw [hfs]
    simp only [Bool.false_eq_true, if_false, hrefuses]
    exact finds_pure ()
  unfold Machine.translate translateLegacy
  refine ((finds_checkMode hmode).yields_same _).bind ?_
  rw [if_neg (by simp [hscal])]
  refine ((finds_check (by simp [hp]) .rta2).yields_same _).bind ?_
  refine (htry.yields_same _).bind ?_
  refine (yields_pure _ _).bind ?_
  refine (yields_legacyChecks hentry r.sid false _).bind ?_
  dsimp only
  rw [isSpecial_untranslated, if_neg Bool.false_ne_true, if_neg (by rcases htt with h | h <;> simp [h])]
  refine finds.yields_same ?_ _
  refine (finds_noteLeaf _).skip (hrights.skip ((finds_pure _).skip ((finds_check hrange .lgn4).skip (finds_pure _))))

/-- What an IOTLB fill keeps of the translation of a request that legacy tables map (23 R820, R823). -/
theorem legacyFound_iotlbEntry {r : MemReq} {ce : BitVec 256} {l : List UsedEntry} {k : Nat} (hp : r.pasid = none)
    (h : s.legacyMapped ce r.addr l k) (smaller : Nat) (fpd cross : Bool) {e : IotlbEntry}
    (he : e = (legacyFound s r none ce (legacyMappedPage s r ce l k)).iotlbEntry s.caps s.plat.haw smaller r fpd) :
    e.serves cross false r.sid none r.addr = true ∧ e.fault = none ∧ e.did = ceDid ce ∧ e.ce = ce ∧
      e.page.r = allSet l 0 ∧ e.page.w = allSet l 1 ∧ e.page.output r.addr = s.outputOf (leafOf l) k r.addr := by
  have hleaf := ssLeads_leafAt (p := legacySs s ce) h
  have hout : (legacyFound s r none ce (legacyMappedPage s r ce l k)).page.output r.addr = s.outputOf (leafOf l) k r.addr :=
    legacyMappedPage_output h
  obtain ⟨hcut, hbase⟩ := Found.iotlbEntry_cut (f := legacyFound s r none ce (legacyMappedPage s r ce l k)) (r := r) (k := k) rfl
    hleaf.2.1 (fun j hj => by rw [hout, toNat_outputOf_mod hleaf r.addr hj]) s.caps s.plat.haw smaller fpd
  rw [← he] at hcut hbase
  refine ⟨?_, by rw [he]; rfl, by rw [he]; rfl, by rw [he]; rfl, by rw [he]; rfl, by rw [he]; rfl, hcut.trans hout⟩
  have hsid : e.sid = r.sid := by rw [he]; rfl
  have hlegacy : e.legacy = true := by rw [he]; rfl
  have hwith : e.withPasid = false := by rw [he]; simp [Found.iotlbEntry, hp]
  simp [IotlbEntry.serves, hsid, hlegacy, hwith, hbase]

/-- A request that legacy tables map goes to the address they give, whatever the IOTLB keeps of it. -/
theorem exec_of_legacyMapped {r : MemReq} {ca : Addr} {ce : BitVec 256} {l : List UsedEntry} {k : Nat} (hp : r.pasid = none)
    (hon : s.legacyOn) (huse : s.choice.use = []) (hfill : s.fillsIotlbAtMost) (hrange : inInterruptRange r.addr = false)
    (hce : s.legacyContext r.sid ca ce) (htt : ceTt ce = 0 ∨ ceTt ce = 1) (hmap : s.legacyMapped ce r.addr l k)
    (hgrants : ssGrants s.caps r.access (allSet l 0) (allSet l 1))
    (hout : inInterruptRange (s.outputOf (leafOf l) k r.addr) = false)
    (hno : pmrBlocks s .untranslated r (s.outputOf (leafOf l) k r.addr) false = false) (q : s.quiet .perf) :
    ∃ v x, onlyCounted s v ∧
      passedOn (State.keepFound { v with bus := walkReads l s.caps.c ++ s.legacyReads r.sid ca ++ s.bus }
          (legacyFound s r none ce (legacyMappedPage s r ce l k)) r (ceFpd ce)) x
        { req := r, hpa := s.outputOf (leafOf l) k r.addr, snoop := !r.ns || (s.caps.sc && bitAt (leafOf l) 11),
          mt := if r.coherent && s.caps.mts then some .wb else none } ∧
      exec (.untranslatedRequest r) s = .next { x with freeCtr := x.freeCtr + 1 } := by
  have hpage : (legacyFound s r none ce (legacyMappedPage s r ce l k)).hpa = s.outputOf (leafOf l) k r.addr :=
    legacyMappedPage_output hmap
  have hw := (translate_leads_legacyFinish hon huse hp hce).yields
    ((legacyFinish_translates huse htt hmap hgrants hout).yields _)
  obtain ⟨v, x, hv, hpassed, hexec⟩ := exec_of_found ⟨hon.1, fun _ => hrange⟩ hfill q hw rfl
    (by rw [hpage, legacyFound_pgtt_of_walked htt, hno])
  refine ⟨v, x, hv, ?_, hexec⟩
  have htt2 : (ceTt ce != 2) = true := by rcases htt with h | h <;> simp [h]
  have hleaf : (legacyMappedPage s r ce l k).ssLeaf = leafOf l := rfl
  rw [hpage, pageMemType_legacyFound, pageSnoop_legacyFound, htt2, Bool.true_and, hleaf] at hpassed
  simpa [State.updateAll] using hpassed

/-- Settles O40: `exec_of_legacyMapped` for the tables, `translate_of_hit` for a cached translation. -/
theorem legacyTranslation : Obligations.LegacyTranslation := by
  refine ⟨?_, ?_⟩
  · intro s r ca ce l k hpa hwf hp hon huse hfill hrange hce htt hmap hgrants hhpa hout hno q
    subst hhpa
    obtain ⟨v, x, hv, hpassed, hexec⟩ := exec_of_legacyMapped hp hon huse hfill hrange hce htt hmap hgrants hout hno q
    have hchoice : v.choice = s.choice ∧ v.caches = s.caches ∧ v.caps = s.caps ∧ v.plat = s.plat := by
      rw [hv.1]
      exact ⟨rfl, rfl, rfl, rfl⟩
    obtain ⟨hchoice, hcaches, hcaps, hplat⟩ := hchoice
    refine ⟨v, _, x, hv, ?_, ?_, ?_, hpassed, hexec⟩
    · obtain ⟨c, hc⟩ := State.keepFound_iotlb { v with bus := walkReads l s.caps.c ++ s.legacyReads r.sid ca ++ s.bus }
        (legacyFound s r none ce (legacyMappedPage s r ce l k)) r (ceFpd ce)
      rw [hc, hcaches]
    · intro hnone
      rw [State.keepFound_of_fillsNone (by simpa [hchoice] using hnone)]
      exact congrArg Caches.iotlb hcaches
    · intro hone
      have hentry : (legacyFound s r none ce (legacyMappedPage s r ce l k)).iotlbEntry s.caps s.plat.haw v.choice.smaller r (ceFpd ce)
          = (legacyFound s r none ce (legacyMappedPage s r ce l k)).iotlbEntry v.caps v.plat.haw v.choice.smaller r (ceFpd ce) := by
        rw [hcaps, hplat]
      obtain ⟨hmem, honly⟩ := State.mem_keepFound_of_fillsIotlb
        (u := { v with bus := walkReads l s.caps.c ++ s.legacyReads r.sid ca ++ s.bus }) (hchoice ▸ hone) rfl rfl r (ceFpd ce) hentry
      exact ⟨_, fun y hy => (honly y hy).imp_right fun h => by rw [← hcaches]; exact h, hmem,
        legacyFound_iotlbEntry hp hmap _ (ceFpd ce) _ rfl⟩
  · intro s r e hwf hp hon huse hfill hrange honly hfault hpresent hrsvd haw htt hfs hade hgrants hout hno q
    have htt' : ceTt e.ce = 0 ∨ ceTt e.ce = 1 := htt.imp_right And.left
    have hok : ttOk s.caps (ceTt e.ce) = true := by
      rcases htt with h | ⟨h, hdt⟩
      · simp [ttOk, h]
      · simp [ttOk, h, hdt]
    have hw := translate_of_hit hp hon huse honly hfault (finds_legacyEntryChecks hpresent hrsvd haw hok) htt' hfs hade hgrants hout
    obtain ⟨v, x, hv, hpassed, hexec⟩ := exec_of_found ⟨hon.1, fun _ => hrange⟩ (.inl hfill) q hw rfl
      (by rw [legacyFound_pgtt_of_walked htt']; exact hno)
    refine ⟨v, x, hv, ?_, hexec⟩
    have hfill : v.choice.fill = [] := by rw [hv.1]; exact hfill
    have hbus : { v with bus := s.bus } = v := by rw [hv.1]
    have htt2 : (ceTt e.ce != 2) = true := by rcases htt' with h | h <;> simp [h]
    rw [State.keepFound_of_fillsNone (by simpa [State.updateAll] using hfill), pageMemType_legacyFound, pageSnoop_legacyFound,
      htt2, Bool.true_and] at hpassed
    have hhpa : (legacyFound s r (some e) e.ce e.page).hpa = e.page.output r.addr := rfl
    rw [hhpa] at hpassed
    simpa [State.updateAll, hbus] using hpassed

end Sys2Proof.Machine
end

section
/-! The tables of scalable mode. -/

namespace Sys2Proof.Machine

variable {s : State}

/-! ## A scalable-mode translation in stages -/

/-- What a PASID-table entry and a page make of a request. -/
def scalableFound (s : State) (r : MemReq) (ce : BitVec 256) (pasid : Pasid) (pr : Bool) (pe : BitVec 512) (p : PageResult) :
    Found :=
  { hpa := p.output r.addr, page := p, legacy := false, pgtt := pePgtt pe, pasid := pasid, did := peDid pe, ce := ce, pe := pe,
    r := p.r
    w := (if usesFs (pePgtt pe) then fsWrite pr (peWpe pe) p.rw else true) && p.w &&
      !(ReqKind.untranslated == .translation && reqReadOnly s.caps r)
    special := false, fromIotlb := false }

/-- The second-stage walk of a PASID-table entry. -/
def scalableSs (s : State) (pe : BitVec 512) : SsParams :=
  { legacy := false, ptr := peSsptptr s.plat.haw pe, aw := peAw pe, did := peDid pe, ssade := peSsade pe, emte := peEmte pe,
    snooped := snoopedWalk s.caps pe, final := true }

/-- The first-stage walk of a PASID-table entry. -/
def scalableFs (s : State) (pasid : Pasid) (pr : Bool) (pe : BitVec 512) (nested : Bool) : FsParams :=
  { pe := pe, pasid := pasid, did := peDid pe, pr := pr, nested := nested, ss := scalableSs s pe }

/-- The walk that a PASID-table entry asks for. -/
def scalableWalk (s : State) (r : MemReq) (pasid : Pasid) (pr : Bool) (pe : BitVec 512) : Walk PageResult :=
  match (pePgtt pe).toNat with
  | 1 => fsWalk s (scalableFs s pasid pr pe false) false r.access r.addr
  | 3 => fsWalk s (scalableFs s pasid pr pe true) false r.access r.addr
  | 2 => do
    let f ← ssLast s (scalableSs s pe) false r.access true true r.addr
    pure (ssPage f)
  | _ => do
    check (s.hpaEnd ≤ r.addr.toNat) .sgn4_2
    pure (ptPage s r.pasid.isSome r.addr)

/-- A scalable-mode request that its PASID-table entry allows, without a cached translation. -/
def scalableOut (s : State) (r : MemReq) (ce : BitVec 256) (pasid : Pasid) (pr : Bool) (pe : BitVec 512) : Walk Found := do
  let p ← keepBad s r (scalableFound s r ce pasid pr pe) (scalableWalk s r pasid pr pe)
  check (outputInRange .untranslated p r.addr) .sgn8_1
  pure (scalableFound s r ce pasid pr pe p)

/-- A scalable-mode request behind the checks of its PASID-table entry, without a cached translation. -/
def scalableFinish (s : State) (r : MemReq) (ce : BitVec 256) (pasid : Pasid) (pr er : Bool) (pe : BitVec 512) : Walk Found := do
  modify fun u => { u with n := pePgsnp pe }
  check (er && !s.caps.ers) .spt5
  check (pr && !peSre pe) .spt6
  keepPasid r.sid pasid pe
  modify fun u => { u with did := some (peDid pe) }
  scalableOut s r ce pasid pr pe

/-- A scalable-mode request behind the choice of its PASID, without a cached translation. -/
def scalableEntry (s : State) (r : MemReq) (ce : BitVec 256) (pasid : Pasid) (pr er : Bool) : Walk Found := do
  let pe ← pasidFetch s r.sid pasid ce
  pasidChecks s r.sid pasid pe
  if s.caps.cm then keepPasid r.sid pasid pe
  scalableFinish s r ce pasid pr er pe

/-- A scalable-mode request behind the checks of its context entry, without a cached translation. -/
def scalableRest (s : State) (r : MemReq) (ce : BitVec 256) : Walk Found := do
  check (ReqKind.untranslated == .translation && !smDte ce) .sct5
  let (pasid, pr, er) := effPasid s r ce
  if r.pasid.isSome then do
    check (!smPaside ce) .sct6
    check (s.caps.rps && pasid == smRidPasid s.caps ce) .sct9
    let tooWide := 2 ^ s.caps.pssBits ≤ pasid.toNat
    if true && tooWide then keepCtx r.sid 0 ce
    check tooWide .sgn10
  scalableEntry s r ce pasid pr er

theorem translate_leads_scalable (hon : s.scalableOn) (huse : s.choice.use = []) (r : MemReq) (x : Seen) :
    leads (Machine.translate s .untranslated r) (smFetch s r.sid >>= fun ce => smChecks s r.sid true r.pasid.isNone ce >>=
      fun _ => scalableRest s r ce) x x := by
  obtain ⟨hmode, hscal⟩ := modeFault_of_scalableOn hon
  unfold Machine.translate translateScalable
  refine ((finds_checkMode hmode).yields_same _).leads ?_
  rw [if_pos (by simp [hscal])]
  refine ((finds_iotlbTry_of_unused huse _ r _).yields_same _).leads ?_
  exact leads_refl _ _

/-! ## The context entry -/

theorem stops_smFetch (huse : s.choice.use = []) (sid : SourceId) {c : Cond} {l : List UnitAccess}
    (h : stops (do
      let v ← fetch s (s.rootAt sid) 16 s.caps.c .srt1
      check (!bitAt (smRootHalf (BitVec.ofNat 128 v) sid) 0) .srt2
      check (smRootRsvd s.plat.haw (smRootHalf (BitVec.ofNat 128 v) sid)) .srt3
      let e ← fetch s (entryAddr (addrField (smRootHalf (BitVec.ofNat 128 v) sid) 0 12 s.plat.haw) 32 (field sid 0 7).toNat) 32
        s.caps.c .sct1
      pure (BitVec.ofNat 256 e)) c l) : stops (smFetch s sid) c l := by
  unfold smFetch
  refine (finds_note 2 0 none).skip_stops ?_
  rw [State.ctxLookup_of_unused huse]
  exact (ctxMarked_alike sid 0 _).stops h

theorem finds_smFetch (huse : s.choice.use = []) {sid : SourceId} {ca : Addr} {ce : BitVec 256} (hroot : s.scalableRoot sid ca)
    (hce : s.contextAt ca 32 ce) : finds (smFetch s sid) ce (s.contextReads sid ca) [] := by
  obtain ⟨re, hre, hpresent, hrsvd, rfl⟩ := hroot
  obtain ⟨c, hc, rfl⟩ := hce
  unfold smFetch
  refine (finds_note 2 0 none).skip ?_
  rw [State.ctxLookup_of_unused huse]
  refine (ctxMarked_alike sid 0 _).finds ?_
  refine (finds_fetch hre s.caps.c .srt1).bind (u' := []) (l' := [_]) ?_
  refine (finds_check (by simp [hpresent]) .srt2).skip ((finds_check hrsvd .srt3).skip ?_)
  exact (finds_fetch hc s.caps.c .sct1).last (finds_pure _)

theorem finds_smEntryChecks {ce : BitVec 256} (hp : ceP ce = true) (hr : smCtxRsvd s.caps s.plat.haw ce = false)
    (hsct : sct41 s ce = false) : finds (smEntryChecks s ce) () [] [] := by
  unfold smEntryChecks
  exact (finds_check (by simp [hp]) .sct2).skip ((finds_check hr .sct3).skip (finds_check hsct .sct4_1))

/-- Without PASID the unit supports the RID_PASID of the context entry. -/
def ridSupported (s : State) (noPasid : Bool) (ce : BitVec 256) : Prop :=
  noPasid = true → (smRidPasid s.caps ce).toNat < 2 ^ s.caps.pssBits

theorem yields_smChecks {ce : BitVec 256} (h : finds (smEntryChecks s ce) () [] []) (sid : SourceId) (new : Bool) {noPasid : Bool}
    (hrid : ridSupported s noPasid ce) (x : Seen) : yields (smChecks s sid new noPasid ce) () x (x.meets (ceFpd ce)) := by
  have hlast := finds_check (b := noPasid && 2 ^ s.caps.pssBits ≤ (smRidPasid s.caps ce).toNat)
    (by cases noPasid <;> simp_all [ridSupported]) .sct4_2
  unfold smChecks
  refine (yields_meet (ceFpd ce) x).bind (finds.yields_same (((ctxMarked_alike sid ce _).finds h).skip ?_) _)
  exact finds.ite (finds.skip (finds_keepCtx sid 0 ce) hlast) hlast

theorem faults_smChecks {ce : BitVec 256} {c : Cond} (h : stops (smEntryChecks s ce) c []) (sid : SourceId) (new noPasid : Bool)
    (x : Seen) : faults (smChecks s sid new noPasid ce) c x x.bus (x.fpd || ceFpd ce) := by
  unfold smChecks
  exact (yields_meet (ceFpd ce) x).bind_faults (((ctxMarked_alike sid ce _).stops h).bind _ (x.meets (ceFpd ce)))

theorem faults_smChecks_of_rid {ce : BitVec 256} (h : finds (smEntryChecks s ce) () [] []) (sid : SourceId) (new : Bool)
    (hrid : 2 ^ s.caps.pssBits ≤ (smRidPasid s.caps ce).toNat) (x : Seen) :
    faults (smChecks s sid new true ce) .sct4_2 x x.bus (x.fpd || ceFpd ce) := by
  have hlast := stops_check (b := true && 2 ^ s.caps.pssBits ≤ (smRidPasid s.caps ce).toNat) (by simp [hrid]) .sct4_2
  unfold smChecks
  refine (yields_meet (ceFpd ce) x).bind_faults ((finds.skip_stops ((ctxMarked_alike sid ce _).finds h) ?_).faults_same _)
  exact stops.ite (finds.skip_stops (finds_keepCtx sid 0 ce) hlast) hlast

/-- What is seen of the trail behind the context entry. -/
def State.contextSeen (s : State) (sid : SourceId) (ca : Addr) (ce : BitVec 256) : Seen :=
  (Trail.empty.seen.reads (s.contextReads sid ca)).meets (ceFpd ce)

theorem translate_leads_scalableRest (hon : s.scalableOn) (huse : s.choice.use = []) {r : MemReq} {ca : Addr} {ce : BitVec 256}
    (hce : s.scalableContext r.sid ca ce) (hrid : ridSupported s r.pasid.isNone ce) :
    leads (Machine.translate s .untranslated r) (scalableRest s r ce) Trail.empty.seen (s.contextSeen r.sid ca ce) := by
  obtain ⟨hroot, hread, hpresent, hrsvd, hsct⟩ := hce
  refine (translate_leads_scalable hon huse r _).trans ?_
  refine ((finds_smFetch huse hroot hread).yields _).leads ?_
  refine (yields_smChecks (finds_smEntryChecks hpresent hrsvd hsct) r.sid true hrid _).leads ?_
  exact leads_refl _ _

theorem translate_of_contextRefuses (hon : s.scalableOn) (huse : s.choice.use = []) {r : MemReq} {reads : List UnitAccess}
    {reason : BitVec 8} {fpd : Bool} (h : s.ContextRefuses r.sid reads reason fpd) :
    refusedAs (Machine.translate s .untranslated r) reads reason fpd := by
  have fetched : ∀ {c l}, stops (smFetch s r.sid) c l → refusedAs (Machine.translate s .untranslated r) l c.reason false :=
    fun {c l} hstop => stops.refusedAs fun x => (translate_leads_scalable hon huse r x).faults (hstop.bind _ x)
  have checked : ∀ {ca ce c}, s.scalableRoot r.sid ca → s.contextAt ca 32 ce → stops (smEntryChecks s ce) c [] →
      c.qualified = true → refusedAs (Machine.translate s .untranslated r) (s.contextReads r.sid ca) c.reason (ceFpd ce) := by
    intro ca ce c hroot hce hstop hq
    refine ⟨c, ceFpd ce, rfl, by simp [hq], (translate_leads_scalable hon huse r _).faults ?_⟩
    refine ((finds_smFetch huse hroot hce).yields _).bind_faults ?_
    simpa using (faults_smChecks hstop r.sid true r.pasid.isNone (Trail.empty.seen.reads (s.contextReads r.sid ca))).bind _
  cases h with
  | rootUnread hre => exact fetched (stops_smFetch huse _ ((stops_fetch hre s.caps.c .srt1).bind _))
  | rootAbsent re hre hno =>
    exact fetched (stops_smFetch huse _ ((finds_fetch hre s.caps.c .srt1).last_stops ((stops_check (by simp [hno]) .srt2).bind _)))
  | rootReserved re hre hyes hrsvd =>
    exact fetched (stops_smFetch huse _ ((finds_fetch hre s.caps.c .srt1).last_stops
      ((finds_check (by simp [hyes]) .srt2).skip_stops ((stops_check hrsvd .srt3).bind _))))
  | unread ca hroot hce =>
    obtain ⟨re, hre, hyes, hrsvd, rfl⟩ := hroot
    exact fetched (stops_smFetch huse _ ((finds_fetch hre s.caps.c .srt1).bind_stops (l' := [_])
      ((finds_check (by simp [hyes]) .srt2).skip_stops
        ((finds_check hrsvd .srt3).skip_stops ((stops_fetch hce s.caps.c .sct1).bind _)))))
  | absent ca ce hroot hce hno =>
    refine checked (c := .sct2) hroot hce ?_ rfl
    unfold smEntryChecks
    exact (stops_check (by simp [hno]) .sct2).bind _
  | reserved ca ce hroot hce hyes hrsvd =>
    refine checked (c := .sct3) hroot hce ?_ rfl
    unfold smEntryChecks
    exact (finds_check (by simp [hyes]) .sct2).skip_stops ((stops_check hrsvd .sct3).bind _)
  | programming ca ce hroot hce hyes hrsvd hsct =>
    refine checked (c := .sct4_1) hroot hce ?_ rfl
    unfold smEntryChecks
    exact (finds_check (by simp [hyes]) .sct2).skip_stops ((finds_check hrsvd .sct3).skip_stops (stops_check hsct .sct4_1))

/-! ## The PASID-table entry -/

/-- The walk from the PASID-directory entry to the PASID-table entry. -/
def pasidTables (s : State) (pasid : Pasid) (ce : BitVec 256) : Walk (BitVec 512) := do
  let v ← fetch s (entryAddr (smPasidDir s.plat.haw ce) 8 (pasid.toNat / 64)) 8 s.caps.c .spd1
  modify fun t => { t with fpd := t.fpd || bitAt (BitVec.ofNat 64 v) 1 }
  check (!bitAt (BitVec.ofNat 64 v) 0) .spd2
  check (pdeRsvd s.plat.haw (BitVec.ofNat 64 v)) .spd3
  let p ← fetch s (entryAddr (addrField (BitVec.ofNat 64 v) 0 12 s.plat.haw) 64 (pasid.toNat % 64)) 64 s.caps.c .spt1
  pure (BitVec.ofNat 512 p)

theorem pasidFetch_leads (huse : s.choice.use = []) {pasid : Pasid} {ce : BitVec 256} (h : pasid.toNat / 64 < 2 ^ (smPdts ce + 7))
    (sid : SourceId) (x : Seen) :
    leads (pasidFetch s sid pasid ce) (pasidMarked s sid pasid 0 (pasidTables s pasid ce)) x x := by
  have hreach : finds (directoryReaches sid pasid ce) () [] [] := by
    unfold directoryReaches
    exact (finds_check (by simpa using h) .sct7).skip (finds_keepCtx sid 0 ce)
  unfold pasidFetch
  refine (hreach.yields_same _).leads (((finds_note 2 2 none).yields_same _).leads ?_)
  rw [State.pasidLookup_of_unused huse]
  exact leads_refl _ _

theorem stops_pasidFetch {pasid : Pasid} {ce : BitVec 256} (h : 2 ^ (smPdts ce + 7) ≤ pasid.toNat / 64) (sid : SourceId) :
    stops (pasidFetch s sid pasid ce) .sct7 [] := by
  have hreach : stops (directoryReaches sid pasid ce) .sct7 [] := by
    unfold directoryReaches
    exact (stops_check (by simpa using h) .sct7).bind _
  unfold pasidFetch
  exact hreach.bind _

theorem yields_pasidFetch (huse : s.choice.use = []) {pasid : Pasid} {ce : BitVec 256} {da pa : Addr} {d : BitVec 64}
    {pe : BitVec 512} (hd : s.pasidDirectory ce pasid da d) (ht : s.pasidTable d pasid pa)
    (hpe : s.memRead pa.toNat 64 = some pe.toNat) (sid : SourceId) (x : Seen) :
    yields (pasidFetch s sid pasid ce) pe x
      (((x.reads [busRead da.toNat 8 s.caps.c]).meets (bitAt d 1)).reads [busRead pa.toNat 64 s.caps.c]) := by
  obtain ⟨hreach, rfl, hread⟩ := hd
  obtain ⟨hpresent, hrsvd, rfl⟩ := ht
  refine (pasidFetch_leads huse hreach sid x).yields ((pasidMarked_alike sid pasid 0 _).yields ?_)
  unfold pasidTables
  refine ((finds_fetch hread s.caps.c .spd1).yields x).bind ?_
  rw [BitVec.ofNat_toNat, BitVec.setWidth_eq]
  refine (yields_meet (bitAt d 1) _).bind (finds.yields ?_ _)
  refine (finds_check (by simp [hpresent]) .spd2).skip ((finds_check hrsvd .spd3).skip ?_)
  refine (finds_fetch hpe s.caps.c .spt1).last ?_
  rw [BitVec.ofNat_toNat, BitVec.setWidth_eq]
  exact finds_pure pe

theorem finds_pasidEntryChecks {pe : BitVec 512} (hp : peP pe = true) (hr : peRsvd s.caps s.plat.haw pe = false)
    (hprog : s.pasidProgrammed pe) : finds (pasidEntryChecks s pe) () [] [] := by
  obtain ⟨hpgtt, haw, hfspm, hptr⟩ := hprog
  unfold pasidEntryChecks
  refine (finds_check (by simp [hp]) .spt2).skip ((finds_check hr .spt3).skip ?_)
  refine (finds_check ?_ .spt4_1).skip ((finds_check (by simp [hpgtt]) .spt4_2).skip ((finds_check ?_ .spt4_3).skip
    (finds_check ?_ .spt4_4)))
  · cases h : usesSs (pePgtt pe) <;> simp_all
  · cases h : usesFs (pePgtt pe) <;> simp_all
  · by_cases h : pePgtt pe = 3 <;> simp_all

theorem stops_pasidEntryChecks {pe : BitVec 512} (hp : peP pe = true) (hr : peRsvd s.caps s.plat.haw pe = false)
    (hprog : ¬ s.pasidProgrammed pe) : ∃ c, c.reason = 0x5B ∧ c.qualified = true ∧ stops (pasidEntryChecks s pe) c [] := by
  have hfirst : ∀ {w : Walk Unit} {c}, stops w c [] → stops (check (!peP pe) .spt2 >>= fun _ => check (peRsvd s.caps s.plat.haw pe)
      .spt3 >>= fun _ => w) c [] := fun h =>
    (finds_check (by simp [hp]) .spt2).skip_stops ((finds_check hr .spt3).skip_stops h)
  unfold pasidEntryChecks
  cases haw : usesSs (pePgtt pe) && !s.caps.awOk (peAw pe)
  case true => exact ⟨.spt4_1, rfl, rfl, hfirst ((stops_check rfl .spt4_1).bind _)⟩
  cases hpgtt : !pgttOk s.caps (pePgtt pe)
  case true => exact ⟨.spt4_2, rfl, rfl, hfirst ((finds_check rfl .spt4_1).skip_stops ((stops_check rfl .spt4_2).bind _))⟩
  cases hfspm : usesFs (pePgtt pe) && !fspmOk s.caps (peFspm pe)
  case true =>
    exact ⟨.spt4_3, rfl, rfl, hfirst ((finds_check rfl .spt4_1).skip_stops ((finds_check rfl .spt4_2).skip_stops
      ((stops_check rfl .spt4_3).bind _)))⟩
  refine ⟨.spt4_4, rfl, rfl, hfirst ((finds_check rfl .spt4_1).skip_stops ((finds_check rfl .spt4_2).skip_stops
      ((finds_check rfl .spt4_3).skip_stops (stops_check ?_ .spt4_4))))⟩
  by_contra hptr
  refine hprog ⟨by simpa using hpgtt, fun h => by simpa [h] using haw, fun h => by simpa [h] using hfspm, fun h => ?_⟩
  simpa [h] using hptr

theorem yields_pasidChecks {pe : BitVec 512} (h : finds (pasidEntryChecks s pe) () [] []) (sid : SourceId) (pasid : Pasid) (x : Seen) :
    yields (pasidChecks s sid pasid pe) () x (x.meets (peFpd pe)) := by
  unfold pasidChecks
  exact (yields_meet (peFpd pe) x).bind (((pasidMarked_alike sid pasid pe _).finds h).yields_same _)

theorem faults_pasidChecks {pe : BitVec 512} {c : Cond} (h : stops (pasidEntryChecks s pe) c []) (sid : SourceId) (pasid : Pasid)
    (x : Seen) : faults (pasidChecks s sid pasid pe) c x x.bus (x.fpd || peFpd pe) := by
  unfold pasidChecks
  exact (yields_meet (peFpd pe) x).bind_faults ((pasidMarked_alike sid pasid pe _).stops h _)

/-! ## From the request to its PASID-table entry -/

/-- The request executes (22 R712). -/
def executes (r : MemReq) : Bool := r.pasid.any (·.er)

theorem executes_allowed {r : MemReq} (h : ∀ p, r.pasid = some p → p.er = true → s.caps.ers = true) :
    (executes r && !s.caps.ers) = false := by
  cases hp : r.pasid with
  | none => simp [executes, hp]
  | some p => cases her : p.er <;> simp_all [executes]

theorem scalableRest_leads {r : MemReq} {ce : BitVec 256} {pasid : Pasid} (h : s.requestPasid r ce pasid) (x : Seen) :
    leads (scalableRest s r ce) (scalableEntry s r ce pasid (s.requestPriv r ce) (executes r)) x x := by
  obtain ⟨hwidth, hpasid⟩ := h
  unfold scalableRest State.requestPriv executes effPasid
  refine ((finds_check rfl .sct5).yields_same x).leads ?_
  cases hp : r.pasid with
  | none =>
    rw [hp] at hpasid
    subst hpasid
    exact leads_refl _ _
  | some p =>
    rw [hp] at hpasid
    obtain ⟨rfl, hpaside, hrid⟩ := hpasid
    refine ((finds_check (by simp [hpaside]) .sct6).yields_same x).leads ?_
    refine ((finds_check (by simpa using hrid) .sct9).yields_same x).leads ?_
    dsimp only
    rw [if_neg (by simpa using hwidth)]
    refine ((finds_check (by simpa using hwidth) .sgn10).yields_same x).leads ?_
    exact leads_refl _ _

/-- What is seen of the trail behind the PASID-table entry. -/
def State.tablesSeen (s : State) (sid : SourceId) (ca da pa : Addr) (ce : BitVec 256) (pe : BitVec 512) : Seen :=
  { bus := s.tableReads sid ca da pa, upd := [], fpd := s.fpdMet ce da pe, iotlb := none }

theorem State.directoryFpd_of_read {da : Addr} {d : BitVec 64} (h : s.memRead da.toNat 8 = some d.toNat) :
    s.directoryFpd da = bitAt d 1 := by
  simp [State.directoryFpd, h]

theorem ridSupported_of_requestPasid {r : MemReq} {ce : BitVec 256} {pasid : Pasid} (h : s.requestPasid r ce pasid) :
    ridSupported s r.pasid.isNone ce := by
  obtain ⟨hwidth, hpasid⟩ := h
  intro hnone
  rw [Option.isNone_iff_eq_none.1 hnone] at hpasid
  exact hpasid ▸ hwidth

/-- Scalable mode without caches: the tables lead to the PASID-table entry and its checks are made. -/
theorem translate_leads_scalableFinish (huse : s.choice.use = []) {r : MemReq} {ca da pa : Addr} {ce : BitVec 256} {pasid : Pasid}
    {pe : BitVec 512} (h : s.requestTables r ca da pa ce pasid pe) :
    leads (Machine.translate s .untranslated r) (scalableFinish s r ce pasid (s.requestPriv r ce) (executes r) pe)
      Trail.empty.seen (s.tablesSeen r.sid ca da pa ce pe) := by
  obtain ⟨hon, hce, hpasid, d, hd, ht, hpe, hpresent, hrsvd, hprog⟩ := h
  refine (translate_leads_scalableRest hon huse hce (ridSupported_of_requestPasid hpasid)).trans ((scalableRest_leads hpasid _).trans ?_)
  unfold scalableEntry
  refine (yields_pasidFetch huse hd ht hpe r.sid _).leads ?_
  refine (yields_pasidChecks (finds_pasidEntryChecks hpresent hrsvd hprog) r.sid pasid _).leads ?_
  have hseen : ((((s.contextSeen r.sid ca ce).reads [busRead da.toNat 8 s.caps.c]).meets (bitAt d 1)).reads
      [busRead pa.toNat 64 s.caps.c]).meets (peFpd pe) = s.tablesSeen r.sid ca da pa ce pe := by
    simp [State.contextSeen, State.tablesSeen, Seen.reads, Seen.meets, State.tableReads, State.fpdMet,
      State.directoryFpd_of_read hd.2.2]
  rw [hseen]
  split
  · exact ((finds_keepPasid r.sid pasid pe).yields_same _).leads (leads_refl _ _)
  · exact leads_refl _ _

/-! ## Refused requests -/

/-- Behind the context entry, a fault of the PASID is qualified and suppressed by the Fault Processing Disable bit of that entry. -/
theorem refusedAs_of_scalableRest (hon : s.scalableOn) (huse : s.choice.use = []) {r : MemReq} {ca : Addr} {ce : BitVec 256}
    (hce : s.scalableContext r.sid ca ce) (hrid : ridSupported s r.pasid.isNone ce) {c : Cond} (hq : c.qualified = true)
    (h : stops (scalableRest s r ce) c []) :
    refusedAs (Machine.translate s .untranslated r) (s.contextReads r.sid ca) c.reason (ceFpd ce) := by
  refine ⟨c, ceFpd ce, rfl, by simp [hq], (translate_leads_scalableRest hon huse hce hrid).faults ?_⟩
  simpa [State.contextSeen] using h.faults_same (s.contextSeen r.sid ca ce)

theorem ridSupported_of_pasid {r : MemReq} {p : PasidTlp} (h : r.pasid = some p) (ce : BitVec 256) :
    ridSupported s r.pasid.isNone ce := by
  simp [ridSupported, h]

theorem translate_of_pasidRefuses (hon : s.scalableOn) (huse : s.choice.use = []) {r : MemReq} {ca : Addr} {ce : BitVec 256}
    {pasid : Pasid} (hce : s.scalableContext r.sid ca ce) (hpasid : s.requestPasid r ce pasid) {reads : List UnitAccess}
    {reason : BitVec 8} {fpd : Bool} (h : s.PasidRefuses r.sid ca ce pasid reads reason fpd) :
    refusedAs (Machine.translate s .untranslated r) reads reason fpd := by
  have hrid := ridSupported_of_requestPasid hpasid
  have lead := (translate_leads_scalableRest hon huse hce hrid).trans (scalableRest_leads hpasid _)
  have read : ∀ {c bus fpd}, pasid.toNat / 64 < 2 ^ (smPdts ce + 7) →
      faults (pasidTables s pasid ce) c (s.contextSeen r.sid ca ce) bus fpd →
      faults (Machine.translate s .untranslated r) c Trail.empty.seen bus fpd := fun {c bus fpd} hreach hf =>
    lead.faults (((pasidFetch_leads huse hreach r.sid _).faults ((pasidMarked_alike r.sid pasid 0 _).faults hf)).bind _)
  have checked : ∀ {da pa : Addr} {d : BitVec 64} {pe : BitVec 512} {c : Cond}, s.pasidDirectory ce pasid da d →
      s.pasidTable d pasid pa → s.memRead pa.toNat 64 = some pe.toNat → stops (pasidEntryChecks s pe) c [] → c.qualified = true →
      refusedAs (Machine.translate s .untranslated r) (s.tableReads r.sid ca da pa) c.reason (s.fpdMet ce da pe) := by
    intro da pa d pe c hd ht hpe hstop hq
    refine ⟨c, s.fpdMet ce da pe, rfl, by simp [hq], lead.faults ?_⟩
    refine (yields_pasidFetch huse hd ht hpe r.sid _).bind_faults ((faults.bind ?_ _))
    simpa [State.contextSeen, State.tableReads, State.fpdMet, State.directoryFpd_of_read hd.2.2] using
      faults_pasidChecks hstop r.sid pasid
        ((((s.contextSeen r.sid ca ce).reads [busRead da.toNat 8 s.caps.c]).meets (bitAt d 1)).reads [busRead pa.toNat 64 s.caps.c])
  cases h with
  | tooWide hwide =>
    refine ⟨.sct7, ceFpd ce, rfl, Bool.true_and _, lead.faults (faults.bind ?_ _)⟩
    simpa [State.contextSeen] using (stops_pasidFetch hwide r.sid).faults_same (s.contextSeen r.sid ca ce)
  | directoryUnread da hreach hda hunread =>
    subst hda
    refine ⟨.spd1, ceFpd ce, rfl, Bool.false_and _, read hreach ?_⟩
    unfold pasidTables
    exact (stops_fetch hunread s.caps.c .spd1).bind _ _
  | directoryAbsent da d hd hno =>
    obtain ⟨hreach, rfl, hread⟩ := hd
    refine ⟨.spd2, _, rfl, Bool.true_and _, read hreach ?_⟩
    unfold pasidTables
    refine ((finds_fetch hread s.caps.c .spd1).yields _).bind_faults ?_
    rw [BitVec.ofNat_toNat, BitVec.setWidth_eq]
    refine (yields_meet (bitAt d 1) _).bind_faults ?_
    exact ((stops_check (by simp [hno]) .spd2).bind _).faults_same _
  | directoryReserved da d hd hyes hrsvd =>
    obtain ⟨hreach, rfl, hread⟩ := hd
    refine ⟨.spd3, _, rfl, Bool.true_and _, read hreach ?_⟩
    unfold pasidTables
    refine ((finds_fetch hread s.caps.c .spd1).yields _).bind_faults ?_
    rw [BitVec.ofNat_toNat, BitVec.setWidth_eq]
    refine (yields_meet (bitAt d 1) _).bind_faults ?_
    exact ((finds_check (by simp [hyes]) .spd2).skip_stops ((stops_check hrsvd .spd3).bind _)).faults_same _
  | unread da pa d hd ht hunread =>
    obtain ⟨hreach, rfl, hread⟩ := hd
    obtain ⟨hyes, hrsvd, rfl⟩ := ht
    refine ⟨.spt1, ceFpd ce || bitAt d 1, rfl, Bool.false_and _, read hreach ?_⟩
    unfold pasidTables
    refine ((finds_fetch hread s.caps.c .spd1).yields _).bind_faults ?_
    rw [BitVec.ofNat_toNat, BitVec.setWidth_eq]
    refine (yields_meet (bitAt d 1) _).bind_faults ?_
    refine stops.faults_reads (l := [_]) ?_ _
    exact (finds_check (by simp [hyes]) .spd2).skip_stops ((finds_check hrsvd .spd3).skip_stops
      ((stops_fetch hunread s.caps.c .spt1).bind _))
  | absent da pa d pe hd ht hpe hno =>
    refine checked (c := .spt2) hd ht hpe ?_ rfl
    unfold pasidEntryChecks
    exact (stops_check (by simp [hno]) .spt2).bind _
  | reserved da pa d pe hd ht hpe hyes hrsvd =>
    refine checked (c := .spt3) hd ht hpe ?_ rfl
    unfold pasidEntryChecks
    exact (finds_check (by simp [hyes]) .spt2).skip_stops ((stops_check hrsvd .spt3).bind _)
  | programming da pa d pe hd ht hpe hyes hrsvd hprog =>
    obtain ⟨c, hc, hq, hstop⟩ := stops_pasidEntryChecks hyes hrsvd hprog
    exact hc ▸ checked hd ht hpe hstop hq

theorem translate_of_tablesRefuse (hon : s.scalableOn) (huse : s.choice.use = []) {r : MemReq} {reads : List UnitAccess}
    {reason : BitVec 8} {fpd : Bool} (h : s.TablesRefuse r reads reason fpd) :
    refusedAs (Machine.translate s .untranslated r) reads reason fpd := by
  cases h with
  | context reads reason fpd h => exact translate_of_contextRefuses hon huse h
  | ridPasid ca ce hce hp hrid =>
    obtain ⟨hroot, hread, hpresent, hrsvd, hsct⟩ := hce
    refine ⟨.sct4_2, ceFpd ce, rfl, Bool.true_and _, (translate_leads_scalable hon huse r _).faults ?_⟩
    refine ((finds_smFetch huse hroot hread).yields _).bind_faults (faults.bind ?_ _)
    rw [hp]
    simpa using faults_smChecks_of_rid (finds_smEntryChecks hpresent hrsvd hsct) r.sid true hrid
      (Trail.empty.seen.reads (s.contextReads r.sid ca))
  | pasidDisabled ca ce p hce hp hno =>
    refine refusedAs_of_scalableRest hon huse hce (ridSupported_of_pasid hp ce) (c := .sct6) rfl ?_
    unfold scalableRest effPasid
    rw [hp]
    exact (finds_check rfl .sct5).skip_stops ((stops_check (by simp [hno]) .sct6).bind _)
  | ridPasidUsed ca ce p hce hp hyes hrps hrid =>
    refine refusedAs_of_scalableRest hon huse hce (ridSupported_of_pasid hp ce) (c := .sct9) rfl ?_
    unfold scalableRest effPasid
    rw [hp]
    exact (finds_check rfl .sct5).skip_stops ((finds_check (by simp [hyes]) .sct6).skip_stops
      ((stops_check (by simp [hrps, hrid]) .sct9).bind _))
  | pasidTooWide ca ce p hce hp hyes hrid hwide =>
    refine refusedAs_of_scalableRest hon huse hce (ridSupported_of_pasid hp ce) (c := .sgn10) rfl ?_
    unfold scalableRest effPasid
    rw [hp]
    refine (finds_check rfl .sct5).skip_stops ((finds_check (by simp [hyes]) .sct6).skip_stops
      ((finds_check (by simpa using hrid) .sct9).skip_stops ?_))
    have hlast : ∀ k : Unit → Walk Found, stops (check (2 ^ s.caps.pssBits ≤ p.pasid.toNat) .sgn10 >>= k) .sgn10 [] :=
      (stops_check (by simpa using hwide) .sgn10).bind
    exact stops.ite ((finds_keepCtx r.sid 0 ce).skip_stops (hlast _)) (hlast _)
  | pasid ca ce pasid reads reason fpd hce hpasid h => exact translate_of_pasidRefuses hon huse hce hpasid h

theorem refusedAs_of_scalableFinish (huse : s.choice.use = []) {r : MemReq} {ca da pa : Addr} {ce : BitVec 256} {pasid : Pasid}
    {pe : BitVec 512} (h : s.requestTables r ca da pa ce pasid pe) {c : Cond} {l : List UnitAccess} (hq : c.qualified = true)
    (hstop : stops (scalableFinish s r ce pasid (s.requestPriv r ce) (executes r) pe) c l) :
    refusedAs (Machine.translate s .untranslated r) (l ++ s.tableReads r.sid ca da pa) c.reason (s.fpdMet ce da pe) :=
  ⟨c, s.fpdMet ce da pe, rfl, by simp [hq],
    (translate_leads_scalableFinish huse h).faults (hstop (s.tablesSeen r.sid ca da pa ce pe))⟩

theorem translate_of_entryRefuses (huse : s.choice.use = []) {r : MemReq} {ca da pa : Addr} {ce : BitVec 256} {pasid : Pasid}
    {pe : BitVec 512} (h : s.requestTables r ca da pa ce pasid pe) {reason : BitVec 8} (hno : s.entryRefuses r ce pe reason) :
    refusedAs (Machine.translate s .untranslated r) (s.tableReads r.sid ca da pa) reason (s.fpdMet ce da pe) := by
  have hn : finds (modify fun u : Trail => { u with n := pePgsnp pe }) () [] [] := finds_unseen fun _ => rfl
  obtain ⟨rfl, hers, p, hp, her⟩ | ⟨rfl, hers, hpriv, hsre⟩ := hno
  · refine refusedAs_of_scalableFinish huse h (c := .spt5) (l := []) rfl ?_
    unfold scalableFinish
    exact hn.skip_stops ((stops_check (by simp [executes, hp, her, hers]) .spt5).bind _)
  · refine refusedAs_of_scalableFinish huse h (c := .spt6) (l := []) rfl ?_
    unfold scalableFinish
    exact hn.skip_stops ((finds_check (executes_allowed hers) .spt5).skip_stops
      ((stops_check (by simp [hpriv, hsre]) .spt6).bind _))

/-! ## Requests that are walked for -/

theorem finds_noteN (b : Bool) : finds (modify fun u : Trail => { u with n := b }) () [] [] := finds_unseen fun _ => rfl

theorem finds_noteDid (did : DomainId) : finds (modify fun u : Trail => { u with did := some did }) () [] [] :=
  finds_unseen fun _ => rfl

theorem scalableFinish_leads {r : MemReq} {ce : BitVec 256} {pe : BitVec 512} (h : s.entryAllows r ce pe) (pasid : Pasid) (x : Seen) :
    leads (scalableFinish s r ce pasid (s.requestPriv r ce) (executes r) pe)
      (scalableOut s r ce pasid (s.requestPriv r ce) pe) x x := by
  have hpriv : (s.requestPriv r ce && !peSre pe) = false := by
    cases hpr : s.requestPriv r ce
    · rfl
    · simp [h.1 hpr]
  unfold scalableFinish
  refine ((finds_noteN (pePgsnp pe)).yields_same x).leads ?_
  refine ((finds_check (executes_allowed h.2) .spt5).yields_same x).leads ?_
  refine ((finds_check hpriv .spt6).yields_same x).leads ?_
  refine ((finds_keepPasid r.sid pasid pe).yields_same x).leads ?_
  refine ((finds_noteDid (peDid pe)).yields_same x).leads ?_
  exact leads_refl _ _

/-- Scalable mode without caches: the tables lead to an entry that allows the request, and it is walked for. -/
theorem translate_leads_scalableOut (huse : s.choice.use = []) {r : MemReq} {ca da pa : Addr} {ce : BitVec 256} {pasid : Pasid}
    {pe : BitVec 512} (h : s.requestEntry r ca da pa ce pasid pe) :
    leads (Machine.translate s .untranslated r) (scalableOut s r ce pasid (s.requestPriv r ce) pe)
      Trail.empty.seen (s.tablesSeen r.sid ca da pa ce pe) :=
  (translate_leads_scalableFinish huse h.1).trans (scalableFinish_leads h.2 pasid _)

theorem scalableOut_stops {r : MemReq} {ce : BitVec 256} {pasid : Pasid} {pr : Bool} {pe : BitVec 512} {c : Cond}
    {l : List UnitAccess} (h : stops (scalableWalk s r pasid pr pe) c l) : stops (scalableOut s r ce pasid pr pe) c l := by
  unfold scalableOut
  exact ((keepBad_alike r _ _).stops h).bind _

theorem scalableOut_finds {r : MemReq} {ce : BitVec 256} {pasid : Pasid} {pr : Bool} {pe : BitVec 512} {p : PageResult}
    {l : List UnitAccess} {u : List FlagUpdate} (h : finds (scalableWalk s r pasid pr pe) p l u)
    (hrange : inInterruptRange (p.output r.addr) = false) :
    finds (scalableOut s r ce pasid pr pe) (scalableFound s r ce pasid pr pe p) l u := by
  unfold scalableOut
  exact ((keepBad_alike r _ _).finds h).last ((finds_check hrange .sgn8_1).skip (finds_pure _))

/-- A page in the interrupt range (22 R762). -/
theorem scalableOut_inRange {r : MemReq} {ce : BitVec 256} {pasid : Pasid} {pr : Bool} {pe : BitVec 512} {p : PageResult}
    {l : List UnitAccess} {u : List FlagUpdate} (h : finds (scalableWalk s r pasid pr pe) p l u)
    (hrange : inInterruptRange (p.output r.addr) = true) : stops (scalableOut s r ce pasid pr pe) .sgn8_1 l := by
  unfold scalableOut
  exact ((keepBad_alike r _ _).finds h).last_stops ((stops_check hrange .sgn8_1).bind _)

theorem refusedAs_of_scalableOut (huse : s.choice.use = []) {r : MemReq} {ca da pa : Addr} {ce : BitVec 256} {pasid : Pasid}
    {pe : BitVec 512} (h : s.requestEntry r ca da pa ce pasid pe) {c : Cond} {l : List UnitAccess} (hq : c.qualified = true)
    (hstop : stops (scalableOut s r ce pasid (s.requestPriv r ce) pe) c l) :
    refusedAs (Machine.translate s .untranslated r) (l ++ s.tableReads r.sid ca da pa) c.reason (s.fpdMet ce da pe) :=
  refusedAs_of_scalableFinish huse h.1 hq fun x => (scalableFinish_leads h.2 pasid x).faults (hstop x)

end Sys2Proof.Machine
end

section
/-! Walks in scalable mode. -/

namespace Sys2Proof.Machine

variable {α β : Type} {s : State} {pe : BitVec 512}

/-! ## Accesses and faults of walks -/

/-- The accesses of a walk are reads of paging entries (20 R525). -/
def walkOnly (snoop : Bool) (l : List UnitAccess) : Prop := ∀ y ∈ l, y = busRead y.addr 8 snoop

theorem walkOnly_nil (snoop : Bool) : walkOnly snoop [] := nofun

theorem walkOnly_busRead (a : Nat) (snoop : Bool) : walkOnly snoop [busRead a 8 snoop] := by
  intro y hy
  rw [List.mem_singleton.1 hy]
  rfl

theorem walkOnly.append {snoop : Bool} {l l' : List UnitAccess} (h : walkOnly snoop l) (h' : walkOnly snoop l') :
    walkOnly snoop (l ++ l') := fun y hy => (List.mem_append.1 hy).elim (h y) (h' y)

theorem walkOnly_walkReads (l : List UsedEntry) (snoop : Bool) : walkOnly snoop (walkReads l snoop) := by
  intro y hy
  simp only [walkReads, List.mem_reverse, List.mem_map] at hy
  obtain ⟨x, -, rfl⟩ := hy
  rfl

theorem walkOnly_entryReads (l : List Addr) (snoop : Bool) : walkOnly snoop (entryReads l snoop) := by
  intro y hy
  simp only [entryReads, List.mem_reverse, List.mem_map] at hy
  obtain ⟨x, -, rfl⟩ := hy
  rfl

/-- The walk raises a qualified condition of this reason, and reads only paging entries. -/
def refuses (w : Walk α) (snoop : Bool) (reason : BitVec 8) : Prop :=
  ∃ c l, c.reason = reason ∧ c.qualified = true ∧ walkOnly snoop l ∧ stops w c l

theorem refuses.bind {w : Walk α} {snoop : Bool} {reason : BitVec 8} (h : refuses w snoop reason) (k : α → Walk β) :
    refuses (w >>= k) snoop reason := by
  obtain ⟨c, l, hc, hq, hl, hstop⟩ := h
  exact ⟨c, l, hc, hq, hl, hstop.bind k⟩

theorem finds.bind_refuses {w : Walk α} {k : α → Walk β} {a : α} {l : List UnitAccess} {u : List FlagUpdate} {snoop : Bool}
    {reason : BitVec 8} (h : finds w a l u) (hl : walkOnly snoop l) (hk : refuses (k a) snoop reason) :
    refuses (w >>= k) snoop reason := by
  obtain ⟨c, l', hc, hq, hl', hstop⟩ := hk
  exact ⟨c, l' ++ l, hc, hq, hl'.append hl, h.bind_stops hstop⟩

theorem finds.skip_refuses {w : Walk α} {k : α → Walk β} {a : α} {snoop : Bool} {reason : BitVec 8} (h : finds w a [] [])
    (hk : refuses (k a) snoop reason) : refuses (w >>= k) snoop reason := h.bind_refuses (walkOnly_nil snoop) hk

theorem alike.refuses {w w' : Walk α} (h : alike w w') {snoop : Bool} {reason : BitVec 8} (hw : refuses w' snoop reason) :
    refuses w snoop reason := by
  obtain ⟨c, l, hc, hq, hl, hstop⟩ := hw
  exact ⟨c, l, hc, hq, hl, h.stops hstop⟩

/-! ## The second stage of a PASID-table entry -/

/-- The walk of the second stage for the page itself, or for an entry of the first stage. -/
def ssOf (s : State) (pe : BitVec 512) (final : Bool) : SsParams := { scalableSs s pe with final := final }

/-- The entries of the second stage that a walk updates: only with SSADE. -/
def ssOwed (pe : BitVec 512) (l : List UsedEntry) : List UsedEntry := if peSsade pe then l else []

theorem ssWalk_of_translates (huse : s.choice.use = []) {acc : Access} {a out : Addr} {l : List UsedEntry} {k : Nat}
    (h : s.ssTranslates pe acc a out l k) (hset : s.canSetFlags pe (ssOwed pe l)) (final : Bool) :
    finds (ssWalk s (ssOf s pe final) false acc a) ((ssLeaf s a l k).written (ssOf s pe final) acc)
      (walkReads l (snoopedWalk s.caps pe)) (owedUpdates (ssOwed pe l)) := by
  obtain ⟨hmaps, hgrants, rfl⟩ := h
  have hwalk := ssWalk_translates (p := ssOf s pe final) huse hmaps hgrants fun (hade : peSsade pe = true) =>
    ⟨rfl, by rw [ssOwed, if_pos hade] at hset; exact hset⟩
  have howed : owedUpdates (ssOwed pe l) = if (ssOf s pe final).ssade then owedUpdates l else [] := by
    cases hade : peSsade pe <;> simp [ssOwed, ssOf, scalableSs, hade, owedUpdates]
  rw [howed]
  exact hwalk

theorem ssWalk_of_ssRefuses (huse : s.choice.use = []) {acc : Access} {a : Addr} {reason : BitVec 8}
    (h : s.SsRefuses pe acc a reason) (final : Bool) :
    refuses (ssWalk s (ssOf s pe final) false acc a) (snoopedWalk s.caps pe) reason := by
  cases h with
  | unmapped _ h =>
    unfold State.ssUnmapped at h
    split at h
    next hbeyond =>
      subst h
      exact ⟨.sgn5, [], rfl, rfl, walkOnly_nil _, (ssFind_beyond (p := ssOf s pe final) acc hbeyond).bind _⟩
    next hbound =>
      obtain ⟨x, l, hstuck, rfl⟩ := h
      refine ⟨_, _, ?_, ?_, walkOnly_entryReads l _,
        (ssFind_stuck (p := ssOf s pe final) huse acc (Nat.lt_of_not_le hbound) hstuck).bind _⟩ <;>
      cases x <;> by_cases hone : l.length = 1 <;>
        simp [haltCond, notPresentSs, ssOf, scalableSs, Halt.scalableReason, hone] <;> rfl
  | nothing l k hmaps hr hw =>
    have hstop := ssWalk_refused (p := ssOf s pe final) (acc := acc) huse hmaps fun h =>
      (any_of_ssGrants h).elim (by simp [hr]) (by simp [hw])
    rw [if_pos ⟨hr, hw⟩] at hstop
    exact ⟨.sss2, _, rfl, rfl, walkOnly_walkReads l _, hstop⟩
  | write l k hmaps hacc hr hw =>
    have hstop := ssWalk_refused (p := ssOf s pe final) (acc := acc) huse hmaps fun h => by
      have := accessWrites_granted h
      simp [hw, hacc] at this
    rw [if_neg (by simp [hr]), if_pos (by simp [hacc, hw])] at hstop
    exact ⟨.sgn6, _, rfl, rfl, walkOnly_walkReads l _, hstop⟩
  | read l k hmaps hw hno =>
    have hstop := ssWalk_refused (p := ssOf s pe final) (acc := acc) huse hmaps (hw ▸ hno)
    rw [if_neg (by simp [hw]), if_neg (by simp [hw])] at hstop
    exact ⟨.sgn7, _, rfl, rfl, walkOnly_walkReads l _, hstop⟩
  | flags l k out _ htranslates hade hflags =>
    obtain ⟨hmaps, hgrants, -⟩ := htranslates
    obtain ⟨c, hc, hwhich, hstop⟩ := stops_setFlags_of_flagsFail (c1 := .sss5) (c3 := .sss6) hflags
    refine ⟨c, _, hc, ?_, walkOnly_walkReads l _, ssWalk_flagsFail (p := ssOf s pe final) huse hmaps hgrants hade hstop⟩
    rcases hwhich with rfl | rfl | rfl <;> rfl

end Sys2Proof.Machine
end

section
/-! The first stage and nesting. -/

namespace Sys2Proof.Machine

variable {α β : Type} {s : State} {pe : BitVec 512}

/-! ## Where first-stage entries lie -/

/-- The first-stage walk of a PASID-table entry, nested as its type says. -/
def fsOf (s : State) (pasid : Pasid) (pr : Bool) (pe : BitVec 512) : FsParams := scalableFs s pasid pr pe (pePgtt pe == 3)

/-- The address of a first-stage entry, and whether it may be written there (22 R750). -/
def fsSpot (s : State) (p : FsParams) (a : Addr) (first : Bool) : Walk (Addr × Bool) :=
  if p.nested && !false then nestedTranslate s p.ss a first else pure (a, true)

theorem owedEntries_tab (pe : BitVec 512) (l : List UsedEntry) : owedEntries pe [] l [] = ssOwed pe l := by
  cases h : peSsade pe <;> simp [owedEntries, ssOwed, h]

theorem ssOwed_append (pe : BitVec 512) (l l' : List UsedEntry) : ssOwed pe (l ++ l') = ssOwed pe l ++ ssOwed pe l' := by
  cases h : peSsade pe <;> simp [ssOwed, h]

theorem State.canSetFlags_append {l l' : List UsedEntry} : s.canSetFlags pe (l ++ l') ↔ s.canSetFlags pe l ∧ s.canSetFlags pe l' := by
  simp [State.canSetFlags, or_imp, forall_and]

theorem fsSpot_of_fsPlace (huse : s.choice.use = []) {a h : Addr} {w : Bool} {l : List UsedEntry} (hplace : s.fsPlace pe a h w l)
    (hset : s.canSetFlags pe (ssOwed pe l)) (pasid : Pasid) (pr first : Bool) :
    ∃ acc, walkOnly (snoopedWalk s.caps pe) acc ∧
      finds (fsSpot s (fsOf s pasid pr pe) a first) (h, w) acc (owedUpdates (ssOwed pe l)) := by
  unfold State.fsPlace at hplace
  by_cases hnested : pePgtt pe = 3
  · rw [if_pos hnested] at hplace
    obtain ⟨⟨k, htr⟩, rfl⟩ := hplace
    refine ⟨_, walkOnly_walkReads l _, ?_⟩
    unfold fsSpot nestedTranslate
    rw [if_pos (by simp [fsOf, scalableFs, hnested])]
    have hwalk := ssWalk_of_translates huse htr hset false
    obtain ⟨-, -, rfl⟩ := htr
    exact hwalk.attempt.last (finds_pure _)
  · rw [if_neg hnested] at hplace
    obtain ⟨rfl, rfl, rfl⟩ := hplace
    refine ⟨[], walkOnly_nil _, ?_⟩
    unfold fsSpot
    rw [if_neg (by simpa [fsOf, scalableFs] using hnested), ssOwed, ite_self]
    exact finds_pure _

/-- A fault of the second stage on the address of a first-stage entry (22 R750). -/
theorem nestedCond_reason (first : Bool) (c : Cond) : (nestedCond first c).reason = placingReason first c.reason := by
  cases first <;> cases c <;> rfl

theorem nestedCond_qualified (first : Bool) {c : Cond} (h : c.qualified = true) : (nestedCond first c).qualified = true := by
  cases c <;> cases first <;> simp_all [nestedCond, Cond.qualified]

theorem fsSpot_of_fsUnplaced (huse : s.choice.use = []) {a : Addr} {first : Bool} {reason : BitVec 8}
    (h : s.fsUnplaced pe first a reason) (pasid : Pasid) (pr : Bool) :
    refuses (fsSpot s (fsOf s pasid pr pe) a first) (snoopedWalk s.caps pe) reason := by
  obtain ⟨hnested, q, hrefuses, rfl⟩ := h
  obtain ⟨c, l, rfl, hq, hl, hstop⟩ := ssWalk_of_ssRefuses huse hrefuses false
  refine ⟨nestedCond first c, l, nestedCond_reason first c, nestedCond_qualified first hq, hl, ?_⟩
  unfold fsSpot nestedTranslate
  rw [if_pos (by simp [fsOf, scalableFs, hnested])]
  exact stops.attempt_rethrow (c' := nestedCond first c) hstop (stops_throw _)

/-! ## Levels -/

/-- An entry on the path of a first-stage walk is the one that the statements describe. -/
def fsSame (pe : BitVec 512) (d : Bool) (y : PathEntry) (x : UsedEntry) : Prop :=
  x = { hpa := y.hpa, e := y.e, want := flag 64 true 5 ||| flag 64 (peEafe pe) 10 ||| flag 64 (y.leaf && d) 6, w := y.w }

theorem fsFlags_eq_setFlags (snooped : Bool) {d : Bool} {path : List PathEntry} {l : List UsedEntry}
    (h : List.Forall₂ (fsSame pe d) path l) :
    fsFlags s snooped (peEafe pe) d path = setFlags s snooped .sfs9 .sfs8 .sfs10 l := by
  induction h with
  | nil => rfl
  | cons hsame hrest ih =>
    cases hsame
    unfold fsFlags setFlags
    rw [ih]

/-- A first-stage walk below one of its entries, its path so far given. -/
def fsBelow (s : State) (p : FsParams) (addr : Addr) (rest : List Nat) (sh : Nat) (e : BitVec 64) (rw us : Bool)
    (path : List PathEntry) : Walk (BitVec 64 × Nat × Bool × Bool × List PathEntry) :=
  if pgLeaf e sh then pure (e, sh, rw, us, path)
  else
    fsLevels s p addr rest (pgAddr s.plat.haw e sh) false false true rw us
      (some { kind := p.kind, did := p.did, pasid := p.pasid, shift := sh, width := fsWidth p.pe, base := highBits addr sh,
              table := 0, a := rw, b := us, tblW := true, fault := none }) path

/-- A first-stage walk behind the place of one of its entries. -/
def fsRead (s : State) (p : FsParams) (addr : Addr) (rest : List Nat) (sh : Nat) (h : Addr) (w first rw us : Bool)
    (path : List PathEntry) : Walk (BitVec 64 × Nat × Bool × Bool × List PathEntry) := do
  let v ← fetch s h 8 (snoopedWalk s.caps p.pe) (if first then .sfs4 else .sfs1)
  let e := BitVec.ofNat 64 v
  check (!bitAt e 0) .sfs2
  check (fsRsvd s.caps s.plat.haw e sh) .sfs3
  check (p.nested && 2 ^ ssBound s.caps p.ss.aw ≤ (pgAddr s.plat.haw e sh).toNat) .sfs5
  fsBelow s p addr rest sh e (rw && bitAt e 1) (us && bitAt e 2) (path ++ [⟨h, e, pgLeaf e sh, w⟩])

/-- The paging-structure cache entry of the level above, once its table address is translated (23 R830). -/
def fsPend (p : FsParams) (h : Addr) (w : Bool) (path : List PathEntry) : Option PscEntry → Walk Unit
  | some x => do
    let t ← get
    notePsc { x with table := highBits h 12, tblW := w } (!(!t.upd.isEmpty) && pathHas (fsWant p.pe) path)
  | none => pure ()

theorem finds_fsPend (p : FsParams) (h : Addr) (w : Bool) (path : List PathEntry) (pend : Option PscEntry) :
    finds (fsPend p h w path pend) () [] [] := by
  cases pend with
  | none => exact finds_pure ()
  | some x => exact finds_get_bind fun _ => finds_notePsc _ _

theorem fsLevels_cons (p : FsParams) (addr : Addr) (sh : Nat) (rest : List Nat) (table : Addr) (first rw us : Bool)
    (pend : Option PscEntry) (path : List PathEntry) :
    fsLevels s p addr (sh :: rest) table first false true rw us pend path =
      (fsSpot s p (entryAddr table 8 (pgIndex addr sh)) first >>= fun x => fsPend p x.1 x.2 path pend >>= fun _ =>
        fsRead s p addr rest sh x.1 x.2 first rw us path) := by
  conv => lhs; unfold fsLevels
  unfold fsSpot
  by_cases hn : (p.nested && !false) = true
  · simp only [if_pos hn]
    cases pend <;> rfl
  · simp only [if_neg hn]
    cases pend <;> rfl

theorem finds_fsLevels_cons {p : FsParams} {addr : Addr} {sh : Nat} {rest : List Nat} {table : Addr} {first rw us : Bool}
    {path : List PathEntry} {h : Addr} {w : Bool} {a : BitVec 64 × Nat × Bool × Bool × List PathEntry}
    {acc l : List UnitAccess} {u v : List FlagUpdate} (hspot : finds (fsSpot s p (entryAddr table 8 (pgIndex addr sh)) first) (h, w) acc u)
    (hread : finds (fsRead s p addr rest sh h w first rw us path) a l v) (pend : Option PscEntry) :
    finds (fsLevels s p addr (sh :: rest) table first false true rw us pend path) a (l ++ acc) (u ++ v) := by
  rw [fsLevels_cons]
  exact hspot.bind ((finds_fsPend p h w path pend).skip hread)

theorem fsUses_ne_nil {d : Bool} {a : Addr} {lv : List Nat} {table : Addr} {l ss : List UsedEntry} {k : Nat}
    (h : s.fsUses pe d a lv table l ss k) : l ≠ [] := by
  rintro rfl
  cases lv <;> exact h

theorem not_beyond_of_fsInBound {e : BitVec 64} {sh : Nat} (h : s.fsInBound pe e sh) (pasid : Pasid) (pr : Bool) :
    ((fsOf s pasid pr pe).nested && 2 ^ ssBound s.caps (fsOf s pasid pr pe).ss.aw ≤ (pgAddr s.plat.haw e sh).toNat) = false := by
  by_cases hnested : pePgtt pe = 3
  · have := h hnested
    simpa [fsOf, scalableFs, scalableSs, hnested] using this
  · have hne : (pePgtt pe == 3) = false := beq_false_of_ne hnested
    change ((pePgtt pe == 3) && _) = false
    rw [hne, Bool.false_and]

/-- A first-stage entry that is read, present, without reserved bits and in bounds leads on. -/
theorem finds_fsRead {pasid : Pasid} {pr : Bool} {h : Addr} {e : BitVec 64} {sh : Nat} (hread : s.memRead h.toNat 8 = some e.toNat)
    (hpresent : bitAt e 0 = true) (hrsvd : fsRsvd s.caps s.plat.haw e sh = false) (hbound : s.fsInBound pe e sh)
    {addr : Addr} {rest : List Nat} {w first rw us : Bool} {path : List PathEntry}
    {a : BitVec 64 × Nat × Bool × Bool × List PathEntry} {l : List UnitAccess} {u : List FlagUpdate}
    (hbelow : finds (fsBelow s (fsOf s pasid pr pe) addr rest sh e (rw && bitAt e 1) (us && bitAt e 2)
      (path ++ [⟨h, e, pgLeaf e sh, w⟩])) a l u) :
    finds (fsRead s (fsOf s pasid pr pe) addr rest sh h w first rw us path) a
      (l ++ [busRead h.toNat 8 (snoopedWalk s.caps pe)]) u := by
  unfold fsRead
  refine (finds_fetch hread _ _).bind (u := []) ?_
  rw [BitVec.ofNat_toNat, BitVec.setWidth_eq]
  exact (finds_check (by simp [hpresent]) .sfs2).skip ((finds_check hrsvd .sfs3).skip
    ((finds_check (not_beyond_of_fsInBound hbound pasid pr) .sfs5).skip hbelow))

theorem finds_fsLevels (huse : s.choice.use = []) (pasid : Pasid) (pr : Bool) {d : Bool} {addr : Addr} {lv : List Nat} {table : Addr}
    {l ss : List UsedEntry} {k : Nat} (h : s.fsUses pe d addr lv table l ss k) (hset : s.canSetFlags pe (ssOwed pe ss))
    (first rw us : Bool) (pend : Option PscEntry) (path : List PathEntry) :
    ∃ path' acc, List.Forall₂ (fsSame pe d) path' l ∧ walkOnly (snoopedWalk s.caps pe) acc ∧
      finds (fsLevels s (fsOf s pasid pr pe) addr lv table first false true rw us pend path)
        (leafOf l, k, rw && allSet l 1, us && allSet l 2, path ++ path') acc (owedUpdates (ssOwed pe ss)) := by
  induction lv generalizing table l ss first rw us pend path with
  | nil => exact h.elim
  | cons sh rest ih =>
    cases l with
    | nil => exact h.elim
    | cons x more =>
      obtain ⟨ss1, ss2, rfl, hplace, hread, hpresent, hrsvd, hbound, hwant, hnext⟩ := h
      rw [ssOwed_append] at hset
      obtain ⟨hset1, hset2⟩ := State.canSetFlags_append.1 hset
      obtain ⟨acc1, hacc1, hspot⟩ := fsSpot_of_fsPlace huse hplace hset1 pasid pr first
      have hsame : fsSame pe d ⟨x.hpa, x.e, pgLeaf x.e sh, x.w⟩ x := by
        rw [fsSame, ← hwant]
      have hread1 := walkOnly_busRead x.hpa.toNat (snoopedWalk s.caps pe)
      by_cases hleaf : pgLeaf x.e sh = true
      · rw [if_pos hleaf] at hnext
        obtain ⟨rfl, rfl, rfl⟩ := hnext
        refine ⟨[⟨x.hpa, x.e, pgLeaf x.e k, x.w⟩], [_] ++ acc1, .cons hsame .nil, hread1.append hacc1, ?_⟩
        rw [List.append_nil]
        have hlast := finds_fsRead (l := []) (u := []) (pasid := pasid) (pr := pr) (addr := addr) (rest := rest) (w := x.w)
          (first := first) (rw := rw) (us := us) (path := path) hread hpresent hrsvd hbound
          (by rw [fsBelow, if_pos hleaf]; exact finds_pure _)
        have hall := finds_fsLevels_cons hspot hlast pend
        simpa [leafOf, allSet] using hall
      · rw [if_neg hleaf] at hnext
        obtain ⟨path', acc2, hpath, hacc2, hfinds⟩ := ih hnext hset2 false (rw && bitAt x.e 1) (us && bitAt x.e 2)
          (some { kind := (fsOf s pasid pr pe).kind, did := (fsOf s pasid pr pe).did, pasid := pasid, shift := sh,
                  width := fsWidth pe, base := highBits addr sh, table := 0, a := rw && bitAt x.e 1, b := us && bitAt x.e 2,
                  tblW := true, fault := none }) (path ++ [⟨x.hpa, x.e, pgLeaf x.e sh, x.w⟩])
        refine ⟨⟨x.hpa, x.e, pgLeaf x.e sh, x.w⟩ :: path', (acc2 ++ [_]) ++ acc1, .cons hsame hpath,
          (hacc2.append hread1).append hacc1, ?_⟩
        have hlast := finds_fsRead (pasid := pasid) (pr := pr) (addr := addr) (rest := rest) (w := x.w)
          (first := first) (rw := rw) (us := us) (path := path) hread hpresent hrsvd hbound
          (by rw [fsBelow, if_neg hleaf]; exact hfinds)
        have hall := finds_fsLevels_cons hspot hlast pend
        obtain ⟨y, l', rfl⟩ := List.exists_cons_of_ne_nil (fsUses_ne_nil hnext)
        rw [leafOf_cons_cons, allSet_cons x, allSet_cons x, ssOwed_append, owedUpdates_append]
        simpa [Bool.and_assoc] using hall

/-- A first-stage entry that stops the walk. -/
theorem fsRead_refuses {pasid : Pasid} {pr : Bool} {h : Addr} {addr : Addr} {rest : List Nat} {sh : Nat}
    {w first rw us : Bool} {path : List PathEntry} {reason : BitVec 8}
    (hread : s.memRead h.toNat 8 = none ∧ reason = (if first then 0x73 else 0x70) ∨
      ∃ e : BitVec 64, s.memRead h.toNat 8 = some e.toNat ∧ (bitAt e 0 = false ∧ reason = 0x71 ∨ bitAt e 0 = true ∧
        (fsRsvd s.caps s.plat.haw e sh = true ∧ reason = 0x72 ∨ fsRsvd s.caps s.plat.haw e sh = false ∧
          (¬ s.fsInBound pe e sh ∧ reason = 0x74 ∨ s.fsInBound pe e sh ∧
            refuses (fsBelow s (fsOf s pasid pr pe) addr rest sh e (rw && bitAt e 1) (us && bitAt e 2)
              (path ++ [⟨h, e, pgLeaf e sh, w⟩])) (snoopedWalk s.caps pe) reason)))) :
    refuses (fsRead s (fsOf s pasid pr pe) addr rest sh h w first rw us path) (snoopedWalk s.caps pe) reason := by
  have hbus := walkOnly_busRead h.toNat (snoopedWalk s.caps pe)
  unfold fsRead
  obtain ⟨hno, rfl⟩ | ⟨e, he, hcases⟩ := hread
  · refine ⟨if first then .sfs4 else .sfs1, [_], ?_, ?_, hbus, (stops_fetch hno _ _).bind _⟩ <;> cases first <;> rfl
  · refine (finds_fetch he _ _).bind_refuses hbus ?_
    rw [BitVec.ofNat_toNat, BitVec.setWidth_eq]
    obtain ⟨hno, rfl⟩ | ⟨hyes, ⟨hrsvd, rfl⟩ | ⟨hrsvd, ⟨hout, rfl⟩ | ⟨hin, hbelow⟩⟩⟩ := hcases
    · exact ⟨.sfs2, [], rfl, rfl, walkOnly_nil _, (stops_check (by simp [hno]) .sfs2).bind _⟩
    · exact (finds_check (by simp [hyes]) .sfs2).skip_refuses
        ⟨.sfs3, [], rfl, rfl, walkOnly_nil _, (stops_check hrsvd .sfs3).bind _⟩
    · refine (finds_check (by simp [hyes]) .sfs2).skip_refuses ((finds_check hrsvd .sfs3).skip_refuses
        ⟨.sfs5, [], rfl, rfl, walkOnly_nil _, (stops_check ?_ .sfs5).bind _⟩)
      obtain ⟨hnested, hbeyond⟩ := Classical.not_imp.1 hout
      simpa [fsOf, scalableFs, scalableSs, hnested] using hbeyond
    · exact (finds_check (by simp [hyes]) .sfs2).skip_refuses ((finds_check hrsvd .sfs3).skip_refuses
        ((finds_check (not_beyond_of_fsInBound hin pasid pr) .sfs5).skip_refuses hbelow))

theorem fsLevels_refuses (huse : s.choice.use = []) (pasid : Pasid) (pr : Bool) {addr : Addr} {first : Bool} {lv : List Nat}
    {table : Addr} {reason : BitVec 8} (h : s.FsStuck pe addr first lv table reason) (rw us : Bool) (pend : Option PscEntry)
    (path : List PathEntry) :
    refuses (fsLevels s (fsOf s pasid pr pe) addr lv table first false true rw us pend path) (snoopedWalk s.caps pe) reason := by
  have placed : ∀ {first : Bool} {sh : Nat} {rest : List Nat} {table h : Addr} {rw us : Bool} {pend : Option PscEntry}
      {path : List PathEntry} {reason : BitVec 8}, s.fsAt pe (entryAddr table 8 (pgIndex addr sh)) h →
      (∀ w, refuses (fsRead s (fsOf s pasid pr pe) addr rest sh h w first rw us path) (snoopedWalk s.caps pe) reason) →
      refuses (fsLevels s (fsOf s pasid pr pe) addr (sh :: rest) table first false true rw us pend path)
        (snoopedWalk s.caps pe) reason := by
    intro first sh rest table h rw us pend path reason hat hread
    obtain ⟨w, l, hplace, hset⟩ := hat
    rw [owedEntries_tab] at hset
    obtain ⟨acc, hacc, hspot⟩ := fsSpot_of_fsPlace huse hplace hset pasid pr first
    rw [fsLevels_cons]
    exact hspot.bind_refuses hacc ((finds_fsPend _ _ _ _ _).skip_refuses (hread w))
  induction h generalizing rw us pend path with
  | unplaced first sh rest table reason h =>
    rw [fsLevels_cons]
    exact (fsSpot_of_fsUnplaced huse h pasid pr).bind _
  | unread first sh rest table h hat hno => exact placed hat fun w => fsRead_refuses (.inl ⟨hno, rfl⟩)
  | absent first sh rest table h e hat he hno => exact placed hat fun w => fsRead_refuses (.inr ⟨e, he, .inl ⟨hno, rfl⟩⟩)
  | reserved first sh rest table h e hat he hyes hrsvd =>
    exact placed hat fun w => fsRead_refuses (.inr ⟨e, he, .inr ⟨hyes, .inl ⟨hrsvd, rfl⟩⟩⟩)
  | beyond first sh rest table h e hat he hyes hrsvd hout =>
    exact placed hat fun w => fsRead_refuses (.inr ⟨e, he, .inr ⟨hyes, .inr ⟨hrsvd, .inl ⟨hout, rfl⟩⟩⟩⟩)
  | deeper first sh rest table h e reason hat he hyes hrsvd hin hleaf hstuck ih =>
    refine placed hat fun w => fsRead_refuses (.inr ⟨e, he, .inr ⟨hyes, .inr ⟨hrsvd, .inr ⟨hin, ?_⟩⟩⟩⟩)
    rw [fsBelow, if_neg (by simp [hleaf])]
    exact ih _ _ _ _

end Sys2Proof.Machine
end

section
/-! The translation of a page in scalable mode. -/

namespace Sys2Proof.Machine

variable {α β : Type} {s : State} {pe : BitVec 512}

/-! ## Walks that end -/

/-- The walk finds something of which `P` holds, or raises a condition; it reads only paging entries. -/
def settles (w : Walk α) (snoop : Bool) (P : α → Prop) : Prop :=
  (∃ a l u, walkOnly snoop l ∧ P a ∧ finds w a l u) ∨ ∃ c l, walkOnly snoop l ∧ stops w c l

theorem settles_of_finds {w : Walk α} {snoop : Bool} {P : α → Prop} {a : α} (h : finds w a [] []) (ha : P a) : settles w snoop P :=
  .inl ⟨a, [], [], walkOnly_nil _, ha, h⟩

theorem settles_of_stops {w : Walk α} {snoop : Bool} {P : α → Prop} {c : Cond} (h : stops w c []) : settles w snoop P :=
  .inr ⟨c, [], walkOnly_nil _, h⟩

theorem settles.bind {w : Walk α} {k : α → Walk β} {snoop : Bool} {P : α → Prop} {Q : β → Prop} (h : settles w snoop P)
    (hk : ∀ a, P a → settles (k a) snoop Q) : settles (w >>= k) snoop Q := by
  obtain ⟨a, l, u, hl, ha, hfinds⟩ | ⟨c, l, hl, hstop⟩ := h
  · obtain ⟨b, l', u', hl', hb, hfinds'⟩ | ⟨c, l', hl', hstop'⟩ := hk a ha
    · exact .inl ⟨b, l' ++ l, u ++ u', hl'.append hl, hb, hfinds.bind hfinds'⟩
    · exact .inr ⟨c, l' ++ l, hl'.append hl, hfinds.bind_stops hstop'⟩
  · exact .inr ⟨c, l, hl, hstop.bind k⟩

theorem settles_check (b : Bool) (c : Cond) (snoop : Bool) : settles (check b c) snoop fun _ => True := by
  cases b
  · exact settles_of_finds (finds_check rfl c) trivial
  · exact settles_of_stops (stops_check rfl c)

theorem settles_fetch (s : State) (a : Addr) (snoop : Bool) (c : Cond) : settles (fetch s a 8 snoop c) snoop fun _ => True := by
  cases h : s.memRead a.toNat 8 with
  | some v => exact .inl ⟨v, _, [], walkOnly_busRead _ _, trivial, finds_fetch h snoop c⟩
  | none => exact .inr ⟨c, _, walkOnly_busRead _ _, stops_fetch h snoop c⟩

theorem settles.skip {w : Walk α} {k : α → Walk β} {a : α} {snoop : Bool} {Q : β → Prop} (h : finds w a [] [])
    (hk : settles (k a) snoop Q) : settles (w >>= k) snoop Q :=
  settles.bind (P := fun b => b = a) (settles_of_finds h rfl) fun _ hb => hb ▸ hk

theorem settles.ite {p : Prop} [Decidable p] {w w' : Walk α} {snoop : Bool} {P : α → Prop} (h : settles w snoop P)
    (h' : settles w' snoop P) : settles (if p then w else w') snoop P := by
  split
  · exact h
  · exact h'

theorem alike.settles {w w' : Walk α} (h : alike w w') {snoop : Bool} {P : α → Prop} (hw : settles w' snoop P) :
    settles w snoop P :=
  hw.imp (fun ⟨a, l, u, hl, ha, hf⟩ => ⟨a, l, u, hl, ha, h.finds hf⟩) fun ⟨c, l, hl, hs⟩ => ⟨c, l, hl, h.stops hs⟩

theorem settles_ssLevels (p : SsParams) (a : Access) (addr : Addr) (lv : List Nat) (table : Addr) (first r w : Bool)
    (path : List PathEntry) : settles (ssLevels s p a addr lv table first r w path) p.snooped fun _ => True := by
  induction lv generalizing table first r w path with
  | nil => exact settles_of_stops (stops_throw _)
  | cons sh rest ih =>
    unfold ssLevels
    refine (settles_fetch s _ _ _).bind fun v _ => ?_
    dsimp only
    split
    next c _ =>
      exact settles.ite (settles.skip (finds_notePsc _ _) (settles_of_stops (stops_throw c))) (settles_of_stops (stops_throw c))
    next => exact settles.ite (settles_of_finds (finds_pure _) trivial) (settles.skip (finds_notePsc _ _) (ih _ _ _ _ _))

theorem settles_ssFlags (s : State) (snooped d : Bool) (path : List PathEntry) (snoop : Bool) :
    settles (ssFlags s snooped d path) snoop fun _ => True := by
  induction path with
  | nil => exact settles_of_finds (finds_pure ()) trivial
  | cons x rest ih =>
    unfold ssFlags
    refine settles.ite ?_ ih
    refine (settles_check _ _ _).bind fun _ _ => (settles_check _ _ _).bind fun _ _ => ?_
    exact settles.bind (P := fun _ => True) (.inl ⟨(), [], _, walkOnly_nil _, trivial, finds_owe _⟩) fun _ _ => ih

/-- A second-stage walk ends, with write permission where the access needs it. -/
theorem settles_ssWalk (huse : s.choice.use = []) (p : SsParams) (acc : Access) (addr : Addr) :
    settles (ssWalk s p false acc addr) p.snooped fun f => accessWrites acc = true → f.w = true := by
  unfold ssWalk
  refine settles.bind (P := fun _ => True) ?_ fun x _ => ?_
  · unfold ssFind
    rw [State.pscLookup_of_unused huse]
    refine (settles_check _ _ _).bind fun _ _ => settles.skip (finds_note 2 4 none) ?_
    refine (settles_ssLevels p acc addr _ _ _ _ _ _).bind fun y _ => ?_
    have hlast : ∀ z : SsFound × List PathEntry, settles (do
        check (!y.2.2.1 && !y.2.2.2.1) (notPresentSs p.legacy acc)
        pure z) p.snooped fun _ => True := fun z =>
      (settles_check _ _ _).bind fun _ _ => settles_of_finds (finds_pure _) trivial
    exact settles.ite (settles.skip (finds_noteLeaf _) (hlast _)) (hlast _)
  · unfold ssFinish ssDenies
    rw [Bool.false_and, if_neg Bool.false_ne_true]
    cases hrights : ssRights s.caps p.legacy acc x.1.r x.1.w with
    | some c => exact settles_of_stops ((stops_throw c).bind _)
    | none =>
      have hw : accessWrites acc = true → x.1.w = true := by
        intro hacc
        cases hw : x.1.w
        · simp [ssRights, hacc, hw] at hrights
        · rfl
      have hpure : settles (pure (x.1.written p acc)) p.snooped fun f : SsFound => accessWrites acc = true → f.w = true :=
        settles_of_finds (finds_pure _) hw
      exact settles.ite ((settles_ssFlags s _ _ _ _).bind fun _ _ => hpure) hpure

/-! ## A first-stage walk behind its levels -/

/-- The access sets the Dirty flag of the first-stage leaf, given the result of the final translation. -/
def fsDirties (p : FsParams) (a : Access) (rw : Bool) (fin : Except Cond SsFound) : Bool :=
  accessWrites a && fsWrite p.pr (peWpe p.pe) rw && (match fin with
    | .ok f => f.w
    | .error _ => true)

/-- The page of a first-stage leaf and of the translation of its output. -/
def fsPage (e : BitVec 64) (sh : Nat) (rw us d : Bool) (f : SsFound) : PageResult :=
  { hpa := highBits f.hpa (min sh f.shift), shift := min sh f.shift, r := f.r, w := f.w, rw := rw, us := us
    fsDirty := bitAt e 6 || d, ssDirty := f.dirty, fsShift := sh, fsLeaf := e, ssLeaf := f.leaf }

/-- A first-stage walk behind its levels, the rights granted: the final translation, then the flags (22 R735, R750). -/
def fsEnd (s : State) (p : FsParams) (a : Access) (addr : Addr) (e : BitVec 64) (sh : Nat) (rw us : Bool) (path : List PathEntry) :
    Walk PageResult := do
  let fin ← attempt (fsFinal s p false (nestedAccess a (fsWrite p.pr (peWpe p.pe) rw)) rw us (s.outputOf e sh addr) sh)
  keepBadIf (pathHas (fsWant p.pe) path)
  fsFlags s (snoopedWalk s.caps p.pe) (peEafe p.pe) (fsDirties p a rw fin) path
  let f ← resume fin
  pure (fsPage e sh rw us (fsDirties p a rw fin) f)

/-- A first-stage walk behind its levels. -/
def fsRest (s : State) (p : FsParams) (a : Access) (addr : Addr) :
    BitVec 64 × Nat × Bool × Bool × List PathEntry → Walk PageResult
  | (e, sh, rw, us, path) =>
    match fsRights false p.pr (peWpe p.pe) us rw a with
    | some c => throw c
    | none => fsEnd s p a addr e sh rw us path

theorem fsWalk_eq (huse : s.choice.use = []) (p : FsParams) (a : Access) (addr : Addr) :
    fsWalk s p false a addr = (check (!canonical (fsWidth p.pe) addr) .sgn1 >>= fun _ => note 2 6 none >>= fun _ =>
      fsLevels s p addr (levels (if peFspm p.pe == 0 then 4 else 5)) (peFsptptr s.plat.haw p.pe) true false true true true none [] >>=
      fun x => fsRest s p a addr x) := by
  unfold fsWalk
  dsimp only
  rw [State.pscLookup_of_unused huse]
  refine bind_congr fun _ => bind_congr fun _ => bind_congr fun x => ?_
  obtain ⟨e, sh, rw, us, path⟩ := x
  unfold fsRest
  dsimp only
  cases fsRights false p.pr (peWpe p.pe) us rw a <;> rfl

theorem fsRights_eq_none {pr wpe us rw : Bool} {a : Access} (huser : pr = true ∨ us = true)
    (hwrite : accessWrites a = true → fsWrite pr wpe rw = true) : fsRights false pr wpe us rw a = none := by
  unfold fsRights
  rw [if_neg (by rcases huser with h | h <;> simp [h]), if_neg (by cases h : accessWrites a <;> simp_all)]

theorem fsWrite_eq (pr : Bool) (l : List UsedEntry) : fsWrite pr (peWpe pe) (allSet l 1) = fsWritable pe pr l := by
  unfold fsWrite fsWritable
  cases pr <;> cases peWpe pe <;> cases allSet l 1 <;> rfl

/-- The first-stage tables lead to a page, whose translation goes on at the leaf. -/
theorem fsWalk_of_fsMaps (huse : s.choice.use = []) (pasid : Pasid) (pr : Bool) {d : Bool} (acc : Access) {a : Addr}
    {fs tab : List UsedEntry} {k : Nat} (h : s.fsMaps pe d a fs tab k) (hset : s.canSetFlags pe (ssOwed pe tab)) :
    ∃ path l, List.Forall₂ (fsSame pe d) path fs ∧ walkOnly (snoopedWalk s.caps pe) l ∧
      (∀ p l' u, finds (fsRest s (fsOf s pasid pr pe) acc a (leafOf fs, k, allSet fs 1, allSet fs 2, path)) p l' u →
        finds (fsWalk s (fsOf s pasid pr pe) false acc a) p (l' ++ l) (owedUpdates (ssOwed pe tab) ++ u)) ∧
      (∀ reason, refuses (fsRest s (fsOf s pasid pr pe) acc a (leafOf fs, k, allSet fs 1, allSet fs 2, path))
          (snoopedWalk s.caps pe) reason →
        refuses (fsWalk s (fsOf s pasid pr pe) false acc a) (snoopedWalk s.caps pe) reason) := by
  obtain ⟨hcanon, huses⟩ := h
  obtain ⟨path, l, hpath, hl, hfinds⟩ := finds_fsLevels huse pasid pr huses hset true true true none []
  have hlv : levels (if peFspm (fsOf s pasid pr pe).pe == 0 then 4 else 5) = fsLevelsOf pe := by
    by_cases h : peFspm pe = 0 <;> simp [fsLevelsOf, fsOf, scalableFs, h]
  have hin : finds (check (!canonical (fsWidth (fsOf s pasid pr pe).pe) a) .sgn1) () [] [] :=
    finds_check (by simpa [fsOf, scalableFs] using hcanon) .sgn1
  refine ⟨path, l, hpath, hl, fun p l' u h => ?_, fun reason h => ?_⟩
  · rw [fsWalk_eq huse, hlv]
    exact hin.skip ((finds_note 2 6 none).skip (hfinds.bind h))
  · rw [fsWalk_eq huse, hlv]
    exact hin.skip_refuses ((finds_note 2 6 none).skip_refuses (hfinds.bind_refuses hl h))

theorem fsDirties_eq {p : FsParams} {acc : Access} {rw : Bool} (hwrite : accessWrites acc = true → fsWrite p.pr (peWpe p.pe) rw = true)
    {fin : Except Cond SsFound} (hfin : ∀ f, fin = .ok f → accessWrites acc = true → f.w = true) :
    fsDirties p acc rw fin = accessWrites acc := by
  unfold fsDirties
  cases hacc : accessWrites acc
  · rfl
  · rw [hwrite hacc, Bool.true_and, Bool.true_and]
    cases fin with
    | ok f => exact hfin f rfl hacc
    | error c => rfl

theorem finds_keepBadIf (b : Bool) : finds (keepBadIf b) () [] [] := finds_unseen fun _ => rfl

section FsEnd

variable {pasid : Pasid} {pr : Bool} {acc : Access} {a : Addr} {e : BitVec 64} {sh : Nat} {rw us : Bool} {path : List PathEntry}
  {fs : List UsedEntry}

/-- The flags of the first-stage entries are checked behind the final translation, whatever comes of it (22 R750). -/
theorem fsEnd_flagsFail {reason : BitVec 8} (hpath : List.Forall₂ (fsSame pe (accessWrites acc)) path fs)
    (hwrite : accessWrites acc = true → fsWrite pr (peWpe pe) rw = true)
    (hfin : settles (fsFinal s (fsOf s pasid pr pe) false (nestedAccess acc (fsWrite pr (peWpe pe) rw)) rw us (s.outputOf e sh a) sh)
      (snoopedWalk s.caps pe) fun f => accessWrites acc = true → f.w = true)
    (hflags : s.flagsFail pe fs 0x90 0x91 reason) :
    refuses (fsEnd s (fsOf s pasid pr pe) acc a e sh rw us path) (snoopedWalk s.caps pe) reason := by
  obtain ⟨c, hc, hwhich, hstop⟩ := stops_setFlags_of_flagsFail (c1 := .sfs9) (c3 := .sfs10) hflags
  have hq : c.qualified = true := by rcases hwhich with rfl | rfl | rfl <;> rfl
  rw [← fsFlags_eq_setFlags _ hpath] at hstop
  have hrest : ∀ fin : Except Cond SsFound, (∀ f, fin = .ok f → accessWrites acc = true → f.w = true) →
      stops (fsFlags s (snoopedWalk s.caps pe) (peEafe pe) (fsDirties (fsOf s pasid pr pe) acc rw fin) path) c [] :=
    fun fin h => by rw [fsDirties_eq hwrite h]; exact hstop
  unfold fsEnd
  obtain ⟨f, l, u, hl, hf, hfinds⟩ | ⟨c', l, hl, hstops⟩ := hfin
  · exact ⟨c, l, hc, hq, hl, hfinds.attempt.last_stops ((finds_keepBadIf _).skip_stops
      ((hrest (.ok f) (fun g hg => by cases hg; exact hf)).bind _))⟩
  · exact ⟨c, l, hc, hq, hl, hstops.attempt_rethrow ((finds_keepBadIf _).skip_stops ((hrest (.error c') nofun).bind _))⟩

theorem fsEnd_finds {f : SsFound} {l : List UnitAccess} {u : List FlagUpdate}
    (hpath : List.Forall₂ (fsSame pe (accessWrites acc)) path fs)
    (hwrite : accessWrites acc = true → fsWrite pr (peWpe pe) rw = true) (hset : s.canSetFlags pe fs)
    (hfin : finds (fsFinal s (fsOf s pasid pr pe) false (nestedAccess acc (fsWrite pr (peWpe pe) rw)) rw us (s.outputOf e sh a) sh)
      f l u) (hf : accessWrites acc = true → f.w = true) :
    finds (fsEnd s (fsOf s pasid pr pe) acc a e sh rw us path) (fsPage e sh rw us (accessWrites acc) f) l (u ++ owedUpdates fs) := by
  have hd : fsDirties (fsOf s pasid pr pe) acc rw (.ok f) = accessWrites acc :=
    fsDirties_eq hwrite fun g hg => by cases hg; exact hf
  have hflags : finds (fsFlags s (snoopedWalk s.caps pe) (peEafe pe) (accessWrites acc) path) () [] (owedUpdates fs) := by
    rw [fsFlags_eq_setFlags _ hpath]
    exact finds_setFlags hset
  unfold fsEnd
  refine hfin.attempt.bind (l' := []) ((finds_keepBadIf _).skip ?_)
  rw [hd]
  exact hflags.last ((finds_pure f).skip (finds_pure _))

theorem fsEnd_refuses {reason : BitVec 8} (hpath : List.Forall₂ (fsSame pe (accessWrites acc)) path fs)
    (hwrite : accessWrites acc = true → fsWrite pr (peWpe pe) rw = true) (hset : s.canSetFlags pe fs)
    (hfin : refuses (fsFinal s (fsOf s pasid pr pe) false (nestedAccess acc (fsWrite pr (peWpe pe) rw)) rw us (s.outputOf e sh a) sh)
      (snoopedWalk s.caps pe) reason) :
    refuses (fsEnd s (fsOf s pasid pr pe) acc a e sh rw us path) (snoopedWalk s.caps pe) reason := by
  obtain ⟨c, l, hc, hq, hl, hstop⟩ := hfin
  have hd : fsDirties (fsOf s pasid pr pe) acc rw (.error c) = accessWrites acc := fsDirties_eq hwrite nofun
  have hflags : finds (fsFlags s (snoopedWalk s.caps pe) (peEafe pe) (accessWrites acc) path) () [] (owedUpdates fs) := by
    rw [fsFlags_eq_setFlags _ hpath]
    exact finds_setFlags hset
  refine ⟨c, l, hc, hq, hl, ?_⟩
  unfold fsEnd
  refine hstop.attempt_rethrow ((finds_keepBadIf _).skip_stops ?_)
  rw [hd]
  exact hflags.bind_stops (l' := []) (l := []) ((stops_throw c).bind _)

end FsEnd

/-! ## The final translation -/

theorem nestedAccess_eq {acc : Access} {wr : Bool} (h : accessWrites acc = true → wr = true) : nestedAccess acc wr = acc := by
  unfold nestedAccess
  rw [if_neg (by cases hacc : accessWrites acc <;> simp_all)]

/-- Without nesting the first-stage output is the page's address. -/
def fsFlat (out : Addr) (sh : Nat) : SsFound := { hpa := out, shift := sh, r := true, w := true, dirty := true, leaf := 0 }

theorem fsFinal_flat (h : pePgtt pe ≠ 3) (pasid : Pasid) (pr : Bool) (acc : Access) (rw us : Bool) (out : Addr) (sh : Nat) :
    finds (fsFinal s (fsOf s pasid pr pe) false acc rw us out sh) (fsFlat out sh) [] [] := by
  unfold fsFinal
  rw [if_neg (by simpa [fsOf, scalableFs] using h)]
  exact finds_pure _

theorem fsFinal_nested_finds (h : pePgtt pe = 3) {pasid : Pasid} {pr : Bool} {acc : Access} {rw us : Bool} {out : Addr} {sh : Nat}
    {f : SsFound} {l : List UnitAccess} {u : List FlagUpdate} (hwalk : finds (ssWalk s (ssOf s pe true) false acc out) f l u) :
    finds (fsFinal s (fsOf s pasid pr pe) false acc rw us out sh) f l u := by
  unfold fsFinal
  rw [if_pos (by simp [fsOf, scalableFs, h])]
  exact ((ssLast_alike (p := ssOf s pe true) false acc rw us out).finds hwalk).attempt.last (finds_pure f)

/-- A fault of the second stage on the address of the page (22 R750). -/
def finalCond (c : Cond) : Cond := if c = .sgn5 then .sfs5 else c

theorem finalCond_reason (c : Cond) : (finalCond c).reason = finalReason c.reason := by
  cases c <;> rfl

theorem finalCond_qualified {c : Cond} (h : c.qualified = true) : (finalCond c).qualified = true := by
  unfold finalCond
  split
  · rfl
  · exact h

theorem fsFinal_nested_stops (h : pePgtt pe = 3) {pasid : Pasid} {pr : Bool} {acc : Access} {rw us : Bool} {out : Addr} {sh : Nat}
    {c : Cond} {l : List UnitAccess} (hwalk : stops (ssWalk s (ssOf s pe true) false acc out) c l) :
    stops (fsFinal s (fsOf s pasid pr pe) false acc rw us out sh) (finalCond c) l := by
  unfold fsFinal
  rw [if_pos (by simp [fsOf, scalableFs, h])]
  refine ((ssLast_alike (p := ssOf s pe true) false acc rw us out).stops hwalk).attempt_rethrow ?_
  cases c <;> exact stops_throw _

theorem settles_fsFinal (huse : s.choice.use = []) (pasid : Pasid) (pr : Bool) (acc : Access) (rw us : Bool) (out : Addr) (sh : Nat) :
    settles (fsFinal s (fsOf s pasid pr pe) false acc rw us out sh) (snoopedWalk s.caps pe)
      fun f => accessWrites acc = true → f.w = true := by
  by_cases h : pePgtt pe = 3
  · obtain ⟨f, l, u, hl, hf, hfinds⟩ | ⟨c, l, hl, hstop⟩ := settles_ssWalk huse (ssOf s pe true) acc out
    · exact .inl ⟨f, l, u, hl, hf, fsFinal_nested_finds h hfinds⟩
    · exact .inr ⟨finalCond c, l, hl, fsFinal_nested_stops h hstop⟩
  · exact settles_of_finds (fsFinal_flat h pasid pr acc rw us out sh) fun _ => rfl

end Sys2Proof.Machine
end

section
/-! Requests in scalable mode: where they go, and where they are refused. -/

namespace Sys2Proof.Machine

variable {s : State} {pe : BitVec 512} {r : MemReq} {pasid : Pasid} {pr : Bool}

/-! ## The walk of each translation type -/

theorem scalableWalk_first (h : pePgtt pe = 1 ∨ pePgtt pe = 3) (r : MemReq) (pasid : Pasid) (pr : Bool) :
    scalableWalk s r pasid pr pe = fsWalk s (fsOf s pasid pr pe) false r.access r.addr := by
  unfold scalableWalk fsOf
  rcases h with h | h <;> rw [h] <;> rfl

theorem scalableWalk_second (h : pePgtt pe = 2) (r : MemReq) (pasid : Pasid) (pr : Bool) :
    scalableWalk s r pasid pr pe = (do
      let f ← ssLast s (ssOf s pe true) false r.access true true r.addr
      pure (ssPage f)) := by
  unfold scalableWalk
  rw [h]
  rfl

theorem scalableWalk_through (h : pePgtt pe = 4) (r : MemReq) (pasid : Pasid) (pr : Bool) :
    scalableWalk s r pasid pr pe = (do
      check (s.hpaEnd ≤ r.addr.toNat) .sgn4_2
      pure (ptPage s r.pasid.isSome r.addr)) := by
  unfold scalableWalk
  rw [h]
  rfl

/-! ## The first stage -/

/-- The first stage grants the access. -/
theorem fsRest_granted {fs : List UsedEntry} {k : Nat} {path : List PathEntry} {acc : Access} {a : Addr} (huser : fsUser pr fs)
    (hwrite : accessWrites acc = true → fsWritable pe pr fs = true) :
    fsRest s (fsOf s pasid pr pe) acc a (leafOf fs, k, allSet fs 1, allSet fs 2, path) =
      fsEnd s (fsOf s pasid pr pe) acc a (leafOf fs) k (allSet fs 1) (allSet fs 2) path := by
  have hrights : fsRights false pr (peWpe pe) (allSet fs 2) (allSet fs 1) acc = none :=
    fsRights_eq_none huser fun h => by rw [fsWrite_eq]; exact hwrite h
  unfold fsRest
  change (match fsRights false pr (peWpe pe) (allSet fs 2) (allSet fs 1) acc with
    | some c => throw c
    | none => _) = _
  rw [hrights]

theorem fsWalk_of_fsRefuses (huse : s.choice.use = []) {acc : Access} {a : Addr} {reason : BitVec 8}
    (h : s.FsRefuses pe pr acc a reason) (pasid : Pasid) :
    refuses (fsWalk s (fsOf s pasid pr pe) false acc a) (snoopedWalk s.caps pe) reason := by
  have reached : ∀ {fs tab k c}, s.fsReaches pe false a fs tab k → c.qualified = true →
      fsRights false pr (peWpe pe) (allSet fs 2) (allSet fs 1) acc = some c →
      refuses (fsWalk s (fsOf s pasid pr pe) false acc a) (snoopedWalk s.caps pe) c.reason := by
    intro fs tab k c hreach hq hrights
    obtain ⟨hmaps, hset⟩ := hreach
    rw [owedEntries_tab] at hset
    obtain ⟨path, l, -, -, -, hrefuses⟩ := fsWalk_of_fsMaps huse pasid pr acc hmaps hset
    refine hrefuses c.reason ⟨c, [], rfl, hq, walkOnly_nil _, ?_⟩
    unfold fsRest
    change stops (match fsRights false pr (peWpe pe) (allSet fs 2) (allSet fs 1) acc with
      | some c => throw c
      | none => _) c []
    rw [hrights]
    exact stops_throw c
  cases h with
  | notCanonical hno =>
    rw [fsWalk_eq huse]
    exact ⟨.sgn1, [], rfl, rfl, walkOnly_nil _, (stops_check (by simpa [fsOf, scalableFs] using hno) .sgn1).bind _⟩
  | stuck _ hcanon hstuck =>
    rw [fsWalk_eq huse]
    have hlv : levels (if peFspm (fsOf s pasid pr pe).pe == 0 then 4 else 5) = fsLevelsOf pe := by
      by_cases h : peFspm pe = 0 <;> simp [fsLevelsOf, fsOf, scalableFs, h]
    rw [hlv]
    refine (finds_check (by simpa [fsOf, scalableFs] using hcanon) .sgn1).skip_refuses ((finds_note 2 6 none).skip_refuses ?_)
    exact (fsLevels_refuses huse pasid pr hstuck true true none []).bind _
  | user fs tab k hreach hno =>
    obtain ⟨hpr, hus⟩ := not_or.1 hno
    refine reached (c := .sgn2) hreach rfl ?_
    simp [fsRights, hpr, hus]
  | write fs tab k hreach huser hacc hno =>
    refine reached (c := .sgn6) hreach rfl ?_
    have hnot : ¬ (!pr && !allSet fs 2) = true := by rcases huser with h | h <;> simp [h]
    rw [fsRights, if_neg hnot, if_pos (by simp [hacc, fsWrite_eq, hno])]

/-- A first-stage translation of an access that it grants, under a final translation. -/
theorem fsWalk_finds (huse : s.choice.use = []) {acc : Access} {a out : Addr} {fs tab : List UsedEntry} {k : Nat}
    (h : s.fsTranslates pe pr acc a out fs tab k) (htab : s.canSetFlags pe (ssOwed pe tab)) (hfs : s.canSetFlags pe fs)
    {f : SsFound} {l : List UnitAccess} {u : List FlagUpdate} (hl : walkOnly (snoopedWalk s.caps pe) l)
    (hfin : finds (fsFinal s (fsOf s pasid pr pe) false acc (allSet fs 1) (allSet fs 2) out k) f l u)
    (hf : accessWrites acc = true → f.w = true) :
    ∃ l', walkOnly (snoopedWalk s.caps pe) l' ∧ finds (fsWalk s (fsOf s pasid pr pe) false acc a)
      (fsPage (leafOf fs) k (allSet fs 1) (allSet fs 2) (accessWrites acc) f) l'
      (owedUpdates (ssOwed pe tab) ++ (u ++ owedUpdates fs)) := by
  obtain ⟨hmaps, huser, hwrite, rfl⟩ := h
  have hwr : accessWrites acc = true → fsWrite pr (peWpe pe) (allSet fs 1) = true := fun h => by rw [fsWrite_eq]; exact hwrite h
  obtain ⟨path, l1, hpath, hl1, hfinds, -⟩ := fsWalk_of_fsMaps huse pasid pr acc hmaps htab
  refine ⟨l ++ l1, hl.append hl1, hfinds _ _ _ ?_⟩
  rw [fsRest_granted huser hwrite]
  exact fsEnd_finds hpath hwr hfs (by rw [nestedAccess_eq hwr]; exact hfin) hf

theorem fsWalk_refuses (huse : s.choice.use = []) {acc : Access} {a out : Addr} {fs tab : List UsedEntry} {k : Nat}
    (h : s.fsTranslates pe pr acc a out fs tab k) (htab : s.canSetFlags pe (ssOwed pe tab)) {reason : BitVec 8}
    (hend : (s.canSetFlags pe fs ∧ refuses (fsFinal s (fsOf s pasid pr pe) false acc (allSet fs 1) (allSet fs 2) out k)
      (snoopedWalk s.caps pe) reason) ∨ s.flagsFail pe fs 0x90 0x91 reason) :
    refuses (fsWalk s (fsOf s pasid pr pe) false acc a) (snoopedWalk s.caps pe) reason := by
  obtain ⟨hmaps, huser, hwrite, rfl⟩ := h
  have hwr : accessWrites acc = true → fsWrite pr (peWpe pe) (allSet fs 1) = true := fun h => by rw [fsWrite_eq]; exact hwrite h
  obtain ⟨path, l1, hpath, -, -, hrefuses⟩ := fsWalk_of_fsMaps huse pasid pr acc hmaps htab
  refine hrefuses reason ?_
  rw [fsRest_granted huser hwrite]
  rcases hend with ⟨hfs, hfin⟩ | hflags
  · exact fsEnd_refuses hpath hwr hfs (by rw [nestedAccess_eq hwr]; exact hfin)
  · exact fsEnd_flagsFail hpath hwr (by rw [nestedAccess_eq hwr]; exact settles_fsFinal huse pasid pr acc _ _ _ _) hflags

/-! ## Pages that tables map -/

theorem fsUses_leafAt {d : Bool} {a : Addr} {lv : List Nat} {table : Addr} {l ss : List UsedEntry} {k : Nat}
    (hlv : ∀ sh ∈ lv, 12 ≤ sh ∧ sh ≤ 48) (h : s.fsUses pe d a lv table l ss k) : leafAt (leafOf l) k := by
  induction lv generalizing table l ss with
  | nil => exact h.elim
  | cons sh rest ih =>
    cases l with
    | nil => exact h.elim
    | cons x more =>
      obtain ⟨ss1, ss2, -, -, -, -, -, -, -, hnext⟩ := h
      split at hnext
      next hleaf =>
        obtain ⟨rfl, -, rfl⟩ := hnext
        exact ⟨hleaf, hlv _ List.mem_cons_self⟩
      next =>
        obtain ⟨y, l', rfl⟩ := List.exists_cons_of_ne_nil (fsUses_ne_nil hnext)
        rw [leafOf_cons_cons]
        exact ih (fun sh' hsh => hlv sh' (List.mem_cons_of_mem _ hsh)) hnext

theorem fsMaps_leafAt {d : Bool} {a : Addr} {fs tab : List UsedEntry} {k : Nat} (h : s.fsMaps pe d a fs tab k) :
    leafAt (leafOf fs) k := fsUses_leafAt (fun _ hsh => mem_levels hsh) h.2

/-- What the page of a scalable-mode translation says of the entries used. -/
structure PageOf (pe : BitVec 512) (fs fin : List UsedEntry) (k : Nat) (a hpa : Addr) (p : PageResult) : Prop where
  output : p.output a = hpa
  first : usesFs (pePgtt pe) = true → p.fsLeaf = leafOf fs ∧ p.fsShift = k
  second : usesSs (pePgtt pe) = true → p.ssLeaf = leafOf fin

theorem scalableWalk_finds (huse : s.choice.use = []) {hpa : Addr} {fs tab fin : List UsedEntry} {k : Nat}
    (h : s.scalableMapped pe pr r.access r.addr hpa fs tab fin k) (hset : s.canSetFlags pe (owedEntries pe fs tab fin))
    (pasid : Pasid) :
    ∃ p l, PageOf pe fs fin k r.addr hpa p ∧ walkOnly (snoopedWalk s.caps pe) l ∧
      finds (scalableWalk s r pasid pr pe) p l (owedUpdates (owedEntries pe fs tab fin)) := by
  have howed : owedEntries pe fs tab fin = ssOwed pe tab ++ (ssOwed pe fin ++ fs) := by
    cases hade : peSsade pe <;> simp [owedEntries, ssOwed, hade]
  rw [howed] at hset ⊢
  obtain ⟨htab, hset⟩ := State.canSetFlags_append.1 hset
  obtain ⟨hfin, hfs⟩ := State.canSetFlags_append.1 hset
  unfold State.scalableMapped at h
  split at h
  next hpgtt =>
    obtain ⟨htr, rfl⟩ := h
    have ht : pePgtt pe = 1 := BitVec.eq_of_toNat_eq hpgtt
    have hleaf := fsMaps_leafAt htr.1
    obtain ⟨l, hl, hfinds⟩ := fsWalk_finds huse htr htab hfs (walkOnly_nil _)
      (fsFinal_flat (by simp [ht]) pasid pr r.access _ _ _ _) fun _ => rfl
    rw [scalableWalk_first (.inl ht), show ssOwed pe [] = [] from ite_self _, owedUpdates_append]
    refine ⟨_, l, ?_, hl, hfinds⟩
    obtain ⟨-, -, -, rfl⟩ := htr
    refine ⟨?_, fun _ => ⟨rfl, rfl⟩, fun hss => by simp [ht, usesSs] at hss⟩
    simp only [fsPage, fsFlat, PageResult.output, min_self]
    exact highBits_add_lowBits_of_mod (toNat_outputOf_mod hleaf r.addr le_rfl)
  next hpgtt =>
    obtain ⟨⟨n, htr⟩, rfl, rfl⟩ := h
    have ht : pePgtt pe = 2 := BitVec.eq_of_toNat_eq hpgtt
    have hwalk := (ssLast_alike false r.access true true r.addr).finds (ssWalk_of_translates huse htr hfin true)
    rw [scalableWalk_second ht, List.append_nil, show ssOwed pe [] = [] from ite_self _, List.nil_append]
    refine ⟨_, _, ?_, walkOnly_walkReads fin _, hwalk.last (finds_pure _)⟩
    obtain ⟨hmaps, -, rfl⟩ := htr
    exact ⟨ssPage_output (p := ssOf s pe true) hmaps, fun hf => by simp [ht, usesFs] at hf, fun _ => rfl⟩
  next hpgtt =>
    obtain ⟨gpa, n, htr, hss⟩ := h
    have ht : pePgtt pe = 3 := BitVec.eq_of_toNat_eq hpgtt
    have hleaf := fsMaps_leafAt htr.1
    have hleaf2 := ssLeads_leafAt (p := ssOf s pe true) hss.1
    have hw : accessWrites r.access = true → allSet fin 1 = true := fun hacc => by
      have := accessWrites_granted hss.2.1
      rw [hacc, Bool.true_and] at this
      exact this
    obtain ⟨l, hl, hfinds⟩ := fsWalk_finds huse htr htab hfs (walkOnly_walkReads fin _)
      (fsFinal_nested_finds ht (ssWalk_of_translates huse hss hfin true)) hw
    rw [scalableWalk_first (.inr ht), owedUpdates_append, owedUpdates_append]
    refine ⟨_, l, ?_, hl, hfinds⟩
    obtain ⟨-, -, -, rfl⟩ := htr
    obtain ⟨-, -, rfl⟩ := hss
    refine ⟨highBits_add_lowBits_of_mod ?_, fun _ => ⟨rfl, rfl⟩, fun _ => rfl⟩
    exact (toNat_outputOf_mod hleaf2 _ (min_le_right _ _)).trans (toNat_outputOf_mod hleaf r.addr (min_le_left _ _))
  next hpgtt =>
    obtain ⟨rfl, hbelow, rfl, rfl, rfl⟩ := h
    have ht : pePgtt pe = 4 := BitVec.eq_of_toNat_eq hpgtt
    refine ⟨ptPage s r.pasid.isSome r.addr, [], ⟨ptPage_output _ r.addr, fun hf => by simp [ht, usesFs] at hf,
      fun hf => by simp [ht, usesSs] at hf⟩, walkOnly_nil _, ?_⟩
    rw [scalableWalk_through ht, show ssOwed pe [] = [] from ite_self _]
    exact (finds_check (by simpa using hbelow) .sgn4_2).skip (finds_pure _)
  next => exact h.elim

/-! ## Refused requests -/

theorem scalableOut_of_walkRefuses (huse : s.choice.use = []) {reason : BitVec 8} (h : s.WalkRefuses pe pr r.access r.addr reason)
    (ce : BitVec 256) (pasid : Pasid) : refuses (scalableOut s r ce pasid pr pe) (snoopedWalk s.caps pe) reason := by
  have walked : ∀ {reason}, refuses (scalableWalk s r pasid pr pe) (snoopedWalk s.caps pe) reason →
      refuses (scalableOut s r ce pasid pr pe) (snoopedWalk s.caps pe) reason := fun ⟨c, l, hc, hq, hl, hstop⟩ =>
    ⟨c, l, hc, hq, hl, scalableOut_stops hstop⟩
  cases h with
  | first _ ht h =>
    refine walked ?_
    rw [scalableWalk_first ht]
    exact fsWalk_of_fsRefuses huse h pasid
  | firstFlags fs tab k out _ ht htr hset hflags =>
    refine walked ?_
    rw [scalableWalk_first ht]
    exact fsWalk_refuses huse htr (owedEntries_tab pe tab ▸ hset) (.inr hflags)
  | second _ ht h =>
    refine walked ?_
    rw [scalableWalk_second ht]
    exact ((ssLast_alike false r.access true true r.addr).refuses (ssWalk_of_ssRefuses huse h true)).bind _
  | nested fs tab k gpa q ht htr hset h =>
    refine walked ?_
    rw [scalableWalk_first (.inr ht)]
    have howed : owedEntries pe fs tab [] = ssOwed pe tab ++ fs := by
      cases hade : peSsade pe <;> simp [owedEntries, ssOwed, hade]
    rw [howed] at hset
    obtain ⟨htab, hfs⟩ := State.canSetFlags_append.1 hset
    obtain ⟨c, l, rfl, hq, hl, hstop⟩ := ssWalk_of_ssRefuses huse h true
    exact fsWalk_refuses huse htr htab (.inl ⟨hfs, finalCond c, l, finalCond_reason c, finalCond_qualified hq, hl,
      fsFinal_nested_stops ht hstop⟩)
  | passThrough ht hbeyond =>
    refine walked ⟨.sgn4_2, [], rfl, rfl, walkOnly_nil _, ?_⟩
    rw [scalableWalk_through ht]
    exact (stops_check (by simpa using hbeyond) .sgn4_2).bind _
  | interruptRange fs tab fin k hpa hmap hset hrange =>
    obtain ⟨p, l, hpage, hl, hfinds⟩ := scalableWalk_finds huse hmap hset pasid
    exact ⟨.sgn8_1, l, rfl, rfl, hl, scalableOut_inRange hfinds (hpage.output ▸ hrange)⟩

/-- Settles O43: each refusal is a condition that the walk raises, behind the tables it has read; a walk that raises one blocks the
request and sets no flag (`blocks_of_refusedAs`). -/
theorem scalableRequestFaults : Obligations.ScalableRequestFaults := by
  intro s r hwf hu qp qf hfree hrange
  have blocked : s.scalableOn → ∀ {reads reason fpd}, refusedAs (Machine.translate s .untranslated r) reads reason fpd →
      s.blocks r reads reason fpd := fun hon _ _ _ h => blocks_of_refusedAs ⟨hon.1, hrange⟩ hu qp qf hfree h
  refine ⟨fun hon reads reason fpd h => blocked hon (translate_of_tablesRefuse hon hu.1 h), ?_⟩
  intro ca da pa ce pasid pe reason
  refine ⟨fun ht hno => blocked ht.1 (translate_of_entryRefuses hu.1 ht hno), fun hentry hno => ?_⟩
  obtain ⟨c, l, rfl, hq, hl, hstop⟩ := scalableOut_of_walkRefuses hu.1 hno ce pasid
  exact ⟨l, hl, blocked hentry.1.1 (refusedAs_of_scalableOut hu.1 hentry hq hstop)⟩

end Sys2Proof.Machine
end

section
/-! Flags set in memory, and requests of scalable mode that go on. -/

namespace Sys2Proof.Machine

variable {s : State} {pe : BitVec 512} {r : MemReq}

/-! ## Flag updates -/

/-- The 64-bit entry at an address of memory. -/
def wordAt (m : List Host.Cell) (a : Addr) : BitVec 64 := BitVec.ofNat 64 (readNat m a.toNat 8)

/-- The access that a flag update makes (20 R525, R531). -/
def flagAccess (u : FlagUpdate) : UnitAccess := { kind := .atomic, addr := u.hpa.toNat, size := 8, snoop := true, mt := .wb }

theorem State.updateFlags_eq (h : s.wbuf = []) (u : FlagUpdate) :
    s.updateFlags u = { s with mem := writeNat s.mem u.hpa.toNat 8 (readNat s.mem u.hpa.toNat 8 ||| u.want.toNat)
                               bus := flagAccess u :: s.bus } := by
  unfold State.updateFlags State.memWrite State.flush State.access flagAccess
  simp only [h, List.foldl_nil]

theorem wordAt_updateFlags_same (h : s.wbuf = []) (hm : s.memoryForm) (u : FlagUpdate) :
    wordAt (s.updateFlags u).mem u.hpa = wordAt s.mem u.hpa ||| u.want := by
  rw [State.updateFlags_eq h, wordAt, readNat_writeNat hm]
  apply BitVec.eq_of_toNat_eq
  rw [BitVec.toNat_or, BitVec.toNat_ofNat, wordAt, BitVec.toNat_ofNat, show 256 ^ 8 = 2 ^ 64 by norm_num, Nat.mod_mod]
  rw [Nat.or_mod_two_pow, Nat.mod_eq_of_lt u.want.isLt]

theorem wordAt_updateFlags_far (h : s.wbuf = []) {a : Addr} {u : FlagUpdate} (ha : a.toNat % 8 = 0) (hu : u.hpa.toNat % 8 = 0)
    (hne : u.hpa ≠ a) : wordAt (s.updateFlags u).mem a = wordAt s.mem a := by
  have hnat : u.hpa.toNat ≠ a.toNat := fun h => hne (BitVec.eq_of_toNat_eq h)
  rw [State.updateFlags_eq h, wordAt, wordAt, readNat, readNat]
  refine congrArg _ (congrArg _ (readBytes_congr fun k hk => readByte_writeNat_outside _ _ _ _ _ ?_))
  omega

/-- Flag updates one after another: each bit of an entry is as it was, or an update of that entry sets it. -/
theorem wordAt_updateAll (h : s.wbuf = []) (hm : s.memoryForm) {l : List FlagUpdate} (hl : ∀ u ∈ l, u.hpa.toNat % 8 = 0)
    {a : Addr} (ha : a.toNat % 8 = 0) (j : Nat) :
    bitAt (wordAt (s.updateAll l).mem a) j = (bitAt (wordAt s.mem a) j || l.any (fun u => u.hpa == a && bitAt u.want j)) := by
  induction l generalizing s with
  | nil => simp [State.updateAll]
  | cons u l ih =>
    have hnext : (s.updateFlags u).wbuf = [] := rfl
    have hrest := ih hnext (State.updateFlags_memoryForm hm u) fun v hv => hl v (List.mem_cons_of_mem _ hv)
    change bitAt (wordAt ((s.updateFlags u).updateAll l).mem a) j = _
    rw [hrest, List.any_cons]
    by_cases hua : u.hpa = a
    · subst hua
      rw [wordAt_updateFlags_same h hm]
      simp [bitAt, Bool.or_assoc]
    · rw [wordAt_updateFlags_far h ha (hl u List.mem_cons_self) hua]
      rw [beq_false_of_ne hua, Bool.false_and, Bool.false_or]

theorem readByte_updateAll (h : s.wbuf = []) {l : List FlagUpdate} {a : Nat}
    (ha : ∀ u ∈ l, ¬ (u.hpa.toNat ≤ a ∧ a < u.hpa.toNat + 8)) : readByte (s.updateAll l).mem a = readByte s.mem a := by
  induction l generalizing s with
  | nil => rfl
  | cons u l ih =>
    have hnext : (s.updateFlags u).wbuf = [] := rfl
    change readByte ((s.updateFlags u).updateAll l).mem a = _
    rw [ih hnext fun v hv => ha v (List.mem_cons_of_mem _ hv), State.updateFlags_eq h]
    exact readByte_writeNat_outside _ _ _ _ _ (ha u List.mem_cons_self)

theorem State.updateAll_eq (h : s.wbuf = []) (l : List FlagUpdate) :
    s.updateAll l = { s with mem := (s.updateAll l).mem, bus := (l.map flagAccess).reverse ++ s.bus } := by
  induction l generalizing s with
  | nil => rfl
  | cons u l ih =>
    have hnext : (s.updateFlags u).wbuf = [] := rfl
    have hstep : s.updateAll (u :: l) = (s.updateFlags u).updateAll l := rfl
    rw [hstep, ih hnext, State.updateFlags_eq h]
    simp

/-! ## The entries used -/

/-- The entry lies at an aligned address, and memory holds it there. -/
def State.holds (s : State) (x : UsedEntry) : Prop := x.hpa.toNat % 8 = 0 ∧ wordAt s.mem x.hpa = x.e

theorem wordAt_of_memRead {a : Addr} {e : BitVec 64} (h : s.memRead a.toNat 8 = some e.toNat) : wordAt s.mem a = e := by
  unfold State.memRead at h
  split at h
  · rw [wordAt, Option.some.inj h, BitVec.ofNat_toNat, BitVec.setWidth_eq]
  · cases h

theorem toNat_entryAddr_mod {table : Addr} (h : table.toNat % 8 = 0) (i : Nat) : (entryAddr table 8 i).toNat % 8 = 0 := by
  rw [entryAddr, BitVec.toNat_add, BitVec.toNat_ofNat]
  omega

theorem toNat_table_mod {w : Nat} (e : BitVec w) (off top : Nat) : (addrField e off 12 top).toNat % 8 = 0 :=
  toNat_addrField_mod (j := 3) e off 12 top (by omega) (by omega)

theorem toNat_pgAddr_mod8 (haw : Nat) (e : BitVec 64) (sh : Nat) : (pgAddr haw e sh).toNat % 8 = 0 := by
  unfold pgAddr
  split
  next hps =>
    have hsh : sh = 30 ∨ sh = 21 := by
      simp [pgPs] at hps
      exact hps.1
    exact toNat_addrField_mod (j := 3) e 0 sh _ (by omega) (by omega)
  next => exact toNat_table_mod e 0 _

theorem ssUses_holds {emte d : Bool} {a : Addr} {lv : List Nat} {table : Addr} {l : List UsedEntry} {k : Nat}
    (htable : table.toNat % 8 = 0) (h : s.ssUses emte d a lv table l k) : ∀ x ∈ l, s.holds x := by
  induction lv generalizing table l with
  | nil => exact h.elim
  | cons sh rest ih =>
    cases l with
    | nil => exact h.elim
    | cons x more =>
      obtain ⟨hhpa, hread, -, -, -, -, hnext⟩ := h
      have hx : s.holds x := ⟨hhpa ▸ toNat_entryAddr_mod htable _, wordAt_of_memRead hread⟩
      refine List.forall_mem_cons.2 ⟨hx, ?_⟩
      split at hnext
      · rw [hnext.1]
        exact nofun
      · exact ih (toNat_pgAddr_mod8 _ _ _) hnext

theorem ssTranslates_holds {acc : Access} {a out : Addr} {l : List UsedEntry} {k : Nat} (h : s.ssTranslates pe acc a out l k) :
    ∀ x ∈ l, s.holds x := ssUses_holds (toNat_table_mod _ _ _) h.1.2

theorem fsPlace_holds {a h : Addr} {w : Bool} {l : List UsedEntry} (hplace : s.fsPlace pe a h w l) (ha : a.toNat % 8 = 0) :
    h.toNat % 8 = 0 ∧ ∀ x ∈ l, s.holds x := by
  unfold State.fsPlace at hplace
  split at hplace
  · obtain ⟨⟨k, htr⟩, -⟩ := hplace
    have hleaf := ssLeads_leafAt (p := ssOf s pe true) htr.1
    refine ⟨?_, ssTranslates_holds htr⟩
    obtain ⟨-, -, rfl⟩ := htr
    exact (toNat_outputOf_mod (j := 3) hleaf a (by have := hleaf.2.1; omega)).trans ha
  · obtain ⟨rfl, -, rfl⟩ := hplace
    exact ⟨ha, nofun⟩

theorem fsUses_holds {d : Bool} {a : Addr} {lv : List Nat} {table : Addr} {l ss : List UsedEntry} {k : Nat}
    (htable : table.toNat % 8 = 0) (h : s.fsUses pe d a lv table l ss k) : (∀ x ∈ l, s.holds x) ∧ ∀ x ∈ ss, s.holds x := by
  induction lv generalizing table l ss with
  | nil => exact h.elim
  | cons sh rest ih =>
    cases l with
    | nil => exact h.elim
    | cons x more =>
      obtain ⟨ss1, ss2, rfl, hplace, hread, -, -, -, -, hnext⟩ := h
      obtain ⟨halign, hss1⟩ := fsPlace_holds hplace (toNat_entryAddr_mod htable _)
      have hx : s.holds x := ⟨halign, wordAt_of_memRead hread⟩
      have hmore : (∀ x ∈ more, s.holds x) ∧ ∀ x ∈ ss2, s.holds x := by
        split at hnext
        · obtain ⟨rfl, rfl, -⟩ := hnext
          exact ⟨nofun, nofun⟩
        · exact ih (toNat_pgAddr_mod8 _ _ _) hnext
      exact ⟨List.forall_mem_cons.2 ⟨hx, hmore.1⟩, fun y hy => (List.mem_append.1 hy).elim (hss1 y) (hmore.2 y)⟩

theorem scalableMapped_holds {pr : Bool} {acc : Access} {a hpa : Addr} {fs tab fin : List UsedEntry} {k : Nat}
    (h : s.scalableMapped pe pr acc a hpa fs tab fin k) : ∀ x ∈ owedEntries pe fs tab fin, s.holds x := by
  have hall : (∀ x ∈ fs, s.holds x) ∧ (∀ x ∈ tab, s.holds x) ∧ ∀ x ∈ fin, s.holds x := by
    unfold State.scalableMapped at h
    split at h
    · obtain ⟨htr, rfl⟩ := h
      obtain ⟨hfs, htab⟩ := fsUses_holds (toNat_table_mod _ _ _) htr.1.2
      exact ⟨hfs, htab, nofun⟩
    · obtain ⟨⟨n, htr⟩, rfl, rfl⟩ := h
      exact ⟨nofun, nofun, ssTranslates_holds htr⟩
    · obtain ⟨gpa, n, htr, hss⟩ := h
      obtain ⟨hfs, htab⟩ := fsUses_holds (toNat_table_mod _ _ _) htr.1.2
      exact ⟨hfs, htab, ssTranslates_holds hss⟩
    · obtain ⟨-, -, rfl, rfl, rfl⟩ := h
      exact ⟨nofun, nofun, nofun⟩
    · exact h.elim
  obtain ⟨hfs, htab, hfin⟩ := hall
  intro x hx
  unfold owedEntries at hx
  rcases List.mem_append.1 hx with hx | hx
  · split at hx
    · exact (List.mem_append.1 hx).elim (htab x) (hfin x)
    · cases hx
  · exact hfs x hx

/-! ## Flags set -/

/-- The updates owed to entries set their flags: an entry that owes none has them already. -/
theorem flagsSet_updateAll (h : s.wbuf = []) (hm : s.memoryForm) {l : List UsedEntry} (hl : ∀ x ∈ l, s.holds x) :
    flagsSet s (s.updateAll (owedUpdates l)) l := by
  have hmem : ∀ u ∈ owedUpdates l, ∃ y ∈ l, u = ⟨y.hpa, y.want⟩ := by
    intro u hu
    simp only [owedUpdates, List.mem_map, List.mem_filter] at hu
    obtain ⟨y, ⟨hy, -⟩, rfl⟩ := hu
    exact ⟨y, hy, rfl⟩
  constructor
  · intro x hx j _
    have hbits := wordAt_updateAll h hm (l := owedUpdates l) (fun u hu => by obtain ⟨y, hy, rfl⟩ := hmem u hu; exact (hl y hy).1)
      (hl x hx).1 j
    rw [(hl x hx).2] at hbits
    refine hbits.trans ?_
    rw [Bool.eq_iff_iff]
    simp only [Bool.or_eq_true, List.any_eq_true, Bool.and_eq_true, beq_iff_eq]
    constructor
    · rintro (hj | ⟨u, hu, hhpa, hj⟩)
      · exact .inl hj
      · obtain ⟨y, hy, rfl⟩ := hmem u hu
        exact .inr ⟨y, hy, hhpa, hj⟩
    · rintro (hj | ⟨y, hy, hhpa, hj⟩)
      · exact .inl hj
      · by_cases howes : y.e &&& y.want = y.want
        · have he : y.e = x.e := by rw [← (hl y hy).2, ← (hl x hx).2, hhpa]
          rw [← howes, he] at hj
          simp [bitAt] at hj
          exact .inl hj.1
        · refine .inr ⟨⟨y.hpa, y.want⟩, ?_, hhpa, hj⟩
          simp only [owedUpdates, List.mem_map, List.mem_filter]
          exact ⟨y, ⟨hy, by simpa using howes⟩, rfl⟩
  · intro a ha
    exact readByte_updateAll h fun u hu => by obtain ⟨y, hy, rfl⟩ := hmem u hu; exact ha y hy

/-! ## The final access -/

theorem pageMemType_scalableFound {ce : BitVec 256} {pasid : Pasid} {pr : Bool} {fs fin : List UsedEntry} {k : Nat} {hpa : Addr}
    {p : PageResult} (h : PageOf pe fs fin k r.addr hpa p) :
    pageMemType s r.coherent (scalableFound s r ce pasid pr pe p) =
      if r.coherent && s.caps.mts then some (s.scalableType pe hpa fs fin k) else none := by
  have hhpa : (scalableFound s r ce pasid pr pe p).hpa = hpa := h.output
  unfold pageMemType
  cases hmt : r.coherent && s.caps.mts with
  | false => rfl
  | true =>
    rw [hhpa]
    have hpat : usesFs (pePgtt pe) = true →
        patType (scalableFound s r ce pasid pr pe p) = memTypeOf (pePat pe (patIndex (leafOf fs) k)) := by
      intro hfs
      obtain ⟨hleaf, hshift⟩ := h.first hfs
      simp [patType, scalableFound, hleaf, hshift]
    change (if peCd pe then some MemType.uc else _) = _
    unfold State.scalableType
    cases hcd : peCd pe
    case true => rfl
    simp only [Bool.false_eq_true, if_false]
    split
    next hn =>
      have ht : pePgtt pe = 1 := BitVec.eq_of_toNat_eq hn
      simp [ht, hpat (by simp [ht, usesFs])]
    next hn =>
      have ht : pePgtt pe = 2 := BitVec.eq_of_toNat_eq hn
      simp [ht, scalableFound, h.second (by simp [ht, usesSs])]
    next hn =>
      have ht : pePgtt pe = 3 := BitVec.eq_of_toNat_eq hn
      rw [hpat (by simp [ht, usesFs])]
      simp [ht, scalableFound, h.second (by simp [ht, usesSs])]
    next h1 h2 h3 =>
      rw [if_pos trivial]
      split
      next hn => exact (h1 hn).elim
      next hn => exact (h2 hn).elim
      next hn => exact (h3 hn).elim
      next => rfl

theorem pageSnoop_scalableFound {ce : BitVec 256} {pasid : Pasid} {pr : Bool} {fs fin : List UsedEntry} {k : Nat} {hpa : Addr}
    {p : PageResult} (h : PageOf pe fs fin k r.addr hpa p) :
    pageSnoop s r (scalableFound s r ce pasid pr pe p) =
      (!r.ns || pePgsnp pe || (usesSs (pePgtt pe) && s.caps.sc && bitAt (leafOf fin) 11)) := by
  cases hss : usesSs (pePgtt pe) with
  | false => simp [pageSnoop, scalableFound, hss]
  | true => simp [pageSnoop, scalableFound, hss, h.second hss]

/-- Settles O60: behind the PASID-table entry the walk finds the page that the tables give (`scalableWalk_finds`); the entries it owes
flags to hold at their addresses what the walk has read (`scalableMapped_holds`), so the updates at its end set just those flags
(`flagsSet_updateAll`). -/
theorem scalableTranslation : Obligations.ScalableTranslation := by
  intro s r ca da pa hpa ce pasid pe fs tab fin k hwf hentry hu hrange hmap hset hout hno q hm hwbuf
  obtain ⟨p, l, hpage, hl, hfinds⟩ := scalableWalk_finds hu.1 hmap hset pasid
  have hfound := scalableOut_finds (ce := ce) hfinds (hpage.output ▸ hout)
  have hhpa : (scalableFound s r ce pasid (s.requestPriv r ce) pe p).hpa = hpa := hpage.output
  obtain ⟨v, x, hv, hpassed, hexec⟩ := exec_of_found ⟨hentry.1.1.1, hrange⟩ (.inl hu.2) q
    ((translate_leads_scalableOut hu.1 hentry).yields (hfound _)) rfl (by rw [hhpa]; exact hno)
  rw [hhpa, pageMemType_scalableFound hpage, pageSnoop_scalableFound hpage] at hpassed
  have hbus : (((s.tablesSeen r.sid ca da pa ce pe).reads l).owes (owedUpdates (owedEntries pe fs tab fin))).bus =
      l ++ s.tableReads r.sid ca da pa := rfl
  have hupd : (((s.tablesSeen r.sid ca da pa ce pe).reads l).owes (owedUpdates (owedEntries pe fs tab fin))).upd =
      owedUpdates (owedEntries pe fs tab fin) := List.nil_append _
  rw [hbus, hupd] at hpassed
  have hkept : v.choice.fill = [] ∧ v.mem = s.mem ∧ v.wbuf = s.wbuf := by
    rw [hv.1]
    exact ⟨hu.2, rfl, rfl⟩
  obtain ⟨hfill, hmem, hwbufv⟩ := hkept
  rw [State.keepFound_of_fillsNone (by rw [State.updateAll_choice]; exact hfill)] at hpassed
  have hflags := flagsSet_updateAll (s := { v with bus := l ++ s.tableReads r.sid ca da pa ++ s.bus })
    (hwbufv.trans hwbuf) (by rw [State.memoryForm, hmem]; exact hm) (l := owedEntries pe fs tab fin)
    (fun x hx => by rw [State.holds, hmem]; exact scalableMapped_holds hmap x hx)
  have hframe := State.updateAll_eq (s := { v with bus := l ++ s.tableReads r.sid ca da pa ++ s.bus })
    (hwbufv.trans hwbuf) (owedUpdates (owedEntries pe fs tab fin))
  refine ⟨v, _, x, ((owedUpdates (owedEntries pe fs tab fin)).map flagAccess).reverse ++ l, hv, ?_, ?_, ?_, hpassed, hexec⟩
  · rw [hframe]
    simp only [List.append_assoc]
  · unfold flagsSet at hflags ⊢
    rw [← hmem]
    exact hflags
  · intro y hy
    rcases List.mem_append.1 hy with hy | hy
    · simp only [List.mem_reverse, List.mem_map] at hy
      obtain ⟨u, -, rfl⟩ := hy
      exact .inr rfl
    · exact .inl (hl y hy)

end Sys2Proof.Machine
end

section
/-! O1 to O3: the decoder and the encoder agree (30 R852 to R882). A layout is a row of fields, and the row `x ++ y` stands in a
word from some bit up exactly if `y` stands there and `x` above it (`hasField_append`). So each descriptor layout has one rule that
gives both directions: a word is the encoding of an instruction exactly if its type selects the layout and the layout reads the
instruction from it. -/

namespace Sys2Proof

/-! ## Rows of fields -/

/-- The value `x` stands in the word `w` from bit `lo` up. -/
def hasField {k n : Nat} (w : BitVec k) (lo : Nat) (x : BitVec n) : Prop := field w lo n = x

theorem bitAt_append {m n : Nat} (x : BitVec m) (y : BitVec n) (i : Nat) :
    bitAt (x ++ y) i = if i < n then bitAt y i else bitAt x (i - n) := by
  split
  next h => exact bitAt_append_low x y i h
  next h => exact bitAt_append_high x y i (by omega)

theorem hasField_iff {k lo n : Nat} {w : BitVec k} {x : BitVec n} :
    hasField w lo x ↔ ∀ i < n, bitAt w (lo + i) = bitAt x i := by
  constructor
  · rintro rfl i hi
    exact (bitAt_field w lo n i hi).symm
  · intro h
    exact BitVec.eq_of_getLsbD_eq fun i hi => (bitAt_field w lo n i hi).trans (h i hi)

theorem hasField_append {k lo m n : Nat} {w : BitVec k} {x : BitVec m} {y : BitVec n} :
    hasField w lo (x ++ y) ↔ hasField w (lo + n) x ∧ hasField w lo y := by
  simp only [hasField_iff, bitAt_append]
  constructor
  · intro h
    refine ⟨fun i hi => ?_, fun i hi => ?_⟩
    · simpa [Nat.add_comm, Nat.add_left_comm] using h (n + i) (by omega)
    · simpa [hi] using h i (by omega)
  · rintro ⟨hx, hy⟩ i hi
    split
    next h => exact hy i h
    next h =>
      have := hx (i - n) (by omega)
      rwa [Nat.add_assoc, Nat.add_sub_cancel' (by omega)] at this

theorem hasField_all {k : Nat} {w x : BitVec k} : hasField w 0 x ↔ x = w := by
  rw [hasField, field_all, eq_comm]

theorem hasField_bit {k lo : Nat} {w : BitVec k} {b : Bool} : hasField w lo (bit b) ↔ bitAt w lo = b := by
  simp [hasField_iff, bitAt_bit]

/-- A PFSID is split in two fields, its low 4 bits and its high 12 (30 R855, R860). -/
theorem pfsid_eq_iff {x : BitVec 12} {y : BitVec 4} {p : SourceId} : x ++ y = p ↔ x = field p 4 12 ∧ y = field p 0 4 := by
  rw [← hasField_all, hasField_append, hasField, hasField, eq_comm, eq_comm (a := y)]

/-! ## Queue descriptors -/

theorem dscType_toNat_eq_iff {w : BitVec 256} {t : Nat} (ht : t < 16) :
    (dscType w).toNat = t ↔ field w 9 3 = 0#3 ∧ field w 0 4 = BitVec.ofNat 4 t := by
  have hlow := (field w 0 4).isLt
  rw [dscType, BitVec.toNat_append, ← Nat.shiftLeft_add_eq_or_of_lt hlow, Nat.shiftLeft_eq,
    ← BitVec.toNat_inj, ← BitVec.toNat_inj, BitVec.toNat_ofNat, BitVec.toNat_ofNat]
  omega

/-- What a layout reads, once its reserved bits are checked. -/
theorem ite_eq_ok_iff {α ε : Type} {c : Prop} [Decidable c] {e : ε} {a b : α} :
    (if c then Except.ok a else Except.error e) = Except.ok b ↔ c ∧ a = b := by
  split <;> simp [*]

/-! Each layout (30 R853 to R861): `hasField_append` takes the encoder's row apart, and what is left on both sides is the same
list of fields. -/

variable {w : BitVec 256} {i : Instr}

theorem encodeCcInv_eq_iff {g : BitVec 2} {did : DomainId} {sid : SourceId} {fm : BitVec 2} :
    encodeCcInv g did sid fm = w ↔
      (dscType w).toNat = 1 ∧ decodeCcInv w = .ok (.ccInvDsc g did sid fm) := by
  rw [encodeCcInv, ← hasField_all, dscType_toNat_eq_iff (by decide), decodeCcInv, ite_eq_ok_iff]
  simp only [hasField_append]
  simp [hasField]
  tauto

theorem encodeIotlbInv_eq_iff {g : BitVec 2} {dw dr : Bool} {did : DomainId} {am : BitVec 6} {ih : Bool} {addr : BitVec 52} :
    encodeIotlbInv g dw dr did am ih addr = w ↔
      (dscType w).toNat = 2 ∧ decodeIotlbInv w = .ok (.iotlbInvDsc g dw dr did am ih addr) := by
  rw [encodeIotlbInv, ← hasField_all, dscType_toNat_eq_iff (by decide), decodeIotlbInv, ite_eq_ok_iff]
  simp only [hasField_append, hasField_bit]
  simp [hasField]
  tauto

theorem encodeDevTlbInv_eq_iff {sid : SourceId} {mip : BitVec 5} {pfsid : SourceId} {sz : Bool} {addr : BitVec 52} :
    encodeDevTlbInv sid mip pfsid sz addr = w ↔
      (dscType w).toNat = 3 ∧ decodeDevTlbInv w = .ok (.devTlbInvDsc sid mip pfsid sz addr) := by
  rw [encodeDevTlbInv, ← hasField_all, dscType_toNat_eq_iff (by decide), decodeDevTlbInv, ite_eq_ok_iff]
  simp only [hasField_append, hasField_bit]
  simp [hasField, pfsid_eq_iff]
  tauto

theorem encodeIecInv_eq_iff {g : Bool} {im : BitVec 5} {iidx : BitVec 16} :
    encodeIecInv g im iidx = w ↔
      (dscType w).toNat = 4 ∧ decodeIecInv w = .ok (.iecInvDsc g im iidx) := by
  rw [encodeIecInv, ← hasField_all, dscType_toNat_eq_iff (by decide), decodeIecInv, ite_eq_ok_iff]
  simp only [hasField_append, hasField_bit]
  simp [hasField]
  tauto

theorem encodeInvWait_eq_iff {iflag sw fn pd : Bool} {data : BitVec 32} {saddr : BitVec 62} :
    encodeInvWait iflag sw fn pd data saddr = w ↔
      (dscType w).toNat = 5 ∧ decodeInvWait w = .ok (.invWaitDsc iflag sw fn pd data saddr) := by
  rw [encodeInvWait, ← hasField_all, dscType_toNat_eq_iff (by decide), decodeInvWait, ite_eq_ok_iff]
  simp only [hasField_append, hasField_bit]
  simp [hasField]
  tauto

theorem encodePIotlbInv_eq_iff {g : BitVec 2} {did : DomainId} {pasid : Pasid} {am : BitVec 6} {ih : Bool} {addr : BitVec 52} :
    encodePIotlbInv g did pasid am ih addr = w ↔
      (dscType w).toNat = 6 ∧ decodePIotlbInv w = .ok (.pIotlbInvDsc g did pasid am ih addr) := by
  rw [encodePIotlbInv, ← hasField_all, dscType_toNat_eq_iff (by decide), decodePIotlbInv, ite_eq_ok_iff]
  simp only [hasField_append, hasField_bit]
  simp [hasField]
  tauto

theorem encodePcInv_eq_iff {g : BitVec 2} {did : DomainId} {pasid : Pasid} :
    encodePcInv g did pasid = w ↔
      (dscType w).toNat = 7 ∧ decodePcInv w = .ok (.pcInvDsc g did pasid) := by
  rw [encodePcInv, ← hasField_all, dscType_toNat_eq_iff (by decide), decodePcInv, ite_eq_ok_iff]
  simp only [hasField_append]
  simp [hasField]
  tauto

theorem encodePDevTlbInv_eq_iff {mip : BitVec 5} {pfsid sid : SourceId} {pasid : Pasid} {g sz : Bool} {addr : BitVec 52} :
    encodePDevTlbInv mip pfsid sid pasid g sz addr = w ↔
      (dscType w).toNat = 8 ∧ decodePDevTlbInv w = .ok (.pDevTlbInvDsc mip pfsid sid pasid g sz addr) := by
  rw [encodePDevTlbInv, ← hasField_all, dscType_toNat_eq_iff (by decide), decodePDevTlbInv, ite_eq_ok_iff]
  simp only [hasField_append, hasField_bit]
  simp [hasField, pfsid_eq_iff]
  tauto

theorem encodePageGrpResp_eq_iff {pp : Bool} {rc : BitVec 4} {rid : SourceId} {pasid : Pasid} {prgi : BitVec 9} :
    encodePageGrpResp pp rc rid pasid prgi = w ↔
      (dscType w).toNat = 9 ∧ decodePageGrpResp w = .ok (.pageGrpRespDsc pp rc rid pasid prgi) := by
  rw [encodePageGrpResp, ← hasField_all, dscType_toNat_eq_iff (by decide), decodePageGrpResp, ite_eq_ok_iff]
  simp only [hasField_append, hasField_bit]
  simp [hasField]
  tauto

theorem encode_of_decodeDsc (h : decodeDsc w = .ok i) : encode i = .iqDsc true w := by
  unfold decodeDsc at h
  split at h
  next ht =>
    obtain ⟨-, rfl⟩ := ite_eq_ok_iff.1 h
    exact congrArg (Raw.iqDsc true) (encodeCcInv_eq_iff.2 ⟨ht, h⟩)
  next ht =>
    obtain ⟨-, rfl⟩ := ite_eq_ok_iff.1 h
    exact congrArg (Raw.iqDsc true) (encodeIotlbInv_eq_iff.2 ⟨ht, h⟩)
  next ht =>
    obtain ⟨-, rfl⟩ := ite_eq_ok_iff.1 h
    exact congrArg (Raw.iqDsc true) (encodeDevTlbInv_eq_iff.2 ⟨ht, h⟩)
  next ht =>
    obtain ⟨-, rfl⟩ := ite_eq_ok_iff.1 h
    exact congrArg (Raw.iqDsc true) (encodeIecInv_eq_iff.2 ⟨ht, h⟩)
  next ht =>
    obtain ⟨-, rfl⟩ := ite_eq_ok_iff.1 h
    exact congrArg (Raw.iqDsc true) (encodeInvWait_eq_iff.2 ⟨ht, h⟩)
  next ht =>
    obtain ⟨-, rfl⟩ := ite_eq_ok_iff.1 h
    exact congrArg (Raw.iqDsc true) (encodePIotlbInv_eq_iff.2 ⟨ht, h⟩)
  next ht =>
    obtain ⟨-, rfl⟩ := ite_eq_ok_iff.1 h
    exact congrArg (Raw.iqDsc true) (encodePcInv_eq_iff.2 ⟨ht, h⟩)
  next ht =>
    obtain ⟨-, rfl⟩ := ite_eq_ok_iff.1 h
    exact congrArg (Raw.iqDsc true) (encodePDevTlbInv_eq_iff.2 ⟨ht, h⟩)
  next ht =>
    obtain ⟨-, rfl⟩ := ite_eq_ok_iff.1 h
    exact congrArg (Raw.iqDsc true) (encodePageGrpResp_eq_iff.2 ⟨ht, h⟩)
  next => cases h

theorem decodeDsc_of_encode (h : encode i = .iqDsc true w) : decodeDsc w = .ok i := by
  cases i with
  | ccInvDsc =>
    obtain ⟨ht, hd⟩ := encodeCcInv_eq_iff.1 (Raw.iqDsc.inj h).2
    rw [decodeDsc, ht]
    exact hd
  | iotlbInvDsc =>
    obtain ⟨ht, hd⟩ := encodeIotlbInv_eq_iff.1 (Raw.iqDsc.inj h).2
    rw [decodeDsc, ht]
    exact hd
  | devTlbInvDsc =>
    obtain ⟨ht, hd⟩ := encodeDevTlbInv_eq_iff.1 (Raw.iqDsc.inj h).2
    rw [decodeDsc, ht]
    exact hd
  | iecInvDsc =>
    obtain ⟨ht, hd⟩ := encodeIecInv_eq_iff.1 (Raw.iqDsc.inj h).2
    rw [decodeDsc, ht]
    exact hd
  | invWaitDsc =>
    obtain ⟨ht, hd⟩ := encodeInvWait_eq_iff.1 (Raw.iqDsc.inj h).2
    rw [decodeDsc, ht]
    exact hd
  | pIotlbInvDsc =>
    obtain ⟨ht, hd⟩ := encodePIotlbInv_eq_iff.1 (Raw.iqDsc.inj h).2
    rw [decodeDsc, ht]
    exact hd
  | pcInvDsc =>
    obtain ⟨ht, hd⟩ := encodePcInv_eq_iff.1 (Raw.iqDsc.inj h).2
    rw [decodeDsc, ht]
    exact hd
  | pDevTlbInvDsc =>
    obtain ⟨ht, hd⟩ := encodePDevTlbInv_eq_iff.1 (Raw.iqDsc.inj h).2
    rw [decodeDsc, ht]
    exact hd
  | pageGrpRespDsc =>
    obtain ⟨ht, hd⟩ := encodePageGrpResp_eq_iff.1 (Raw.iqDsc.inj h).2
    rw [decodeDsc, ht]
    exact hd
  | _ => cases h

/-- A queue descriptor decodes to the instruction whose encoding it is, and to no other. -/
theorem decodeDsc_eq_ok_iff : decodeDsc w = .ok i ↔ encode i = .iqDsc true w :=
  ⟨encode_of_decodeDsc, decodeDsc_of_encode⟩

/-! ## Page-request descriptors -/

theorem encodePrq_eq_iff {m : PageMsg} : encodePrq m = w ↔ decodePrq w = .ok (.pageReqDsc m) := by
  cases m
  rw [encodePrq, ← hasField_all, decodePrq, ite_eq_ok_iff]
  simp only [hasField_append, hasField_bit]
  simp [hasField]
  tauto

/-- A page-request descriptor decodes to the instruction whose encoding it is, and to no other. -/
theorem decodePrq_eq_ok_iff : decodePrq w = .ok i ↔ encode i = .prqDsc w := by
  constructor
  · intro h
    obtain ⟨-, rfl⟩ := ite_eq_ok_iff.1 h
    exact congrArg Raw.prqDsc (encodePrq_eq_iff.2 h)
  · intro h
    cases i with
    | pageReqDsc => exact encodePrq_eq_iff.1 (Raw.prqDsc.inj h)
    | _ => cases h

/-! ## Descriptors -/

/-- A word that stands for one instruction. -/
theorem map_singleton_eq_ok_iff {ε : Type} {x : Except ε Instr} : x.map (fun j => [j]) = .ok [i] ↔ x = .ok i := by
  cases x <;> simp [Except.map]

theorem decode_iqDsc_eq_ok_iff : decode (.iqDsc true w) = .ok [i] ↔ encode i = .iqDsc true w :=
  map_singleton_eq_ok_iff.trans decodeDsc_eq_ok_iff

theorem decode_prqDsc_eq_ok_iff : decode (.prqDsc w) = .ok [i] ↔ encode i = .prqDsc w :=
  map_singleton_eq_ok_iff.trans decodePrq_eq_ok_iff

/-- Settles O2: the two rules for descriptors, read from left to right. -/
theorem encodeDecodeDescriptor : Obligations.EncodeDecodeDescriptor :=
  ⟨fun _ _ => decode_iqDsc_eq_ok_iff.1, fun _ _ => decode_prqDsc_eq_ok_iff.1⟩

/-! ## Register words -/

variable {v : BitVec 64}

theorem decodeCcmd_of_encodeCcmd {cirg : BitVec 2} {sid : SourceId} {did : DomainId} {fm : BitVec 2}
    (h : encodeCcmd cirg sid did fm = v) : decodeCcmd v = [.ccmdIcc cirg sid did fm] := by
  rw [encodeCcmd, ← hasField_all] at h
  simp only [hasField_append] at h
  obtain ⟨⟨⟨⟨⟨⟨hicc, rfl⟩, -⟩, -⟩, rfl⟩, rfl⟩, rfl⟩ := h
  exact if_pos (hasField_bit (b := true).1 hicc)

theorem decodeIotlb_of_encodeIotlb {iirg : BitVec 2} {dr dw : Bool} {did : DomainId}
    (h : encodeIotlb iirg dr dw did = v) : decodeIotlb v = [.iotlbIvt iirg dr dw did] := by
  rw [encodeIotlb, ← hasField_all] at h
  simp only [hasField_append, hasField_bit] at h
  obtain ⟨⟨⟨⟨⟨⟨⟨⟨⟨hivt, -⟩, rfl⟩, -⟩, -⟩, -⟩, rfl⟩, rfl⟩, rfl⟩, -⟩ := h
  exact if_pos (hasField_bit (b := true).1 hivt)

/-- The row of an ECMD_REG or VCMD_REG word: operand, reserved bits, code (30 R874, R875). -/
theorem encodeCmd_eq_iff {c : BitVec 8} {oa : BitVec 48} :
    encodeCmd c oa = v ↔ (field v 16 48 = oa ∧ field v 8 8 = 0) ∧ field v 0 8 = c := by
  rw [encodeCmd, ← hasField_all, hasField_append, hasField_append]
  exact Iff.rfl

theorem field_encodeCmd_code (c : BitVec 8) (oa : BitVec 48) : field (encodeCmd c oa) 0 8 = c := by
  obtain ⟨-, hcode⟩ := encodeCmd_eq_iff.1 (rfl : encodeCmd c oa = _)
  exact hcode

theorem field_encodeCmd_operand (c : BitVec 8) (oa : BitVec 48) : field (encodeCmd c oa) 16 48 = oa := by
  obtain ⟨⟨hoperand, -⟩, -⟩ := encodeCmd_eq_iff.1 (rfl : encodeCmd c oa = _)
  exact hoperand

theorem decodeEcmd_of_reserved (h : (field v 0 8).toNat < 240 ∨ 245 < (field v 0 8).toNat) :
    decodeEcmd v = [.ecmdReserved (field v 0 8) (field v 16 48)] := by
  unfold decodeEcmd
  split
  case h_7 => rfl
  all_goals omega

/-! ## Messages -/

theorem isInterrupt_interruptRecord {sid : SourceId} {a data : BitVec 32} (h : a.extractLsb' 20 12 = 0xFEE#12) :
    (interruptRecord sid a data).isInterrupt = true := by
  have haddr : hasField (0#32 ++ a : Addr) 20 (0#32 ++ 0xFEE#12) :=
    hasField_append.2 ⟨field_append_high (0#32) a 32 32 (by decide), (field_append_low (0#32) a 20 12 (by decide)).trans h⟩
  have hrange : (interruptRecord sid a data).addr.extractLsb' 20 44 = 0xFEE#44 := haddr
  rw [MemReq.isInterrupt, hrange]
  rfl

/-- The record of an interrupt request is one, and holds its address and its data (30 R865). -/
theorem decodeMem_interruptRecord {sid : SourceId} {a data : BitVec 32} (h : a.extractLsb' 20 12 = 0xFEE#12) :
    decodeMem 0 (interruptRecord sid a data) = .ok (.interruptRequest sid a data) := by
  have haddr : field (0#32 ++ a : Addr) 0 32 = a := (field_append_low (0#32) a 0 32 (by decide)).trans (field_all a)
  have hdata : BitVec.ofNat 32 (ofBytes (toBytes 4 data.toNat)) = data := by
    rw [ofBytes_toBytes, Nat.mod_eq_of_lt (b := 256 ^ 4) data.isLt, BitVec.ofNat_toNat, BitVec.setWidth_eq]
  calc decodeMem 0 (interruptRecord sid a data)
    _ = .ok (.interruptRequest sid (field (0#32 ++ a : Addr) 0 32) (BitVec.ofNat 32 (ofBytes (toBytes 4 data.toNat)))) :=
      if_pos (isInterrupt_interruptRecord h)
    _ = .ok (.interruptRequest sid a data) := by rw [haddr, hdata]

theorem decodeMem_untranslated {r : MemReq} (hs : r.shape = true) (hi : r.isInterrupt = false) :
    decodeMem 0 r = .ok (.untranslatedRequest r) := by
  simp [decodeMem, hs, hi]

theorem decodeMem_translation {r : MemReq} (h : r.atsShape = true) : decodeMem 1 r = .ok (.translationRequest r) := by
  have hread : r.access = .read := by
    simp only [MemReq.atsShape, Bool.and_eq_true, beq_iff_eq] at h
    obtain ⟨⟨⟨⟨hread, -⟩, -⟩, -⟩, -⟩ := h
    exact hread
  simp [decodeMem, h, hread]

theorem decodeMem_translated {r : MemReq} (hs : r.shape = true) (hp : r.pasid = none) :
    decodeMem 2 r = .ok (.translatedRequest r) := by
  simp [decodeMem, hs, hp]

/-! ## The statements -/

/-- Settles O1, by the kind of word the instruction is presented as. -/
theorem decodeEncode : Obligations.DecodeEncode := by
  intro i hwf
  cases i with
  | ccInvDsc | iotlbInvDsc | devTlbInvDsc | iecInvDsc | invWaitDsc | pIotlbInvDsc | pcInvDsc | pDevTlbInvDsc
  | pageGrpRespDsc => exact decode_iqDsc_eq_ok_iff.2 rfl
  | pageReqDsc => exact decode_prqDsc_eq_ok_iff.2 rfl
  | gcmdTeEnable | gcmdTeDisable | gcmdSrtp | gcmdWbf | gcmdQieEnable | gcmdQieDisable | gcmdIreEnable | gcmdIreDisable
  | gcmdSirtp | gcmdCfiSet | gcmdCfiClear | pmenEpmEnable | pmenEpmDisable => rfl
  | ccmdIcc => exact congrArg Except.ok (decodeCcmd_of_encodeCcmd rfl)
  | iotlbIvt => exact congrArg Except.ok (decodeIotlb_of_encodeIotlb rfl)
  | ecmdEnable | ecmdDisable | ecmdResetConfig | ecmdResetValues | ecmdFreeze | ecmdUnfreeze =>
    simp [decode, encode, decodeEcmd, field_encodeCmd_code, field_encodeCmd_operand]
  | ecmdReserved c oa =>
    have hc : c.toNat < 240 ∨ 245 < c.toNat := by simpa [Instr.wf, BitVec.lt_def] using hwf
    rw [encode, decode, decodeEcmd_of_reserved (by rwa [field_encodeCmd_code]), field_encodeCmd_code,
      field_encodeCmd_operand]
  | vcmdNull | vcmdAllocate | vcmdFree =>
    simp [decode, encode, decodeVcmd, field_encodeCmd_code, field_encodeCmd_operand]
  | untranslatedRequest r =>
    obtain ⟨hs, hi⟩ : r.shape = true ∧ r.isInterrupt = false := by simpa [Instr.wf] using hwf
    exact map_singleton_eq_ok_iff.2 (decodeMem_untranslated hs hi)
  | translationRequest r => exact map_singleton_eq_ok_iff.2 (decodeMem_translation hwf)
  | translatedRequest r =>
    obtain ⟨hs, hp⟩ : r.shape = true ∧ r.pasid = none := by simpa [Instr.wf] using hwf
    exact map_singleton_eq_ok_iff.2 (decodeMem_translated hs hp)
  | interruptRequest sid a data =>
    exact map_singleton_eq_ok_iff.2 (decodeMem_interruptRecord (by simpa [Instr.wf] using hwf))
  | pageRequest | invalidationCompletion => rfl

/-- Settles O3: each word but the GCMD_REG one is the encoding of the command it is said to be. -/
theorem specWordsDecode : Obligations.SpecWordsDecode :=
  ⟨decode_iqDsc_eq_ok_iff.2 rfl, decode_iqDsc_eq_ok_iff.2 rfl, decode_prqDsc_eq_ok_iff.2 rfl, rfl,
    decodeEncode (.ccmdIcc 3 0x0010 5 3) rfl, decodeEncode (.iotlbIvt 3 true true 7) rfl, decodeEncode (.ecmdEnable 2) rfl,
    decodeEncode (.vcmdFree 0x105) rfl⟩

end Sys2Proof
end

section
/-! O8: ITags and PASIDs (40 R935; 41 R995, R996). What the unit has handed out is read off a state by `State.held`. Each operation
that hands nothing out and takes nothing back leaves it as it stands, said once per operation in the order of the model; the
few that do are named in `HeldInvariant`, and a property of `State.held` that survives those survives every step. -/

namespace Sys2Proof.Machine

/-- What the unit has handed out: ITags, under the pending descriptors, and PASIDs, beside those that are free. -/
structure Held where
  pending : List Pending
  itags : List ITag
  numItag : Nat
  free : List Pasid
  allocated : List Pasid

def State.held (s : State) : Held :=
  { pending := s.iqPend, itags := s.itags, numItag := s.plat.numItag, free := s.vcmd.free, allocated := s.vcmd.allocated }

/-- A choice between two operations. -/
theorem held_ite {s t u : State} {p : Prop} [Decidable p] (ht : t.held = s.held) (hu : u.held = s.held) :
    (if p then t else u).held = s.held := by
  split
  · exact ht
  · exact hu

/-- An operation repeated along a list. -/
theorem held_foldl {α : Type} {f : State → α → State} (hf : ∀ s a, (f s a).held = s.held) (l : List α) (s : State) :
    (l.foldl f s).held = s.held := by
  induction l generalizing s with
  | nil => rfl
  | cons a l ih => exact (ih (f s a)).trans (hf s a)

/-! ## Memory, events and faults -/

theorem State.implicitFlush_held (s : State) : s.implicitFlush.held = s.held := held_ite rfl rfl

theorem State.softStore_held (s : State) (a : Nat) (bs : List Byte) : (s.softStore a bs).held = s.held := held_ite rfl rfl

theorem State.drainStore_held (s : State) : s.drainStore.held = s.held := by
  obtain ⟨m, b, h⟩ := s.drainStore_frame
  rw [h]
  rfl

theorem State.setEvRegs_held (s : State) (e : EventName) (r : EventRegs) : (s.setEvRegs e r).held = s.held := by
  cases e <;> rfl

theorem State.sendInterrupt_held (s : State) (e : EventName) : (s.sendInterrupt e).held = s.held := by
  obtain ⟨m, b, o, h⟩ := s.sendInterrupt_frame e
  rw [h]
  rfl

/-- The registers of an event replaced, then its message sent. -/
theorem State.setEvRegs_send_held (s : State) (e : EventName) (r : EventRegs) :
    ((s.setEvRegs e r).sendInterrupt e).held = s.held := (State.sendInterrupt_held _ e).trans (s.setEvRegs_held e r)

theorem State.raiseEvent_held (s : State) (e : EventName) (w : Bool) : (s.raiseEvent e w).held = s.held :=
  held_ite rfl (held_ite (s.setEvRegs_held e _) (s.setEvRegs_send_held e _))

theorem State.statusCleared_held (s : State) (e : EventName) : (s.statusCleared e).held = s.held :=
  held_ite rfl (s.setEvRegs_held e _)

theorem State.writeIm_held (s : State) (e : EventName) (im : Bool) : (s.writeIm e im).held = s.held :=
  held_ite (s.setEvRegs_send_held e _) (s.setEvRegs_held e _)

theorem State.releaseEvent_held (s : State) (e : EventName) : (s.releaseEvent e).held = s.held :=
  held_ite (s.setEvRegs_send_held e _) rfl

theorem State.releaseAll_held (s : State) : s.releaseAll.held = s.held := by
  simp only [State.releaseAll, State.releaseEvent_held]

theorem State.reportFault_held (s : State) (r : FaultReport) : (s.reportFault r).held = s.held := by
  obtain ⟨fs, fr, i, e, m, b, o, h⟩ := s.reportFault_frame r
  rw [h]
  rfl

theorem State.resetFaultIdx_held (s : State) : s.resetFaultIdx.held = s.held := held_ite rfl rfl

/-! ## Perfmon -/

theorem State.count_held (s : State) (c : Occurrence) : (s.count c).held = s.held := by
  obtain ⟨p, e, m, b, o, h⟩ := s.count_frame c
  rw [h]
  rfl

theorem State.perfPulse_held (s : State) (g e n : Nat) : (s.perfPulse g e n).held = s.held := held_ite (s.count_held _) rfl

theorem State.countInt_held (s : State) (g e : Nat) (sid : SourceId) : (s.countInt g e sid).held = s.held := s.count_held _

theorem State.countRequest_held (s : State) (sid : SourceId) (p : Option Pasid) (atf : Nat) :
    (s.countRequest sid p atf).held = s.held := s.count_held _

/-! ## Caches and walks -/

theorem State.evict_held (s : State) (c : CacheName) (n : Nat) : (s.evict c n).held = s.held := by
  cases c <;> rfl

theorem State.fillIec_held (s : State) (e : IecEntry) : (s.fillIec e).held = s.held := held_ite rfl rfl

theorem State.keepFound_held (s : State) (f : Found) (r : MemReq) (fpd : Bool) : (s.keepFound f r fpd).held = s.held :=
  held_ite rfl (held_ite rfl rfl)

/-- The state a walk leaves. -/
theorem held_of_runWalk {α : Type} {s u : State} {w : Walk α} {sid : SourceId} {p : Option Pasid} {a : Nat}
    {res : Except Cond α} {t : Trail} (h : s.runWalk w sid p a = (res, t, u)) : u.held = s.held := by
  obtain ⟨p', e, m, b, o, c, x, hu⟩ := s.runWalk_frame w sid p a
  rw [h] at hu
  subst hu
  rfl

/-! ## Requests and interrupts in flight -/

theorem State.drainWhere_held (s : State) (p : Forwarded → Bool) : (s.drainWhere p).held = s.held := by
  obtain ⟨m, b, o, n, h⟩ := s.drainWhere_frame p
  rw [h]
  rfl

theorem State.forward_held (s : State) (f : Forwarded) : (s.forward f).held = s.held := by
  obtain ⟨m, b, o, n, l, h⟩ := s.forward_frame f
  rw [h]
  rfl

theorem State.commitNth_held (s : State) (k : Nat) : (s.commitNth k).held = s.held := by
  obtain ⟨m, b, o, n, l, h⟩ := s.commitNth_frame k
  rw [h]
  rfl

theorem State.acceptWhere_held (s : State) (p : IntrFlight → Bool) : (s.acceptWhere p).held = s.held := by
  rw [State.acceptWhere_eq]
  rfl

theorem State.deliver_held (s : State) (d : IntrFlight) : (s.deliver d).held = s.held := by
  obtain ⟨o, l, h⟩ := s.deliver_frame d
  rw [h]
  rfl

theorem State.acceptNth_held (s : State) (n : Nat) : (s.acceptNth n).held = s.held := by
  obtain ⟨o, l, h⟩ := s.acceptNth_frame n
  rw [h]
  rfl

/-! ## Interrupt requests (44 R1100 to R1137) -/

theorem State.intFault_held (s : State) (reason : BitVec 8) (q : Bool) (sid : SourceId) (fi : BitVec 52) (fpd : Bool) :
    (s.intFault reason q sid fi fpd).held = s.held := s.reportFault_held _

theorem State.handleCompat_held (s : State) (sid : SourceId) (addr data : BitVec 32) :
    (s.handleCompat sid addr data).held = s.held := held_ite (s.reportFault_held _) (s.deliver_held _)

theorem State.post_held (s : State) (sid : SourceId) (e : BitVec 128) : (s.post sid e).held = s.held := by
  have hstore : ∀ v, (s.drainInterrupts.memWrite (irtePid e).toNat 64 v).held = s.held := fun _ => s.acceptWhere_held _
  exact held_ite ((State.deliver_held _ _).trans (hstore _)) (hstore _)

theorem State.useIrte_held (s : State) (sid : SourceId) (idx : Nat) (e : BitVec 128) (cached : Bool) :
    (s.useIrte sid idx e cached).held = s.held := by
  have hfetched : (if cached || ((useFault s sid e).isSome && !s.caps.cm) then s
      else s.fillIec { index := BitVec.ofNat 16 idx, irte := e }).held = s.held := held_ite rfl (s.fillIec_held _)
  have haccess : ∀ {u : State} n, u.held = s.held →
      (if reachesPid s sid e then u.access .atomic n 64 true else u).held = s.held := fun _ hu => held_ite hu hu
  unfold State.useIrte
  dsimp only
  split
  · exact (State.intFault_held _ _ _ _ _ _).trans (haccess _ hfetched)
  · exact held_ite ((State.post_held _ _ _).trans (haccess _ hfetched)) ((State.deliver_held _ _).trans (haccess _ hfetched))

theorem State.remapInterrupt_held (s : State) (sid : SourceId) (addr data : BitVec 32) :
    (s.remapInterrupt sid addr data).held = s.held := by
  have hlooked : ∀ g e, ((s.countInt 4 0 sid).countInt g e sid).held = s.held := fun _ _ =>
    (State.countInt_held _ _ _ _).trans (s.countInt_held _ _ _)
  refine held_ite (s.intFault_held _ _ _ _ _) (held_ite (s.intFault_held _ _ _ _ _) ?_)
  dsimp only
  split
  · exact (State.useIrte_held _ _ _ _ _).trans (hlooked _ _)
  refine held_ite ((State.intFault_held _ _ _ _ _ _).trans (s.countInt_held _ _ _)) ?_
  split
  · exact (State.intFault_held _ _ _ _ _ _).trans (hlooked _ _)
  · exact (State.useIrte_held _ _ _ _ _).trans (hlooked _ _)

theorem State.handleInterrupt_held (s : State) (sid : SourceId) (addr data : BitVec 32) :
    (s.handleInterrupt sid addr data).held = s.held := by
  have hdrained : s.drainPosted.held = s.held := s.drainWhere_held _
  exact held_ite ((State.deliver_held _ _).trans hdrained) (held_ite ((State.handleCompat_held _ _ _ _).trans hdrained)
    ((State.remapInterrupt_held _ _ _ _).trans hdrained))

/-! ## Memory requests (42 R1000 to R1032, 43 R1055 to R1075) -/

theorem State.turnAway_held (s : State) (r : MemReq) : (s.turnAway r).held = s.held := held_ite rfl rfl

theorem State.block_held (s : State) (k : ReqKind) (r : MemReq) (c : Cond) (fpd : Bool) :
    (s.block k r c fpd).held = s.held := (State.reportFault_held _ _).trans (s.turnAway_held r)

theorem State.passOn_held (s : State) (k : ReqKind) (r : MemReq) (hpa : Addr) (pt snoop : Bool) (mt : Option MemType) :
    (s.passOn k r hpa pt snoop mt).held = s.held := held_ite (s.turnAway_held r) (s.forward_held _)

theorem State.blockIllegal_held (s : State) (r : MemReq) : (s.blockIllegal r).held = s.held :=
  held_ite (s.block_held _ r _ _) (s.turnAway_held r)

theorem State.interruptRange_held (s : State) (r : MemReq) : (s.interruptRange r).held = s.held := by
  unfold State.interruptRange
  split
  · exact held_ite (s.handleInterrupt_held _ _ _) (s.blockIllegal_held r)
  · rfl
  · exact s.blockIllegal_held r
  · exact s.blockIllegal_held r

theorem State.forwardFound_held (s : State) (r : MemReq) (f : Found) (fpd : Bool) :
    (s.forwardFound r f fpd).held = s.held := (State.passOn_held _ _ _ _ _ _ _).trans (s.keepFound_held f r fpd)

theorem State.handleUntranslated_held (s : State) (r : MemReq) : (s.handleUntranslated r).held = s.held := by
  refine held_ite (s.interruptRange_held r) (held_ite (s.passOn_held _ _ _ _ _ _) ?_)
  split
  next hw => exact (State.block_held _ _ _ _ _).trans (held_of_runWalk hw)
  next hw => exact (State.forwardFound_held _ _ _ _).trans (held_of_runWalk hw)

theorem State.answerFault_held (s : State) (r : MemReq) (c : Cond) (t : Trail) : (s.answerFault r c t).held = s.held := by
  have hfault : ∀ a f, ((s.respond r.sid a).reportFault f).held = s.held := fun _ _ => State.reportFault_held _ _
  unfold State.answerFault
  split
  · exact held_ite (hfault _ _) rfl
  · rfl
  · exact hfault _ _
  · exact hfault _ _

theorem State.handleTranslation_held (s : State) (r : MemReq) : (s.handleTranslation r).held = s.held := by
  refine held_ite rfl ?_
  split
  next hw => exact (State.answerFault_held _ _ _ _).trans (held_of_runWalk hw)
  next hw => exact (State.keepFound_held _ _ _ _).trans (held_of_runWalk hw)

theorem State.handleTranslated_held (s : State) (r : MemReq) : (s.handleTranslated r).held = s.held := by
  refine held_ite (s.forward_held _) (held_ite (s.turnAway_held r) ?_)
  split
  next hw => exact (State.block_held _ _ _ _ _).trans (held_of_runWalk hw)
  next hw => exact (State.passOn_held _ _ _ _ _ _ _).trans (held_of_runWalk hw)

/-! ## Page requests (45 R1170 to R1185) -/

theorem State.autoResponse_held (s : State) (m : PageMsg) (c : BitVec 4) : (s.autoResponse m c).held = s.held :=
  held_ite rfl rfl

theorem State.writePrq_held (s : State) (m : PageMsg) : (s.writePrq m).held = s.held :=
  held_ite ((State.count_held _ _).trans (State.raiseEvent_held _ _ _)) rfl

theorem State.implicitInvalidate_held (s : State) (g : BitVec 3) (did : DomainId) (p : Pasid) (addr : BitVec 52) :
    (s.implicitInvalidate g did p addr).held = s.held := by
  unfold State.implicitInvalidate
  split <;> rfl

theorem State.acceptPage_held (s : State) (m : PageMsg) (g : BitVec 3) (did : DomainId) (p : Pasid) :
    (s.acceptPage m g did p).held = s.held := by
  have hpro : s.setPro.held = s.held := State.raiseEvent_held _ _ _
  exact held_ite (s.autoResponse_held m _) (held_ite ((State.autoResponse_held _ m _).trans hpro)
    ((State.writePrq_held _ _).trans (s.implicitInvalidate_held g did p m.addr)))

theorem State.handlePage_held (s : State) (m : PageMsg) : (s.handlePage m).held = s.held := by
  refine held_ite (s.autoResponse_held m _) ?_
  split
  next hw =>
    exact ((State.autoResponse_held _ m _).trans (held_ite rfl (State.reportFault_held _ _))).trans (held_of_runWalk hw)
  next hw => exact (State.acceptPage_held _ _ _ _ _).trans (held_of_runWalk hw)

/-! ## The invalidation queue (40 R902 to R930) -/

theorem State.raiseIqe_held (s : State) (i : BitVec 4) : (s.raiseIqe i).held = s.held := State.raiseEvent_held _ _ _

theorem State.setIce_held (s : State) (rid : SourceId) : (s.setIce rid).held = s.held :=
  held_ite (State.raiseEvent_held _ _ _) rfl

theorem State.completeWait_held (s : State) (iflag sw : Bool) (data : BitVec 32) (saddr : BitVec 62) :
    (s.completeWait iflag sw data saddr).held = s.held := by
  have hstatus : (if sw then s.writeStatus data saddr else s).held = s.held := held_ite (held_ite rfl rfl) rfl
  unfold State.completeWait
  dsimp only
  split
  · exact (State.raiseEvent_held _ _ _).trans hstatus
  · exact hstatus

theorem State.noteFetch_held (s : State) : s.noteFetch.held = s.held := held_ite (State.count_held _ _) rfl

theorem State.invalidatePGrade_held (s : State) (k : Nat) (did : DomainId) (p : Pasid) (addr : BitVec 52) (am : Nat)
    (ih : Bool) : (s.invalidatePGrade k did p addr am ih).held = s.held := held_ite rfl (held_ite rfl rfl)

/-! ## Register commands (41 R951 to R992) -/

theorem State.finishTeDisable_held (s : State) : s.finishTeDisable.held = s.held := by
  have hinv : (if s.caps.smts then s.invalidateAllDma else s).held = s.held := held_ite rfl rfl
  exact (State.resetFaultIdx_held _).trans hinv

theorem State.finishIreDisable_held (s : State) : s.finishIreDisable.held = s.held := by
  have hinv : (if s.caps.esirtps then s.invalidateAllIec else s).held = s.held := held_ite rfl rfl
  exact (State.resetFaultIdx_held _).trans hinv

theorem State.finishSrtp_held (s : State) (p : RootPtr) : (s.finishSrtp p).held = s.held := by
  have hinv : (if s.caps.esrtps then s.invalidateAllDma else s).held = s.held := held_ite rfl rfl
  exact hinv

theorem State.finishSirtp_held (s : State) (p : IrtPtr) : (s.finishSirtp p).held = s.held := by
  have hinv : (if s.caps.esirtps then s.invalidateAllIec else s).held = s.held := held_ite rfl rfl
  exact hinv

theorem State.finishCcmd_held (s : State) : s.finishCcmd.held = s.held := held_ite rfl s.implicitFlush_held

theorem State.finishIotlb_held (s : State) : s.finishIotlb.held = s.held :=
  held_ite rfl ((State.drainWhere_held _ _).trans s.implicitFlush_held)

theorem State.finishPmen_held (s : State) (v : Bool) : (s.finishPmen v).held = s.held := by
  have hdrained : (if v then s.drainAll else s).held = s.held := held_ite (s.drainWhere_held _) rfl
  exact hdrained

/-- An enhanced command whose own effect leaves what is handed out. -/
theorem State.ecmdRun_held (s : State) (cmd : Nat) {act : State → State × BitVec 7} (h : (act s).1.held = s.held) :
    (s.ecmdRun cmd act).held = s.held := held_ite rfl (held_ite rfl h)

theorem enableCounter_held (k : Nat) (s : State) : (enableCounter k s).1.held = s.held := by
  unfold enableCounter
  split <;> rfl

theorem disableCounter_held (k : Nat) (s : State) : (disableCounter k s).1.held = s.held := by
  unfold disableCounter
  split <;> rfl

/-! ## Register writes (41 R998) -/

theorem State.writeEvent_held (s : State) (e : EventName) (k : Nat) (v : BitVec 32) : (s.writeEvent e k v).held = s.held := by
  unfold State.writeEvent
  split
  · exact s.writeIm_held e _
  · exact s.setEvRegs_held e _
  · exact s.setEvRegs_held e _
  · exact held_ite (s.setEvRegs_held e _) rfl

theorem State.writeOverflow_held (s : State) (first : Nat) (v : BitVec 32) : (s.writeOverflow first v).held = s.held := by
  unfold State.writeOverflow
  refine held_foldl (fun _ _ => ?_) _ s
  exact held_ite rfl rfl

theorem State.writePerf_held (s : State) (off : Nat) (v : BitVec 32) : (s.writePerf off v).held = s.held := by
  unfold State.writePerf
  dsimp only
  split
  · exact s.writeOverflow_held _ v
  split
  · rfl
  · exact held_ite rfl rfl

theorem State.held_of_writeMtrrs {s t : State} {off : Nat} {v : BitVec 32} (h : s.writeMtrrs off v = some t) :
    t.held = s.held := by
  unfold State.writeMtrrs at h
  split at h
  · cases h
  split at h
  · cases h
    rfl
  · obtain ⟨k, -, rfl⟩ := Option.map_eq_some_iff.1 h
    rfl

theorem State.writeLocated_held (s : State) (off : Nat) (v : BitVec 32) : (s.writeLocated off v).held = s.held := by
  have hiva : ∀ b, (s.writeIva b v).held = s.held := fun _ => held_ite rfl rfl
  have hfrcd : ∀ n, (s.writeFrcd n v).held = s.held := fun _ => held_ite (State.statusCleared_held _ _) rfl
  refine held_ite (hiva false) (held_ite (hiva true) (held_ite rfl ?_))
  split
  · exact held_ite (hfrcd _) rfl
  split
  next ht => exact State.held_of_writeMtrrs ht
  next => exact held_ite (s.writePerf_held off v) rfl

/-- The registers at fixed offsets: those of the events, those that clear a status, those of a function that may be absent, and
plain ones. -/
theorem State.writeFixedOffset_held (s : State) (off : Nat) (v : BitVec 32) : (s.writeFixedOffset off v).held = s.held := by
  unfold State.writeFixedOffset
  dsimp only
  split
  case h_6 | h_7 | h_8 | h_9 | h_20 | h_21 | h_22 | h_23 | h_31 | h_32 | h_33 | h_34 | h_37 | h_38 | h_39 | h_40 =>
    exact s.writeEvent_held _ _ v
  case h_5 => exact State.statusCleared_held _ _
  case h_19 => exact held_ite (State.statusCleared_held _ _) rfl
  case h_30 => exact State.statusCleared_held _ _
  case h_36 => exact held_ite (State.statusCleared_held _ _) rfl
  case h_10 | h_11 | h_12 | h_13 | h_14 | h_15 | h_41 | h_42 | h_43 | h_44 | h_45 | h_46 => exact held_ite rfl rfl
  all_goals rfl

theorem State.writePlain_held (s : State) (off : Nat) (v : BitVec 32) : (s.writePlain off v).held = s.held :=
  held_ite (s.writeFixedOffset_held off v) (s.writeLocated_held off v)

end Sys2Proof.Machine
end

section
/-! O8: a property of what is handed out that the operations of `HeldInvariant` keep is an invariant of the machine. -/

namespace Sys2Proof.Machine

/-- `P` is a property of `State.held` that every operation keeps which hands out an ITag or a PASID or takes one back. -/
structure HeldInvariant (P : State → Prop) : Prop where
  congr {s t : State} (h : P s) (e : t.held = s.held := by rfl) : P t
  /-- A descriptor that is not sent joins the pending ones. -/
  append {s : State} (h : P s) {p : Pending} (unsent : p.isSent = false) : P { s with iqPend := s.iqPend ++ [p] }
  advance {s : State} (h : P s) : P s.advance
  devTlbTimeout {s : State} (h : P s) (k : Nat) : P (s.devTlbTimeout k)
  countCompletion {s : State} (h : P s) (vec : BitVec 32) (cc : BitVec 3) : P (s.countCompletion vec cc)
  finishQieDisable {s : State} (h : P s) : P s.finishQieDisable
  finishVcmdAllocate {s : State} (h : P s) : P s.finishVcmdAllocate
  finishVcmdFree {s : State} (h : P s) (oa : BitVec 48) : P (s.finishVcmdFree oa)
  resetUnit {s : State} (h : P s) (powerGood : Bool) : P (s.resetUnit powerGood)

namespace HeldInvariant

variable {P : State → Prop} {s : State}

/-! ## The invalidation queue -/

theorem pend (inv : HeldInvariant P) (h : P s) {p : Pending} (unsent : p.isSent = false) : P (s.pend p) :=
  inv.advance (inv.append h unsent)

/-- A descriptor whose own effect keeps the property. -/
theorem runDsc (inv : HeldInvariant P) (h : P s) (ty : Nat) (r : Bool) {act : State → State} (hact : ∀ u, P u → P (act u)) :
    P (s.runDsc ty r act) :=
  iteInduction (fun _ => inv.congr h (s.raiseIqe_held 3)) fun _ =>
    iteInduction (fun _ => inv.congr h (s.raiseIqe_held 4)) fun _ => hact _ (inv.congr h)

/-- A descriptor that leaves what is handed out. -/
theorem runDsc_held (inv : HeldInvariant P) (h : P s) (ty : Nat) (r : Bool) {act : State → State}
    (hact : ∀ u, (act u).held = u.held) : P (s.runDsc ty r act) := inv.runDsc h ty r fun u hu => inv.congr hu (hact u)

/-- A descriptor that waits its turn. -/
theorem runDsc_pend (inv : HeldInvariant P) (h : P s) (ty : Nat) (r : Bool) {p : Pending} (unsent : p.isSent = false) :
    P (s.runDsc ty r (fun u => u.pend p)) := inv.runDsc h ty r fun _ hu => inv.pend hu unsent

/-! ## Register commands -/

theorem finishInstr (inv : HeldInvariant P) (h : P s) (p : PendCmd) (i : Instr) : P (finishInstr p s i) := by
  cases i with
  | gcmdTeEnable => exact inv.congr h (s.drainWhere_held _)
  | gcmdTeDisable => exact inv.congr h s.finishTeDisable_held
  | gcmdSrtp => exact inv.congr h (s.finishSrtp_held p.root)
  | gcmdQieDisable => exact inv.finishQieDisable h
  | gcmdIreEnable => exact inv.congr h (s.acceptWhere_held _)
  | gcmdIreDisable => exact inv.congr h s.finishIreDisable_held
  | gcmdSirtp => exact inv.congr h (s.finishSirtp_held p.irt)
  | ccmdIcc => exact inv.congr h s.finishCcmd_held
  | iotlbIvt => exact inv.congr h s.finishIotlb_held
  | pmenEpmEnable => exact inv.congr h (s.finishPmen_held true)
  | pmenEpmDisable => exact inv.congr h (s.finishPmen_held false)
  | ecmdEnable k => exact inv.congr h (s.ecmdRun_held 240 (enableCounter_held k.toNat s))
  | ecmdDisable k => exact inv.congr h (s.ecmdRun_held 241 (disableCounter_held k.toNat s))
  | ecmdResetConfig => exact inv.congr h (s.ecmdRun_held 242 rfl)
  | ecmdResetValues => exact inv.congr h (s.ecmdRun_held 243 rfl)
  | ecmdFreeze => exact inv.congr h (s.ecmdRun_held 244 rfl)
  | ecmdUnfreeze => exact inv.congr h (s.ecmdRun_held 245 rfl)
  | ecmdReserved => exact inv.congr h (s.ecmdRun_held 0 rfl)
  | vcmdAllocate => exact inv.finishVcmdAllocate h
  | vcmdFree oa => exact inv.finishVcmdFree h oa
  | _ => exact inv.congr h

theorem finishCmd (inv : HeldInvariant P) (h : P s) (p : PendCmd) : P (finishCmd p s) := by
  unfold Machine.finishCmd
  split
  · exact inv.finishInstr h p _
  · exact inv.congr h

theorem submitAny (inv : HeldInvariant P) (h : P s) (c : Submitted) : P (s.submitAny c) :=
  iteInduction (fun _ => inv.congr h) fun _ => inv.finishCmd h _

/-- A command submitted from a state that differs only in registers of its own. -/
theorem submit (inv : HeldInvariant P) {u : State} (h : P s) (i : Instr) (e : u.held = s.held := by rfl) : P (u.submit i) :=
  inv.submitAny (inv.congr h e) (.instr i)

theorem undefinedVirtual (inv : HeldInvariant P) (h : P s) (cmd : BitVec 8) (oa : BitVec 48) : P (s.undefinedVirtual cmd oa) :=
  iteInduction (fun _ => inv.submitAny (inv.congr h) .reservedVirtual) fun _ => h

/-! ## Instructions -/

theorem execInvWaitDsc (inv : HeldInvariant P) (h : P s) (iflag sw fn pd : Bool) (data : BitVec 32) (saddr : BitVec 62) :
    nextSatisfies P (execInvWaitDsc iflag sw fn pd data saddr s) :=
  iteInduction (fun _ => nextSatisfies_refused P _) fun _ => nextSatisfies_next (inv.runDsc_pend h 5 _ rfl)

theorem execInvalidationCompletion (inv : HeldInvariant P) (h : P s) (sid : SourceId) (vec : BitVec 32) (cc : BitVec 3) :
    nextSatisfies P (execInvalidationCompletion sid vec cc s) := by
  have hdrained : P (s.drainStoresOf sid) := inv.congr h (s.drainWhere_held _)
  exact nextSatisfies_next (iteInduction (fun _ => inv.congr h) fun _ =>
    iteInduction (fun _ => inv.advance (inv.countCompletion hdrained vec cc)) fun _ =>
      inv.congr hdrained (State.setIce_held _ sid))

theorem exec (inv : HeldInvariant P) (h : P s) (i : Instr) : nextSatisfies P (exec i s) := by
  have hkept : ∀ {t : State}, t.held = s.held → nextSatisfies P (.next t) := fun e => nextSatisfies_next (inv.congr h e)
  have hsubmit : ∀ {u : State}, u.held = s.held → ∀ i, nextSatisfies P (.next (u.submit i)) := fun e i =>
    nextSatisfies_next (inv.submit h i e)
  have hsupported : ∀ {u : State} (b : Bool) i, u.held = s.held → nextSatisfies P (.next (if b then u.submit i else s)) :=
    fun _ i e => nextSatisfies_next (iteInduction (fun _ => inv.submit h i e) fun _ => h)
  have hepm : ∀ v i, nextSatisfies P (.next (if hasPmr s.caps then s.writeEpm v i else s)) := fun v i =>
    nextSatisfies_next (iteInduction (fun _ => iteInduction (fun _ => inv.congr h) fun _ => inv.submit h i)
      fun _ => h)
  have hecmd : ∀ i c oa, nextSatisfies P (.next (s.submitEcmd i c oa)) := fun i _ _ =>
    nextSatisfies_next (iteInduction (fun _ => h) fun _ => inv.submit h i)
  have hvcmd : ∀ i c oa, nextSatisfies P (.next (s.submitVcmd i c oa)) := fun i _ _ =>
    nextSatisfies_next (iteInduction (fun _ => inv.submit h i) fun _ => h)
  cases i with
  | ccInvDsc => exact nextSatisfies_next (inv.runDsc_held h 1 _ fun u => u.implicitFlush_held)
  | iotlbInvDsc =>
    exact nextSatisfies_next (inv.runDsc_held h 2 _ fun u => (State.drainWhere_held _ _).trans u.implicitFlush_held)
  | devTlbInvDsc => exact nextSatisfies_next (inv.runDsc_pend h 3 _ rfl)
  | iecInvDsc =>
    exact nextSatisfies_next (inv.runDsc_held h 4 _ fun u => (State.acceptWhere_held _ _).trans u.implicitFlush_held)
  | invWaitDsc => exact inv.execInvWaitDsc h _ _ _ _ _ _
  | pIotlbInvDsc =>
    exact nextSatisfies_next (inv.runDsc_held h 6 _ fun u =>
      (State.drainWhere_held _ _).trans ((State.invalidatePGrade_held _ _ _ _ _ _ _).trans u.implicitFlush_held))
  | pcInvDsc => exact nextSatisfies_next (inv.runDsc_held h 7 _ fun u => u.implicitFlush_held)
  | pDevTlbInvDsc => exact nextSatisfies_next (inv.runDsc_pend h 8 _ rfl)
  | pageGrpRespDsc => exact nextSatisfies_next (inv.runDsc_pend h 9 _ rfl)
  | pageReqDsc m => exact hkept (s.writePrq_held m)
  | gcmdTeEnable => exact hsubmit (by rfl) _
  | gcmdTeDisable => exact hsubmit (by rfl) _
  | gcmdSrtp => exact iteInduction (fun _ => nextSatisfies_refused P _) fun _ => hsubmit (by rfl) _
  | gcmdWbf => exact hsupported _ _ (by rfl)
  | gcmdQieEnable => exact hsupported _ _ (by rfl)
  | gcmdQieDisable => exact hsupported _ _ (by rfl)
  | gcmdIreEnable => exact hsupported _ _ (by rfl)
  | gcmdIreDisable => exact hsupported _ _ (by rfl)
  | gcmdSirtp => exact hsupported _ _ (by rfl)
  | gcmdCfiSet => exact hsupported _ _ (by rfl)
  | gcmdCfiClear => exact hsupported _ _ (by rfl)
  | ccmdIcc => exact hsubmit (by rfl) _
  | iotlbIvt => exact hsubmit (by rfl) _
  | pmenEpmEnable => exact hepm _ _
  | pmenEpmDisable => exact hepm _ _
  | ecmdEnable => exact hecmd _ _ _
  | ecmdDisable => exact hecmd _ _ _
  | ecmdResetConfig => exact hecmd _ _ _
  | ecmdResetValues => exact hecmd _ _ _
  | ecmdFreeze => exact hecmd _ _ _
  | ecmdUnfreeze => exact hecmd _ _ _
  | ecmdReserved => exact hecmd _ _ _
  | vcmdNull => exact hvcmd _ _ _
  | vcmdAllocate => exact hvcmd _ _ _
  | vcmdFree => exact hvcmd _ _ _
  | untranslatedRequest r => exact hkept ((State.handleUntranslated_held _ r).trans (s.countRequest_held _ _ _))
  | translationRequest r => exact hkept ((State.handleTranslation_held _ r).trans (s.countRequest_held _ _ _))
  | translatedRequest r => exact hkept ((State.handleTranslated_held _ r).trans (s.countRequest_held _ _ _))
  | interruptRequest sid addr data =>
    exact hkept ((State.handleInterrupt_held _ sid addr data).trans (s.countRequest_held _ _ _))
  | pageRequest m => exact hkept (s.handlePage_held m)
  | invalidationCompletion sid vec cc => exact inv.execInvalidationCompletion h sid vec cc

/-! ## Steps -/

theorem stepInvariant (inv : HeldInvariant P) : StepInvariant P where
  event h _ _ := inv.congr h
  exec := inv.exec
  undefinedVirtual := inv.undefinedVirtual
  writePlain {s} h off v := inv.congr h (s.writePlain_held off v)
  regRead h _ _ := inv.congr h
  softStore {s} h a bs := inv.congr h (s.softStore_held a bs)
  drainStore {s} h := inv.congr h s.drainStore_held
  advance := inv.advance
  noteFetch {s} h := inv.congr h s.noteFetch_held
  raiseIqe {s} h i := inv.congr h (s.raiseIqe_held i)
  devTlbTimeout := inv.devTlbTimeout
  countRequest {s} h _ _ _ := inv.congr h (s.countRequest_held _ _ _)
  respond h _ _ := inv.congr h
  complete h p _ _ := inv.finishCmd (inv.congr h) p
  commitNth {s} h n := inv.congr h (s.commitNth_held n)
  acceptNth {s} h n := inv.congr h (s.acceptNth_held n)
  readCompletion {s} h _ := inv.congr h (s.acceptWhere_held _)
  evict {s} h c n := inv.congr h (s.evict_held c n)
  releaseAll {s} h := inv.congr h s.releaseAll_held
  perfPulse {s} h g e n := inv.congr h (s.perfPulse_held g e n)
  resetUnit := inv.resetUnit

end HeldInvariant

end Sys2Proof.Machine
end

section
/-! O8: ITags are allocated exactly to the Device-TLB invalidations sent (40 R935), and no PASID is handed out twice (41 R995, R996). -/

namespace Sys2Proof.Machine

/-! ## ITags -/

theorem State.tagForm_of_held {s t : State} (h : s.tagForm) (e : t.held = s.held) : t.tagForm := by
  have hpend : t.iqPend = s.iqPend := congrArg Held.pending e
  have htags : t.itags = s.itags := congrArg Held.itags e
  have hnum : t.plat.numItag = s.plat.numItag := congrArg Held.numItag e
  simpa only [State.tagForm, hpend, htags, hnum] using h

/-- Which other descriptors are pending, and in what order, does not matter. -/
theorem State.tagForm_pending {s : State} (h : s.tagForm) {l : List Pending}
    (same : ∀ k, Pending.sent k ∈ l ↔ Pending.sent k ∈ s.iqPend) : ({ s with iqPend := l } : State).tagForm := by
  obtain ⟨hnodup, hlt, halloc⟩ := h
  exact ⟨hnodup, hlt, fun k => (same k).trans (halloc k)⟩

/-- ITags are freed or counted on: those that remain are still distinct, and the descriptors of the others leave with them. -/
theorem State.tagForm_release {s : State} (h : s.tagForm) {l : List ITag} {p : List Pending}
    (sub : (l.map ITag.tag).Sublist (s.itags.map ITag.tag))
    (left : ∀ k, Pending.sent k ∈ p ↔ Pending.sent k ∈ s.iqPend ∧ ∃ x ∈ l, x.tag = k) :
    ({ s with itags := l, iqPend := p } : State).tagForm := by
  obtain ⟨hnodup, hlt, halloc⟩ := h
  have hold : ∀ x ∈ l, ∃ y ∈ s.itags, y.tag = x.tag := fun x hx =>
    List.mem_map.1 (sub.subset (List.mem_map_of_mem hx))
  refine ⟨hnodup.sublist sub, fun x hx => ?_, fun k => (left k).trans (and_iff_right_of_imp ?_)⟩
  · obtain ⟨y, hy, e⟩ := hold x hx
    exact e ▸ hlt y hy
  · rintro ⟨x, hx, rfl⟩
    exact (halloc x.tag).2 (hold x hx)

/-- A free ITag is allocated to an invalidation that is sent under it. -/
theorem State.tagForm_send {s : State} {a b : List Pending} {m : InvReq} {k : Nat}
    (h : ({ s with iqPend := a ++ .unsent m :: b } : State).tagForm) (free : s.freeTag = some k) :
    ({ s with itags := s.itags ++ [ITag.mk k m.sid 0], iqPend := a ++ .sent k :: b } : State).tagForm := by
  obtain ⟨hnodup, hlt, halloc⟩ := h
  obtain ⟨hnum, h32, hnew⟩ := (s.mem_freeTags k).1 (Choice.among_mem _ _ _ free)
  refine ⟨?_, ?_, fun j => ?_⟩
  · simp only [List.map_append, List.map_cons, List.map_nil]
    refine List.nodup_append.2 ⟨hnodup, List.nodup_singleton k, fun i hi j hj => ?_⟩
    obtain ⟨x, hx, rfl⟩ := List.mem_map.1 hi
    cases List.mem_singleton.1 hj
    exact hnew x hx
  · intro x hx
    rcases List.mem_append.1 hx with hold | hk
    · exact hlt x hold
    · cases List.mem_singleton.1 hk
      exact lt_min hnum h32
  · have hj := halloc j
    simp only [List.mem_append, List.mem_cons, reduceCtorEq, false_or, Pending.sent.injEq] at hj ⊢
    calc (.sent j ∈ a ∨ j = k ∨ .sent j ∈ b)
      _ ↔ (.sent j ∈ a ∨ .sent j ∈ b) ∨ j = k := by tauto
      _ ↔ (∃ x ∈ s.itags, x.tag = j) ∨ j = k := by rw [hj]
      _ ↔ ∃ x, (x ∈ s.itags ∨ x = ITag.mk k m.sid 0 ∨ x ∈ []) ∧ x.tag = j := by
        simp [or_and_right, exists_or, eq_comm (a := j)]

/-- The pass over the pending descriptors: a wait or a response that goes leaves the ITags alone, and one more invalidation sent is
one more ITag. -/
theorem advancePend_tagForm {s : State} (kept l : List Pending) (h : ({ s with iqPend := kept ++ l } : State).tagForm) :
    ({ (advancePend s kept l).1 with iqPend := (advancePend s kept l).2 } : State).tagForm := by
  induction l generalizing s kept with
  | nil => simpa [advancePend] using h
  | cons p rest ih =>
    have hstay : ({ s with iqPend := (kept ++ [p]) ++ rest } : State).tagForm := by simpa using h
    have hgo : p.isSent = false → ({ s with iqPend := kept ++ rest } : State).tagForm := fun hp =>
      State.tagForm_pending h fun k => by cases p <;> simp_all [Pending.isSent]
    cases p with
    | wait iflag sw fn pd data saddr =>
      unfold advancePend
      split
      · have hdone := s.completeWait_held iflag sw data saddr
        exact ih _ (State.tagForm_of_held (hgo rfl) (congrArg (fun x => { x with pending := kept ++ rest }) hdone))
      · exact ih _ hstay
    | sent k => exact ih _ hstay
    | unsent m =>
      unfold advancePend
      split
      · exact ih _ hstay
      next k hk =>
        have hfree : s.freeTag = some k := by
          split at hk
          · cases hk
          · exact hk
        have hsent := State.tagForm_send h hfree
        rw [List.append_cons] at hsent
        exact ih _ hsent
    | resp m =>
      unfold advancePend
      split
      · exact ih _ hstay
      · exact ih _ (hgo rfl)

theorem State.advance_tagForm {s : State} (h : s.tagForm) : s.advance.tagForm := advancePend_tagForm [] s.iqPend h

/-- A time-out: the ITag and its descriptor leave; of the others only descriptors that are not sent can be dropped. -/
theorem State.devTlbTimeout_tagForm {s : State} (h : s.tagForm) (k : Nat) : (s.devTlbTimeout k).tagForm := by
  have hfreed : ({ s with
      itags := s.itags.filter (fun y => y.tag != k)
      iqPend := s.iqPend.filter (fun p => p != Pending.sent k) } : State).tagForm := by
    refine State.tagForm_release h (List.filter_sublist.map ITag.tag) fun j => ?_
    obtain ⟨-, -, halloc⟩ := h
    simp only [List.mem_filter, bne_iff_ne, ne_eq, Pending.sent.injEq]
    constructor
    · rintro ⟨hj, hne⟩
      obtain ⟨x, hx, rfl⟩ := (halloc j).1 hj
      exact ⟨hj, x, ⟨hx, hne⟩, rfl⟩
    · rintro ⟨hj, x, ⟨-, hne⟩, rfl⟩
      exact ⟨hj, hne⟩
  unfold State.devTlbTimeout
  split
  · exact h
  next x hx =>
    refine State.advance_tagForm (State.tagForm_of_held (s := { s with
      itags := s.itags.filter (fun y => y.tag != k)
      iqPend := (s.iqPend.filter (fun p => p != Pending.sent k)).filter (fun p => !p.isWait && (p.isSent || s.choice.keep)) })
      ?_ (State.raiseEvent_held _ _ _))
    exact State.tagForm_pending hfreed fun j => by simp [Pending.isWait, Pending.isSent]

/-- Of elements told apart by `f`, the one with a value is among those that `q` selects or among the others. -/
theorem exists_filter_not_iff {α β : Type} {f : α → β} {l : List α} (nodup : (l.map f).Nodup) {q : α → Bool} {b : β}
    (some : ∃ x ∈ l, f x = b) : (∃ x ∈ l.filter (fun x => !q x), f x = b) ↔ ¬ ∃ x ∈ l.filter q, f x = b := by
  obtain ⟨x, hx, rfl⟩ := some
  have honly : ∀ y ∈ l, f y = f x → y = x := fun y hy e => List.inj_on_of_nodup_map nodup hy hx e
  simp only [List.mem_filter, Bool.not_eq_true']
  constructor
  · rintro ⟨y, ⟨hy, hq⟩, e⟩ ⟨z, ⟨hz, hq'⟩, e'⟩
    cases honly y hy e
    cases honly z hz e'
    exact absurd hq' (by simp [hq])
  · intro hnone
    refine ⟨x, ⟨hx, ?_⟩, rfl⟩
    by_contra hq
    exact hnone ⟨x, ⟨hx, by simpa using hq⟩, rfl⟩

/-- The ITags that reach their count leave with their descriptors (43 R1085). -/
theorem State.countCompletion_tagForm {s : State} (h : s.tagForm) (vec : BitVec 32) (cc : BitVec 3) :
    (s.countCompletion vec cc).tagForm := by
  have hmoved : (s.itags.map (fun x => if bitAt vec x.tag then { x with cnt := x.cnt + 1 } else x)).map ITag.tag =
      s.itags.map ITag.tag := by
    simp [Function.comp_def, apply_ite ITag.tag]
  unfold State.countCompletion
  generalize s.itags.map (fun x => if bitAt vec x.tag then { x with cnt := x.cnt + 1 } else x) = moved at hmoved
  refine State.tagForm_release h (hmoved ▸ List.filter_sublist.map ITag.tag) fun k => ?_
  obtain ⟨hnodup, -, halloc⟩ := h
  rw [List.mem_filter]
  refine and_congr_right fun hk => ?_
  have hsome : ∃ x ∈ moved, x.tag = k := List.mem_map.1 (hmoved ▸ List.mem_map.2 ((halloc k).1 hk))
  rw [exists_filter_not_iff (hmoved ▸ hnodup) hsome]
  simp [eq_comm (a := k)]

theorem tagForm_heldInvariant : HeldInvariant State.tagForm where
  congr := State.tagForm_of_held
  append h _ unsent := State.tagForm_pending h fun k => by
    simp only [List.mem_append, List.mem_singleton, or_iff_left_iff_imp]
    rintro rfl
    cases unsent
  advance := State.advance_tagForm
  devTlbTimeout := State.devTlbTimeout_tagForm
  countCompletion := State.countCompletion_tagForm
  finishQieDisable _ := ⟨List.nodup_nil, by simp [State.finishQieDisable], by simp [State.finishQieDisable]⟩
  finishVcmdAllocate {s} h := by
    unfold State.finishVcmdAllocate
    split
    · exact h
    · split <;> exact h
  finishVcmdFree h _ := iteInduction (fun _ => h) fun _ => iteInduction (fun _ => h) fun _ => h
  resetUnit _ _ := ⟨List.nodup_nil, by simp [State.resetUnit, State.reset], by simp [State.resetUnit, State.reset]⟩

/-! ## PASIDs -/

/-- An operation of a device leaves the virtual command interface alone. -/
theorem DeviceEffect.pasidForm {s t : State} (d : DeviceEffect s t) (h : s.pasidForm) : t.pasidForm := by
  rw [d.frame]
  exact h

theorem takeAt_some_perm {α : Type} {l r : List α} {n : Nat} {x : α} (h : takeAt l n = some (x, r)) : l.Perm (x :: r) := by
  induction l generalizing n r with
  | nil => cases h
  | cons y t ih =>
    cases n with
    | zero =>
      cases h
      exact .refl _
    | succ n =>
      simp only [takeAt] at h
      split at h
      · cases h
      next z t' ht =>
        cases h
        exact ((ih ht).cons y).trans (.swap _ _ _)

/-- A free PASID is handed out (41 R995). -/
theorem State.finishVcmdAllocate_pasidForm {s : State} (h : s.pasidForm) : s.finishVcmdAllocate.pasidForm := by
  unfold State.finishVcmdAllocate
  split
  · exact h
  split
  · exact h
  next p rest htake =>
    have hperm : (s.vcmd.free ++ s.vcmd.allocated).Perm (rest ++ p :: s.vcmd.allocated) :=
      ((takeAt_some_perm htake).append_right _).trans List.perm_middle.symm
    exact hperm.nodup_iff.1 h

/-- A PASID that is handed out becomes free again (41 R996). -/
theorem State.finishVcmdFree_pasidForm {s : State} (h : s.pasidForm) (oa : BitVec 48) : (s.finishVcmdFree oa).pasidForm := by
  unfold State.finishVcmdFree
  dsimp only
  split
  · exact h
  split
  · exact h
  next hout =>
    have hmem : field oa 0 20 ∈ s.vcmd.allocated := by simpa using hout
    have hperm : (s.vcmd.free ++ s.vcmd.allocated).Perm (field oa 0 20 :: s.vcmd.free ++ s.vcmd.allocated.erase (field oa 0 20)) :=
      ((List.perm_cons_erase hmem).append_left _).trans List.perm_middle
    exact hperm.nodup_iff.1 h

theorem pasidForm_heldInvariant : HeldInvariant State.pasidForm where
  congr {s t} h e := by
    have hfree : t.vcmd.free = s.vcmd.free := congrArg Held.free e
    have halloc : t.vcmd.allocated = s.vcmd.allocated := congrArg Held.allocated e
    simpa only [State.pasidForm, hfree, halloc] using h
  append h _ _ := h
  advance {s} h := s.advance_deviceEffect.pasidForm h
  devTlbTimeout {s} h k := by
    unfold State.devTlbTimeout
    split
    · exact h
    · exact ((State.raiseEvent_deviceEffect _ _ _).trans (State.advance_deviceEffect _)).pasidForm (by exact h)
  countCompletion h _ _ := h
  finishQieDisable h := h
  finishVcmdAllocate := State.finishVcmdAllocate_pasidForm
  finishVcmdFree := State.finishVcmdFree_pasidForm
  resetUnit {s} h p := by
    have hall : ((s.vcmd.allocated ++ s.vcmd.free) ++ []).Nodup := by
      rw [List.append_nil]
      exact List.perm_append_comm.nodup_iff.1 h
    exact hall

/-- Settles O8: both are properties of what is handed out, and survive each operation that hands out or takes back. -/
theorem stepKeepsAllocations : Obligations.StepKeepsAllocations :=
  ⟨fun _ t h hstep => tagForm_heldInvariant.stepInvariant.step h t hstep,
    fun _ t h hstep => pasidForm_heldInvariant.stepInvariant.step h t hstep⟩

end Sys2Proof.Machine
end

section
/-! O13 to O16: the invalidations of the caches (40 R920 to R928; 23 R845 to R849). A descriptor that passes its checks runs behind
the implicit flush; the granularity it runs at may be coarser than the one requested (23 R802), and a coarser scope takes every
entry that the requested one takes. -/

namespace Sys2Proof.Machine

/-! ## The checks and the flush of a descriptor -/

/-- The type checks of 40 R906, read as conditions. -/
theorem dscTypeValid_iff {s : State} {ty : Nat} :
    dscTypeValid s ty = true ↔ (6 ≤ ty → s.latchedRt.ttm ≠ 0) ∧ (ty = 3 ∨ ty = 8 → s.caps.dt = true) := by
  simp [dscTypeValid, imp_iff_or_not]

/-- A descriptor that passes its checks and flushes first: its effect is on the state with the head moved and the write buffer
flushed. -/
theorem State.runDsc_flushed (s : State) {ty : Nat} {r : Bool} (act : State → State)
    (valid : dscTypeValid s ty = true) (fine : r = false) :
    ∃ m b, s.runDsc ty r (fun u => act u.implicitFlush) = act { s with iq := s.movedHead, mem := m, wbuf := b } ∧
      ∀ t : State, t.mem = m → t.wbuf = b → flushed s t := by
  obtain ⟨m, b, hflush, hflushed⟩ := s.implicitFlush_eq s.movedHead
  refine ⟨m, b, ?_, hflushed⟩
  rw [s.runDsc_valid ty r _ valid fine]
  exact congrArg act hflush

/-! ## Scopes -/

/-- What is left after a scope is removed lies outside every smaller scope. -/
theorem mem_filter_not_of_imp {α : Type} {p q : α → Bool} {l : List α} {e : α} (h : e ∈ l.filter (fun e => !p e))
    (imp : ∀ e, q e = true → p e = true) : e ∈ l ∧ q e = false := by
  obtain ⟨hmem, hp⟩ := List.mem_filter.1 h
  refine ⟨hmem, Bool.eq_false_iff.2 fun hq => ?_⟩
  rw [imp e hq] at hp
  exact absurd hp Bool.false_ne_true

theorem State.granularity_le (s : State) {g : Nat} (hg : 1 ≤ g) : s.granularity g ≤ g := max_le hg (Nat.sub_le _ _)

theorem State.granularity_exact {s : State} (h : s.choice.coarser = 0) {g : Nat} (hg : 1 ≤ g) : s.granularity g = g := by
  rw [State.granularity, h, Nat.sub_zero, max_eq_right hg]

/-- A granularity of two bits that is not 0 is a granularity. -/
theorem one_le_toNat {g : BitVec 2} (h : g ≠ 0) : 1 ≤ g.toNat :=
  Nat.one_le_iff_ne_zero.2 fun e => h (BitVec.eq_of_toNat_eq e)

theorem toNat_le_three (g : BitVec 2) : g.toNat ≤ 3 := Nat.le_of_lt_succ g.isLt

/-- Of two granularities up to 3, the first is global (0 or 1), or the second is the same, or they are domain and device or page. -/
theorem granularity_cases {k g : Nat} (hk : k ≤ g) (hg : g ≤ 3) : k ≤ 1 ∨ k = g ∨ (k = 2 ∧ g = 3) := by omega

theorem ctxMatches_of_le {k g : Nat} (hk : k ≤ g) (hg : g ≤ 3) {scal : Bool} {did : DomainId} {sid : SourceId}
    {fm : BitVec 2} {e : CtxEntry} (h : ctxMatches scal g did sid fm e = true) : ctxMatches scal k did sid fm e = true := by
  rcases granularity_cases hk hg with hglobal | rfl | ⟨rfl, rfl⟩
  · interval_cases k <;> rfl
  · exact h
  · exact (Bool.and_eq_true_iff.1 h).1

theorem iotlbMatches_of_le {k g : Nat} (hk : k ≤ g) (hg : g ≤ 3) {w a am : Nat} {did : DomainId} {e : IotlbEntry}
    (h : iotlbMatches w g did a am e = true) : iotlbMatches w k did a am e = true := by
  rcases granularity_cases hk hg with hglobal | rfl | ⟨rfl, rfl⟩
  · interval_cases k <;> rfl
  · exact h
  · exact (Bool.and_eq_true_iff.1 h).1

theorem pscMatches_of_le {k g : Nat} (hk : k ≤ g) (hg : g ≤ 3) {w a am : Nat} {did : DomainId} {ih : Bool} {e : PscEntry}
    (h : pscMatches w g did a am ih e = true) : pscMatches w k did a am ih e = true := by
  rcases granularity_cases hk hg with hglobal | rfl | ⟨rfl, rfl⟩
  · interval_cases k <;> rfl
  · exact h
  · exact (Bool.and_eq_true_iff.1 h).1

/-! ## Context-cache and PASID-cache (40 R920, R921) -/

/-- A PASID-cache entry in the scope that a pc_inv_dsc names: everything (3), the domain (0), the PASID in the domain (1). -/
theorem pasidMatches_pcGrade_iff {g : BitVec 2} (hg : g ≠ 2) {did : DomainId} {pasid : Pasid} {e : PasidEntry} :
    pasidMatches (pcGrade g) did pasid e = true ↔ g = 3 ∨ (e.did = did ∧ (g = 1 → e.pasid = pasid)) := by
  have hcases : g = 0 ∨ g = 1 ∨ g = 3 := by
    have := toNat_le_three g
    bv_omega
  rcases hcases with rfl | rfl | rfl <;> simp [pasidMatches, pcGrade]

theorem pcGrade_le_two (g : BitVec 2) : pcGrade g ≤ 2 := by
  unfold pcGrade
  split <;> omega

theorem pasidMatches_of_le {k g : Nat} (hk : k ≤ g) (hg : g ≤ 2) {did : DomainId} {pasid : Pasid} {e : PasidEntry}
    (h : pasidMatches g did pasid e = true) : pasidMatches k did pasid e = true := by
  have hcases : k = 0 ∨ k = g ∨ (k = 1 ∧ g = 2) := by omega
  rcases hcases with rfl | rfl | ⟨rfl, rfl⟩
  · rfl
  · exact h
  · exact (Bool.and_eq_true_iff.1 h).1

theorem exec_ccInvDsc (s : State) {g : BitVec 2} (hg : g ≠ 0) (did : DomainId) (sid : SourceId) (fm : BitVec 2) :
    ∃ m b, exec (.ccInvDsc g did sid fm) s = .next { s with
        iq := s.movedHead, mem := m, wbuf := b
        caches := { s.caches with ctx := s.caches.ctx.filter (fun e =>
          !ctxMatches s.scalable (s.granularity g.toNat) (s.caps.maskDid did) sid fm e) } } ∧
      ∀ t : State, t.mem = m → t.wbuf = b → flushed s t := by
  obtain ⟨m, b, hrun, hflushed⟩ := s.runDsc_flushed (r := g == 0)
    (fun u => u.invalidateCtx (s.granularity g.toNat) did sid fm) (dscTypeValid_iff (ty := 1).2 (by simp)) (by simpa using hg)
  exact ⟨m, b, congrArg Host.Outcome.next hrun, hflushed⟩

theorem exec_pcInvDsc (s : State) {g : BitVec 2} (mode : s.latchedRt.ttm ≠ 0) (hg : g ≠ 2) (did : DomainId) (pasid : Pasid) :
    ∃ m b, exec (.pcInvDsc g did pasid) s = .next { s with
        iq := s.movedHead, mem := m, wbuf := b
        caches := { s.caches with pasid := s.caches.pasid.filter (fun e =>
          !pasidMatches (pcGrade g - s.choice.coarser) (s.caps.maskDid did) pasid e) } } ∧
      ∀ t : State, t.mem = m → t.wbuf = b → flushed s t := by
  obtain ⟨m, b, hrun, hflushed⟩ := s.runDsc_flushed (r := g == 2)
    (fun u => u.invalidatePasid (pcGrade g - s.choice.coarser) did pasid) (dscTypeValid_iff (ty := 7).2 (by simpa using mode))
    (by simpa using hg)
  exact ⟨m, b, congrArg Host.Outcome.next hrun, hflushed⟩

/-- Settles O13: what is left lies outside the scope named, the scope carried out being that one or a coarser one. -/
theorem contextAndPasidCacheInvalidate : Obligations.ContextAndPasidCacheInvalidate := by
  constructor
  · intro s g did sid fm hg
    obtain ⟨m, b, hexec, hflushed⟩ := exec_ccInvDsc s hg did sid fm
    refine ⟨_, hexec, rfl, fun e he => ?_, fun hexact => ?_, hflushed _ rfl rfl⟩
    · exact mem_filter_not_of_imp he fun _ => ctxMatches_of_le (s.granularity_le (one_le_toNat hg)) (toNat_le_three g)
    · rw [State.granularity_exact hexact (one_le_toNat hg)]
  · intro s g did pasid mode hg
    obtain ⟨m, b, hexec, hflushed⟩ := exec_pcInvDsc s mode hg did pasid
    refine ⟨_, hexec, rfl, fun e he => ?_, fun hexact e he hall hout => ?_, hflushed _ rfl rfl⟩
    · obtain ⟨hmem, hout⟩ := mem_filter_not_of_imp he
        fun _ => pasidMatches_of_le (did := s.caps.maskDid did) (pasid := pasid) (Nat.sub_le _ _) (pcGrade_le_two g)
      exact ⟨hmem, not_or.1 fun hin => Bool.eq_false_iff.1 hout ((pasidMatches_pcGrade_iff hg).2 hin)⟩
    · refine List.mem_filter.2 ⟨he, ?_⟩
      rw [hexact, Nat.sub_zero, Bool.not_eq_true', Bool.eq_false_iff, Ne, pasidMatches_pcGrade_iff hg]
      exact not_or.2 ⟨hall, hout⟩

/-! ## IOTLB and paging-structure caches (40 R922, R924) -/

/-- The granularity that an address mask allows, as a condition on the mask (40 R907). -/
theorem maskGrade_eq (s : State) (g : BitVec 2) (am : BitVec 6) :
    maskGrade s g am = if g = 3 ∧ s.caps.mamv < am.toNat then 2 else g.toNat := by
  simp [maskGrade]

theorem maskGrade_bounds (s : State) {g : BitVec 2} (hg : g ≠ 0) (am : BitVec 6) :
    1 ≤ maskGrade s g am ∧ maskGrade s g am ≤ 3 := by
  have hlow := one_le_toNat hg
  have hhigh := toNat_le_three g
  unfold maskGrade
  split <;> omega

/-- A drain by kind takes to their destinations the requests that `drains` selects. -/
theorem State.drainKinds_observed (s : State) (reads writes : Bool) :
    observedAll (s.inFlight.filter (drains reads writes))
      { s with inFlight := s.inFlight.filter (fun f => !drains reads writes f) } (s.drainKinds reads writes) :=
  s.drainWhere_observed (drains reads writes)

/-- Settles O14: the scope named, or a coarser one, is removed, then the requests of the kinds asked for are drained. -/
theorem iotlbInvalidate : Obligations.IotlbInvalidate := by
  intro s g dw dr did am ih addr reads writes hg hpage hreads hwrites
  obtain ⟨hlow, hhigh⟩ := maskGrade_bounds s hg am
  have hfine : iotlbReserved s g = false := by
    have hg' : ¬ g = 0#2 := hg
    simpa [iotlbReserved, hg'] using hpage
  obtain ⟨m, b, hrun, hflushed⟩ := s.runDsc_flushed
    (fun u => (u.invalidateIotlb (s.granularity (maskGrade s g am)) did addr am.toNat ih).drainKinds reads writes)
    (dscTypeValid_iff (ty := 2).2 (by simp)) hfine
  have hdrained := State.drainKinds_observed (State.invalidateIotlb { s with iq := s.movedHead, mem := m, wbuf := b }
    (s.granularity (maskGrade s g am)) did addr am.toNat ih) reads writes
  subst hreads hwrites
  rw [← maskGrade_eq s g am]
  refine ⟨_, _, congrArg Host.Outcome.next hrun, rfl, hflushed _ rfl rfl, fun e he => ?_, fun e he => ?_, hdrained⟩
  · exact mem_filter_not_of_imp he fun _ => iotlbMatches_of_le (s.granularity_le hlow) hhigh
  · exact mem_filter_not_of_imp he fun _ => pscMatches_of_le (s.granularity_le hlow) hhigh

/-- Of the scopes of a PASID the page (3) is the smaller. -/
theorem pIotlbMatches_of_le {k g : Nat} (hk : k ≤ g) (hlow : 2 ≤ k) (hg : g ≤ 3) {did : DomainId} {pasid : Pasid} {a am : Nat}
    {e : IotlbEntry} (h : pIotlbMatches g did pasid a am e = true) : pIotlbMatches k did pasid a am e = true := by
  have hcases : k = g ∨ (k = 2 ∧ g = 3) := by omega
  rcases hcases with rfl | ⟨rfl, rfl⟩
  · exact h
  · exact Bool.and_eq_true_iff.2 ⟨(Bool.and_eq_true_iff.1 h).1, rfl⟩

theorem pPscMatches_of_le {k g : Nat} (hk : k ≤ g) (hlow : 2 ≤ k) (hg : g ≤ 3) {did : DomainId} {pasid : Pasid} {a am : Nat}
    {ih : Bool} {e : PscEntry} (h : pPscMatches g did pasid a am ih e = true) :
    pPscMatches k did pasid a am ih e = true := by
  have hcases : k = g ∨ (k = 2 ∧ g = 3) := by omega
  rcases hcases with rfl | ⟨rfl, rfl⟩
  · exact h
  · exact Bool.and_eq_true_iff.2 ⟨(Bool.and_eq_true_iff.1 h).1, rfl⟩

/-- An entry in a scope of a PASID is in every scope of its domain. -/
theorem iotlbMatches_of_pIotlbMatches {w g : Nat} {did : DomainId} {pasid : Pasid} {a am : Nat} {e : IotlbEntry}
    (h : pIotlbMatches g did pasid a am e = true) : iotlbMatches w 2 did a am e = true := by
  simp only [pIotlbMatches, Bool.and_eq_true] at h
  obtain ⟨⟨hdid, -⟩, -⟩ := h
  exact hdid

theorem pscMatches_of_pPscMatches {w g : Nat} {did : DomainId} {pasid : Pasid} {a am : Nat} {ih : Bool} {e : PscEntry}
    (h : pPscMatches g did pasid a am ih e = true) : pscMatches w 2 did a am ih e = true := by
  simp only [pPscMatches, Bool.and_eq_true] at h
  obtain ⟨⟨⟨-, hdid⟩, -⟩, -⟩ := h
  exact hdid

/-- An invalidation of a PASID scope at the grade `g` or coarser, down to the domain and to everything, leaves no entry of the
scope. -/
theorem State.invalidatePGrade_removes (s : State) {k g : Nat} (hk : k ≤ g) (hg : g ≤ 3) (did : DomainId) (pasid : Pasid)
    (addr : BitVec 52) (am : Nat) (ih : Bool) :
    ∃ l p, s.invalidatePGrade k did pasid addr am ih = { s with caches := { s.caches with iotlb := l, psc := p } } ∧
      (∀ e ∈ l, e ∈ s.caches.iotlb ∧ pIotlbMatches g (s.caps.maskDid did) pasid (pageAddr addr).toNat am e = false) ∧
      ∀ e ∈ p, e ∈ s.caches.psc ∧ pPscMatches g (s.caps.maskDid did) pasid (pageAddr addr).toNat am ih e = false := by
  unfold State.invalidatePGrade
  split
  next hpasid =>
    exact ⟨_, _, rfl, fun e he => mem_filter_not_of_imp he fun _ => pIotlbMatches_of_le hk hpasid hg,
      fun e he => mem_filter_not_of_imp he fun _ => pPscMatches_of_le hk hpasid hg⟩
  split
  · exact ⟨_, _, rfl, fun e he => mem_filter_not_of_imp he fun _ => iotlbMatches_of_pIotlbMatches,
      fun e he => mem_filter_not_of_imp he fun _ => pscMatches_of_pPscMatches⟩
  · exact ⟨_, _, rfl, fun e he => mem_filter_not_of_imp he fun _ _ => rfl,
      fun e he => mem_filter_not_of_imp he fun _ _ => rfl⟩

/-- A drain of reads and writes takes every request. -/
theorem State.drainKinds_both_observed (s : State) :
    observedAll s.inFlight { s with inFlight := [] } (s.drainKinds true true) := by
  have hevery : drains true true = fun _ => true := by
    funext f
    unfold drains
    split <;> rfl
  simpa [hevery] using s.drainKinds_observed true true

/-- Settles O15: the scope named, or a coarser one, is removed, then every request in flight is drained. -/
theorem pasidIotlbInvalidate : Obligations.PasidIotlbInvalidate := by
  intro s g did pasid am ih addr mode hg
  have hg0 : g ≠ 0 := by rcases hg with rfl | rfl <;> decide
  have hfine : decide (g.toNat < 2) = false := by rcases hg with rfl | rfl <;> rfl
  obtain ⟨-, hhigh⟩ := maskGrade_bounds s hg0 am
  obtain ⟨m, b, hrun, hflushed⟩ := s.runDsc_flushed
    (fun u => (u.invalidatePGrade (maskGrade s g am - s.choice.coarser) did pasid addr am.toNat ih).drainKinds true true)
    (dscTypeValid_iff (ty := 6).2 (by simpa using mode)) hfine
  obtain ⟨l, p, hremoved, hiotlb, hpsc⟩ := State.invalidatePGrade_removes
    { s with iq := s.movedHead, mem := m, wbuf := b } (Nat.sub_le _ s.choice.coarser) hhigh did pasid addr am.toNat ih
  have hdrained := State.drainKinds_both_observed { s with
    iq := s.movedHead, mem := m, wbuf := b, caches := { s.caches with iotlb := l, psc := p } }
  rw [hremoved] at hrun
  rw [← maskGrade_eq s g am]
  exact ⟨_, _, congrArg Host.Outcome.next hrun, rfl, hflushed _ rfl rfl, hiotlb, hpsc, hdrained⟩

/-! ## Interrupt entry cache (40 R928) -/

/-- Settles O16: index-selective or global, the entries named go; then every interrupt in flight is accepted. -/
theorem interruptCacheInvalidate : Obligations.InterruptCacheInvalidate := by
  intro s g im iidx
  obtain ⟨m, b, hrun, hflushed⟩ := s.runDsc_flushed (r := false)
    (fun u => (u.invalidateIec (g && im.toNat ≤ s.caps.mhmv && s.choice.coarser == 0) iidx im.toNat).drainInterrupts)
    (dscTypeValid_iff (ty := 4).2 (by simp)) rfl
  rw [State.drainInterrupts_eq] at hrun
  refine ⟨_, congrArg Host.Outcome.next hrun, rfl, fun e he => ?_, fun hexact hg hmask e he hout => ?_, hflushed _ rfl rfl⟩
  · obtain ⟨hmem, hkept⟩ := List.mem_filter.1 he
    simp only [iecMatches, Bool.not_or, Bool.not_not, Bool.and_eq_true, Bool.not_eq_true', beq_eq_false_iff_ne] at hkept
    obtain ⟨⟨⟨hg, -⟩, -⟩, hout⟩ := hkept
    exact ⟨hmem, hg, hout⟩
  · refine List.mem_filter.2 ⟨he, ?_⟩
    simp [iecMatches, hg, hmask, hexact, hout]

end Sys2Proof.Machine
end

section
/-! O17, O18, O21, O24: the descriptors that wait (40 R926 to R942), the completion and the time-out that release them (43 R1085;
40 R935). -/

namespace Sys2Proof.Machine

/-! ## Device-TLB invalidations (40 R926, R927) -/

/-- Of descriptors that are all sent none is unsent. -/
theorem State.onlySent.not_unsent {s : State} (ahead : s.onlySent) : s.iqPend.any Pending.isUnsent = false := by
  refine List.any_eq_false.2 fun p hp => ?_
  have hsent := ahead p hp
  cases p with
  | sent k => exact Bool.false_ne_true
  | wait => cases hsent
  | unsent => cases hsent
  | resp => cases hsent

/-- The pass over the pending descriptors comes to the last one with those ahead of it as they are. -/
theorem State.pend_eq {s : State} (ahead : s.onlySent) (p : Pending) :
    s.pend p = { (advancePend { s with iqPend := s.iqPend ++ [p] } s.iqPend [p]).1 with
      iqPend := (advancePend { s with iqPend := s.iqPend ++ [p] } s.iqPend [p]).2 } := by
  rw [State.pend, State.advance, advancePend_append _ _ _ _ ahead, List.nil_append]

/-- A Device-TLB invalidation behind others that have been sent goes under a free ITag. -/
theorem State.pend_sends {s : State} (ahead : s.onlySent) {k : Nat} (free : s.freeTag = some k) (m : InvReq) :
    s.pend (.unsent m) = { s with
      iqPend := s.iqPend ++ [.sent k], itags := s.itags ++ [ITag.mk k m.sid 0], out := .invRequest m k :: s.out } := by
  have hfree : State.freeTag { s with iqPend := s.iqPend ++ [.unsent m] } = some k := free
  rw [State.pend_eq ahead, advancePend, ahead.not_unsent, if_neg Bool.false_ne_true, hfree]
  rfl

/-- A Device-TLB invalidation waits where no ITag is free. -/
theorem State.pend_waits {s : State} (ahead : s.onlySent) (free : s.freeTag = none) (m : InvReq) :
    s.pend (.unsent m) = { s with iqPend := s.iqPend ++ [.unsent m] } := by
  have hfree : State.freeTag { s with iqPend := s.iqPend ++ [.unsent m] } = none := free
  rw [State.pend_eq ahead, advancePend, ahead.not_unsent, if_neg Bool.false_ne_true, hfree]
  rfl

/-- PFSID is not reserved on a unit with Invalidation Throttle, nor where it is 0. -/
theorem pfsidReserved_eq_false {s : State} {pfsid : SourceId} (h : s.caps.dit = true ∨ pfsid = 0) :
    pfsidReserved s pfsid = false := by
  rcases h with h | h <;> simp [pfsidReserved, h]

theorem exec_devTlbInvDsc {s : State} (hdt : s.caps.dt = true) {pfsid : SourceId} (hpfsid : s.caps.dit = true ∨ pfsid = 0)
    (sid : SourceId) (mip : BitVec 5) (sz : Bool) (addr : BitVec 52) :
    exec (.devTlbInvDsc sid mip pfsid sz addr) s = .next (State.pend { s with iq := s.movedHead }
      (.unsent { sid := sid, pasid := none, allPasids := false, sz := sz, addr := addr })) :=
  congrArg Host.Outcome.next
    (s.runDsc_valid 3 _ _ (dscTypeValid_iff.2 (by simpa using hdt)) (pfsidReserved_eq_false hpfsid))

theorem exec_pDevTlbInvDsc {s : State} (hdt : s.caps.dt = true) (mode : s.latchedRt.ttm ≠ 0) {pfsid : SourceId}
    (hpfsid : s.caps.dit = true ∨ pfsid = 0) (mip : BitVec 5) (sid : SourceId) (pasid : Pasid) (g sz : Bool)
    (addr : BitVec 52) :
    exec (.pDevTlbInvDsc mip pfsid sid pasid g sz addr) s = .next (State.pend { s with iq := s.movedHead }
      (.unsent { sid := sid, pasid := if g then none else some pasid, allPasids := g, sz := sz, addr := addr })) :=
  congrArg Host.Outcome.next
    (s.runDsc_valid 8 _ _ (dscTypeValid_iff.2 ⟨fun _ => mode, fun _ => hdt⟩) (pfsidReserved_eq_false hpfsid))

/-- No ITag is free just if each one that the unit has is allocated. -/
theorem State.freeTag_eq_none {s : State} (h : s.freeTag = none) {k : Nat} (hnum : k < s.plat.numItag) (h32 : k < 32) :
    ∃ x ∈ s.itags, x.tag = k := by
  have hempty : s.freeTags = [] := (Choice.among_none _ _).1 h
  by_contra hfree
  push Not at hfree
  exact absurd ((s.mem_freeTags k).2 ⟨hnum, h32, hfree⟩) (hempty ▸ List.not_mem_nil)

/-- Settles O17: either descriptor becomes an invalidation to send, which goes or waits as an ITag is free or not. -/
theorem deviceTlbInvalidates : Obligations.DeviceTlbInvalidates := by
  have hsends : ∀ {s : State}, s.onlySent → ∀ {k}, s.freeTag = some k → ∀ m, _ := fun {s} ahead {_} free m =>
    State.pend_sends (s := { s with iq := s.movedHead }) ahead free m
  have hwaits : ∀ {s : State}, s.onlySent → s.freeTag = none → ∀ m, _ := fun {s} ahead free m =>
    State.pend_waits (s := { s with iq := s.movedHead }) ahead free m
  constructor
  · intro s sid mip pfsid sz addr hdt hpfsid ahead
    have hexec := exec_devTlbInvDsc hdt hpfsid sid mip sz addr
    refine ⟨fun k free => ?_, fun free => ⟨fun k => s.freeTag_eq_none free, ?_⟩⟩
    · obtain ⟨hnum, h32, hnew⟩ := (s.mem_freeTags k).1 (Choice.among_mem _ _ _ free)
      exact ⟨hnum, h32, hnew, hexec.trans (congrArg Host.Outcome.next (hsends ahead free _))⟩
    · exact hexec.trans (congrArg Host.Outcome.next (hwaits ahead free _))
  · intro s mip pfsid sid pasid g sz addr hdt mode hpfsid ahead
    have hexec := exec_pDevTlbInvDsc hdt mode hpfsid mip sid pasid g sz addr
    exact ⟨fun k free => hexec.trans (congrArg Host.Outcome.next (hsends ahead free _)),
      fun free => hexec.trans (congrArg Host.Outcome.next (hwaits ahead free _))⟩

/-! ## Waits (40 R930, R940) -/

/-- The status write of a wait as an access of the unit. -/
def statusAccess (saddr : BitVec 62) : UnitAccess :=
  { kind := .write, addr := 4 * saddr.toNat, size := 4, snoop := true, mt := .wb }

/-- A status write that memory takes: the doubleword stands at its address, and every other byte is as the write buffer leaves
it. -/
theorem State.writeStatus_eq {s : State} (data : BitVec 32) {saddr : BitVec 62}
    (h : s.writable (4 * saddr.toNat) 4 = true) :
    s.writeStatus data saddr =
      { s with mem := writeNat s.flush.mem (4 * saddr.toNat) 4 data.toNat, wbuf := [], bus := statusAccess saddr :: s.bus } := by
  unfold State.writeStatus
  rw [statusAddr_eq, if_pos h]
  rfl

/-- What a status write leaves in memory. -/
theorem statusWritten {s t : State} (form : s.memoryForm) (data : BitVec 32) (a : Nat)
    (h : t.mem = writeNat s.flush.mem a 4 data.toNat) : readNat t.mem a 4 = data.toNat ∧ sameOutside s t a 4 := by
  refine ⟨?_, fun b hb => ?_⟩
  · rw [h, readNat_writeNat (State.flush_memoryForm form)]
    exact Nat.mod_eq_of_lt data.isLt
  · apply keepsByte_of_flush
    rw [h, readByte_writeNat_outside _ _ _ _ _ hb]

/-- An inv_wait_dsc that is not refused joins the pending descriptors. -/
theorem exec_invWaitDsc {s : State} {sw pd : Bool} {saddr : BitVec 62} (hpd : pd = true → s.caps.pds = true)
    (hsw : sw = true → rangeIsMemory s.plat (4 * saddr.toNat) 4 = true) (iflag fn : Bool) (data : BitVec 32) :
    exec (.invWaitDsc iflag sw fn pd data saddr) s =
      .next (State.pend { s with iq := s.movedHead } (.wait iflag sw fn pd data saddr)) := by
  have hvalid : dscTypeValid s 5 = true := dscTypeValid_iff.2 (by simp)
  have hfine : pdReserved s pd = false := by simpa [pdReserved] using hpd
  have htaken : (dscTypeValid s 5 && !pdReserved s pd && sw && !rangeIsMemory s.plat (statusAddr saddr) 4) = false := by
    rw [statusAddr_eq]
    cases sw
    · simp
    · simp [hsw rfl]
  refine (if_neg (Bool.eq_false_iff.1 htaken)).trans ?_
  exact congrArg Host.Outcome.next (s.runDsc_valid 5 _ _ hvalid hfine)

/-- The status write of a wait, if it asks for one. -/
theorem State.statusWrite_eq {s : State} {sw : Bool} (data : BitVec 32) {saddr : BitVec 62}
    (h : sw = true → s.writable (4 * saddr.toNat) 4 = true) :
    ∃ m b, (if sw then s.writeStatus data saddr else s) =
        { s with mem := m, wbuf := b, bus := (if sw then [statusAccess saddr] else []) ++ s.bus } ∧
      if sw = true then m = writeNat s.flush.mem (4 * saddr.toNat) 4 data.toNat ∧ b = [] else m = s.mem ∧ b = s.wbuf := by
  cases sw
  · exact ⟨s.mem, s.wbuf, rfl, rfl, rfl⟩
  · exact ⟨_, _, State.writeStatus_eq data (h rfl), rfl, rfl⟩

/-- A wait completes, with its event quiet: the status write, then IWC and the event, if it asks for them. -/
theorem State.completeWait_eq {s : State} (quiet : s.quiet .inv) (iflag : Bool) {sw : Bool} (data : BitVec 32)
    {saddr : BitVec 62} (h : sw = true → s.writable (4 * saddr.toNat) 4 = true) :
    ∃ m b r o, s.completeWait iflag sw data saddr = { s with
        iwc := s.iwc || iflag, invEv := r, mem := m, wbuf := b, out := o
        bus := (if sw then [statusAccess saddr] else []) ++ s.bus } ∧
      (if iflag = true then raised s { s with invEv := r, out := o } .inv s.iwc else r = s.invEv ∧ o = s.out) ∧
      if sw = true then m = writeNat s.flush.mem (4 * saddr.toNat) 4 data.toNat ∧ b = [] else m = s.mem ∧ b = s.wbuf := by
  obtain ⟨m, b, hstatus, hmem⟩ := State.statusWrite_eq data h
  unfold State.completeWait
  dsimp only
  rw [hstatus]
  cases iflag
  · refine ⟨m, b, s.invEv, s.out, ?_, ⟨rfl, rfl⟩, hmem⟩
    simp
  · obtain ⟨r, o, hraise, hraised⟩ := State.raiseEvent_quiet
      { s with mem := m, wbuf := b, bus := (if sw then [statusAccess saddr] else []) ++ s.bus, iwc := true } .inv s.iwc quiet
    refine ⟨m, b, r, o, ?_, hraised, hmem⟩
    rw [if_pos rfl, Bool.or_true]
    exact hraise

theorem State.rangeIsMemory_of_writable {s : State} {a n : Nat} (h : s.writable a n = true) :
    rangeIsMemory s.plat a n = true := (Bool.and_eq_true_iff.1 h).1

/-- A wait behind invalidations that have been sent stays. -/
theorem State.pend_wait_behind {s : State} (ahead : s.onlySent) (some : s.iqPend ≠ []) (iflag sw fn pd : Bool)
    (data : BitVec 32) (saddr : BitVec 62) :
    s.pend (.wait iflag sw fn pd data saddr) = { s with iqPend := s.iqPend ++ [.wait iflag sw fn pd data saddr] } := by
  have hahead : ¬ (s.iqPend.isEmpty && !s.fsts.ite) = true := by simp [some]
  rw [State.pend_eq ahead, advancePend, if_neg hahead]
  rfl

/-- Settles O18: a wait with nothing ahead completes, behind sent invalidations it stays, and a status address outside memory is
refused. -/
theorem waitCompletesOrWaits : Obligations.WaitCompletesOrWaits := by
  refine ⟨fun s iflag sw fn pd data saddr none hite hpd quiet form hsw => ?_,
    fun s iflag sw fn pd data saddr ahead some hpd hsw => ?_, fun s iflag fn pd data saddr hpd hout => ?_⟩
  · have hexec := exec_invWaitDsc hpd (fun e => State.rangeIsMemory_of_writable (hsw e)) iflag fn data
    rw [State.pend_wait { s with iq := s.movedHead } _ _ _ _ _ _ none hite] at hexec
    obtain ⟨m, b, r, o, hdone, hraised, hmem⟩ := State.completeWait_eq
      (s := { s with iq := s.movedHead, iqPend := [.wait iflag sw fn pd data saddr] }) quiet iflag data hsw
    rw [hdone] at hexec
    refine ⟨_, hexec, ?_, hraised, ?_⟩
    · rw [none]
      rfl
    · cases sw
      · obtain ⟨rfl, rfl⟩ := hmem
        exact ⟨rfl, fun _ => rfl⟩
      · obtain ⟨rfl, rfl⟩ := hmem
        exact (statusWritten form data _ rfl).imp_right fun hothers => ⟨rfl, hothers⟩
  · exact (exec_invWaitDsc hpd hsw iflag fn data).trans
      (congrArg Host.Outcome.next (State.pend_wait_behind (s := { s with iq := s.movedHead }) ahead some _ _ _ _ _ _))
  · have hvalid : dscTypeValid s 5 = true := dscTypeValid_iff.2 (by simp)
    have hfine : pdReserved s pd = false := by simpa [pdReserved] using hpd
    refine if_pos ?_
    rw [statusAddr_eq, hvalid, hfine, hout]
    rfl

/-! ## Completions (43 R1085) -/

/-- With no store of the source in flight there is none to drain. -/
theorem State.drainStoresOf_eq {s : State} {sid : SourceId} (h : s.storesNone sid) : s.drainStoresOf sid = s := by
  have hgo : s.inFlight.filter (storedBy sid) = [] := List.filter_eq_nil_iff.2 fun f hf => Bool.eq_false_iff.1 (h f hf)
  have hstay : s.inFlight.filter (fun f => !storedBy sid f) = s.inFlight :=
    List.filter_eq_self.2 fun f hf => by rw [h f hf]; rfl
  calc s.drainStoresOf sid
    _ = (s.inFlight.filter (storedBy sid)).foldl (fun (t : State) f => t.commit f)
        { s with inFlight := s.inFlight.filter (fun f => !storedBy sid f) } := rfl
    _ = s := by rw [hgo, hstay]; rfl

/-- The count that completes an invalidation, as the statements write it. -/
theorem expectedCount_eq (cc : BitVec 3) : expectedCount cc = if cc = 0 then 8 else cc.toNat := by
  simp [expectedCount]

/-- Settles O21: the completion frees the one ITag, and the pass over the pending descriptors then comes to the wait with nothing
ahead of it. -/
theorem completionReleasesWait : Obligations.CompletionReleasesWait := by
  intro s sid vec cc k n fn pd data saddr htes hstores hite form htags hpend hvec hk hcount hwrite
  have hbit : bitAt vec k = true := (hvec k hk).2 rfl
  have hvalid : tagsValid s sid vec = true := by
    simp only [tagsValid, vectorTags, List.all_eq_true, List.mem_filter, List.mem_range]
    rintro j ⟨hj, hset⟩
    simp [htags, (hvec j hj).1 hset]
  have hcounted : s.countCompletion vec cc = { s with itags := [], iqPend := [.wait false true fn pd data saddr] } := by
    simp [State.countCompletion, htags, hpend, hbit, hcount, expectedCount_eq]
  have hstatus := State.writeStatus_eq (s := { s with itags := [], iqPend := [.wait false true fn pd data saddr] }) data hwrite
  have hadvanced : State.advance { s with itags := [], iqPend := [.wait false true fn pd data saddr] } =
      { s with itags := [], iqPend := [], mem := writeNat s.flush.mem (4 * saddr.toNat) 4 data.toNat, wbuf := [],
               bus := statusAccess saddr :: s.bus } := by
    simp [State.advance, advancePend, hite, State.completeWait, hstatus]
    rfl
  have hexec : exec (.invalidationCompletion sid vec cc) s = .next (s.countCompletion vec cc).advance := by
    simp [exec, execInvalidationCompletion, htes, State.drainStoresOf_eq hstores, hvalid]
  rw [hcounted, hadvanced] at hexec
  exact ⟨_, hexec, rfl, statusWritten form data _ rfl⟩

/-! ## Time-outs (40 R935) -/

/-- Settles O24: the ITag is freed, its descriptor leaves, and `setIte` drops the waits that are left. -/
theorem timeoutAbortsWaits : Obligations.TimeoutAbortsWaits := by
  intro s u c k sid n hnext htags hpend quiet
  have hfind : u.itags.find? (fun x => x.tag == k) = some (ITag.mk k sid n) := by simp [htags]
  have hfreed : u.itags.filter (fun y => y.tag != k) = [] := by simp [htags]
  have hleft : (u.iqPend.filter (fun p => p != Pending.sent k)).filter (fun p => !p.isWait && (p.isSent || u.choice.keep)) =
      [] := by
    rw [List.filter_filter, List.filter_eq_nil_iff]
    intro p hp
    rcases hpend p hp with rfl | hwait
    · simp
    · simp [hwait]
  obtain ⟨r, o, hraise, hraised⟩ := State.raiseEvent_quiet { u with
    itags := [], iqPend := []
    iqercd := u.detail { u.iqercd with itesid := if u.fsts.ite then u.iqercd.itesid else sid }
    fsts := { u.fsts with ite := true } } .fault u.faultStatusAny quiet
  have htimeout : u.devTlbTimeout k = { u with
      itags := [], iqPend := []
      iqercd := u.detail { u.iqercd with itesid := if u.fsts.ite then u.iqercd.itesid else sid }
      fsts := { u.fsts with ite := true }, faultEv := r, out := o } := by
    unfold State.devTlbTimeout
    rw [hfind]
    unfold State.setIte
    dsimp only
    rw [hleft, hfreed]
    exact congrArg State.advance hraise
  exact ⟨_, (step_of_nextEvent hnext).trans (congrArg Host.Outcome.next htimeout), rfl, hraised⟩

end Sys2Proof.Machine
end

section
/-! O22: the queue errors 3 and 4 of a descriptor that is decoded (40 R906, R907, R915). -/

namespace Sys2Proof.Machine

/-- The number of a queue descriptor's type (30 R853 to R861); 0 for every other instruction. -/
def descriptorNumber : Instr → Nat
  | .ccInvDsc .. => 1
  | .iotlbInvDsc .. => 2
  | .devTlbInvDsc .. => 3
  | .iecInvDsc .. => 4
  | .invWaitDsc .. => 5
  | .pIotlbInvDsc .. => 6
  | .pcInvDsc .. => 7
  | .pDevTlbInvDsc .. => 8
  | .pageGrpRespDsc .. => 9
  | _ => 0

/-- A descriptor of an invalid type is a queue error 3, whatever it asks for. -/
theorem State.runDsc_invalid {s : State} {ty : Nat} (h : dscTypeValid s ty = false) (r : Bool) (act : State → State) :
    s.runDsc ty r act = s.raiseIqe 3 := by
  simp [State.runDsc, h]

theorem exec_of_invalidType {s : State} {i : Instr} (h : dscTypeValid s (descriptorNumber i) = false) :
    exec i s = .next (s.raiseIqe 3) := by
  have hinvalid : ∀ {ty}, dscTypeValid s ty = false → ∀ r act,
      (Host.Outcome.next (s.runDsc ty r act) : Result) = .next (s.raiseIqe 3) := fun h r act =>
    congrArg Host.Outcome.next (State.runDsc_invalid h r act)
  cases i with
  | ccInvDsc | iotlbInvDsc | devTlbInvDsc | iecInvDsc | pIotlbInvDsc | pcInvDsc | pDevTlbInvDsc | pageGrpRespDsc =>
    exact hinvalid h _ _
  | _ => exact absurd (dscTypeValid_iff.2 (by simp [descriptorNumber])) (Bool.eq_false_iff.1 h)

/-- A descriptor of a type that the mode or the unit does not know is a queue error 3 (40 R906). -/
theorem queueError_of_invalidType {s : State} (quiet : s.quiet .fault) {i : Instr}
    (h : dscTypeValid s (descriptorNumber i) = false) : ∃ t, exec i s = .next t ∧ queueError s t 3 :=
  ⟨_, exec_of_invalidType h, s.raiseIqe_eq 3 quiet⟩

/-- A descriptor with a reserved value is a queue error 4 (40 R907). -/
theorem queueError_of_reserved {s : State} (quiet : s.quiet .fault) {ty : Nat} {r : Bool} (act : State → State)
    (valid : dscTypeValid s ty = true) (reserved : r = true) :
    ∃ t, (Host.Outcome.next (s.runDsc ty r act) : Result) = .next t ∧ queueError s t 4 := by
  refine ⟨_, rfl, ?_⟩
  simpa [State.runDsc, valid, reserved] using s.raiseIqe_eq 4 quiet

theorem pfsidReserved_eq_true {s : State} {pfsid : SourceId} (hdit : s.caps.dit = false) (h : pfsid ≠ 0) :
    pfsidReserved s pfsid = true := by
  have h' : ¬ pfsid = 0#16 := h
  simp [pfsidReserved, hdit, h']

/-- Settles O22: each reserved value fails the check of its descriptor, each unknown type the check that every descriptor starts
with. -/
theorem descriptorQueueErrors : Obligations.DescriptorQueueErrors := by
  refine ⟨fun s quiet => ⟨?_, ?_, ?_, ?_, ?_, ?_, ?_⟩, fun s quiet => ⟨fun mode => ⟨?_, ?_, ?_, ?_⟩, fun hdt => ⟨?_, ?_⟩⟩⟩
  · exact fun did sid fm => queueError_of_reserved quiet _ (dscTypeValid_iff.2 (by simp)) rfl
  · intro g dw dr did am ih addr hg
    refine queueError_of_reserved quiet _ (dscTypeValid_iff.2 (by simp)) ?_
    rcases hg with rfl | ⟨rfl, hpsi⟩
    · rfl
    · simp [iotlbReserved, hpsi]
  · intro g did pasid am ih addr mode hg
    refine queueError_of_reserved quiet _ (dscTypeValid_iff.2 (by simpa using mode)) ?_
    rcases hg with rfl | rfl <;> rfl
  · exact fun did pasid mode => queueError_of_reserved quiet _ (dscTypeValid_iff.2 (by simpa using mode)) rfl
  · exact fun sid mip pfsid sz addr hdt hdit hpfsid => queueError_of_reserved quiet _
      (dscTypeValid_iff.2 (by simpa using hdt)) (pfsidReserved_eq_true hdit hpfsid)
  · exact fun mip pfsid sid pasid g sz addr hdt mode hdit hpfsid => queueError_of_reserved quiet _
      (dscTypeValid_iff.2 ⟨fun _ => mode, fun _ => hdt⟩) (pfsidReserved_eq_true hdit hpfsid)
  · intro iflag sw fn data saddr hpds
    have hreserved : pdReserved s true = true := by simp [pdReserved, hpds]
    have htaken : ¬ (dscTypeValid s 5 && !pdReserved s true && sw && !rangeIsMemory s.plat (statusAddr saddr) 4) = true := by
      simp [hreserved]
    obtain ⟨t, hrun, herror⟩ := queueError_of_reserved quiet (fun u => u.pend (.wait iflag sw fn true data saddr))
      (dscTypeValid_iff (ty := 5).2 (by simp)) hreserved
    exact ⟨t, (if_neg htaken).trans hrun, herror⟩
  · exact fun g did pasid am ih addr => queueError_of_invalidType quiet (by simp [dscTypeValid, descriptorNumber, mode])
  · exact fun g did pasid => queueError_of_invalidType quiet (by simp [dscTypeValid, descriptorNumber, mode])
  · exact fun mip pfsid sid pasid g sz addr =>
      queueError_of_invalidType quiet (by simp [dscTypeValid, descriptorNumber, mode])
  · exact fun pp rc rid pasid prgi => queueError_of_invalidType quiet (by simp [dscTypeValid, descriptorNumber, mode])
  · exact fun sid mip pfsid sz addr => queueError_of_invalidType quiet (by simp [dscTypeValid, descriptorNumber, hdt])
  · exact fun mip pfsid sid pasid g sz addr =>
      queueError_of_invalidType quiet (by simp [dscTypeValid, descriptorNumber, hdt])

end Sys2Proof.Machine
end

section
/-! O23: what the decoder says of a word with a type that is none, or with a reserved bit set (40 R906, R907; 30 R852, R863). -/

namespace Sys2Proof

open Machine

/-- The two readings of the Type field (30 R852). -/
theorem descriptorType_eq (w : BitVec 256) : descriptorType w = (dscType w).toNat := by
  rw [descriptorType, dscType, BitVec.toNat_append, ← Nat.shiftLeft_add_eq_or_of_lt (field w 0 4).isLt, Nat.shiftLeft_eq,
    Nat.mul_comm]

/-- The reserved fields of a descriptor by its type, as (lowest bit, width). -/
def reservedFields : Nat → List (Nat × Nat)
  | 1 => [(6, 3), (12, 4), (50, 206)]
  | 2 => [(8, 1), (12, 4), (32, 32), (71, 5), (128, 128)]
  | 3 => [(4, 5), (21, 11), (48, 4), (65, 11), (128, 128)]
  | 4 => [(5, 4), (12, 15), (48, 208)]
  | 5 => [(8, 1), (12, 20), (64, 2), (128, 128)]
  | 6 => [(6, 3), (12, 4), (52, 12), (71, 5), (128, 128)]
  | 7 => [(6, 3), (12, 4), (52, 204)]
  | 8 => [(65, 10), (128, 128)]
  | 9 => [(5, 4), (52, 15), (76, 180)]
  | _ => []

/-- They are all that the fields of the type leave. -/
theorem reservedFields_cover {ty : Nat} (hlow : 1 ≤ ty) (hhigh : ty ≤ 9) {i : Nat} (hi : i < 256)
    (out : ∀ f ∈ descriptorFields ty, ¬ (f.1 ≤ i ∧ i < f.1 + f.2)) :
    ∃ f ∈ reservedFields ty, f.1 ≤ i ∧ i < f.1 + f.2 := by
  interval_cases ty <;> simp [descriptorFields, reservedFields] at out ⊢ <;> omega

/-- A reserved bit that is set stands in a reserved field that is not 0. -/
theorem exists_reservedField_ne {w : BitVec 256} {ty : Nat} (hlow : 1 ≤ ty) (hhigh : ty ≤ 9) (h : reservedBitSet ty w) :
    ∃ f ∈ reservedFields ty, field w f.1 f.2 ≠ 0 := by
  obtain ⟨i, hi, hset, hout⟩ := h
  obtain ⟨f, hf, hfrom, hto⟩ := reservedFields_cover hlow hhigh hi hout
  refine ⟨f, hf, fun hzero => ?_⟩
  have hbit := bitAt_field w f.1 f.2 (i - f.1) (by omega)
  rw [hzero, Nat.add_sub_cancel' hfrom, hset] at hbit
  simp [bitAt] at hbit

/-- A word that decodes has a known type, the type of its instruction, and its reserved fields are 0. -/
theorem decodeDsc_ok {w : BitVec 256} {i : Instr} (h : decodeDsc w = .ok i) :
    (1 ≤ (dscType w).toNat ∧ (dscType w).toNat ≤ 9) ∧ descriptorNumber i = (dscType w).toNat ∧
      ∀ f ∈ reservedFields (dscType w).toNat, field w f.1 f.2 = 0 := by
  unfold decodeDsc at h
  split at h
  case h_10 => cases h
  all_goals
    next ht =>
      obtain ⟨hclear, rfl⟩ := ite_eq_ok_iff.1 h
      rw [ht]
      exact ⟨by decide, rfl, by simpa [reservedFields, and_assoc] using hclear⟩

theorem ite_eq_error_iff {α ε : Type} {c : Prop} [Decidable c] {e e' : ε} {a : α} :
    (if c then Except.ok a else Except.error e) = Except.error e' ↔ ¬ c ∧ e = e' := by
  split <;> simp [*]

/-- A word that does not decode has a type that is none, or one of the nine types and then a reserved bit set (30 R852, R863). -/
theorem decodeDsc_error {w : BitVec 256} {e : DecodeError} (h : decodeDsc w = .error e) :
    (e = .undefinedType ∧ ((dscType w).toNat = 0 ∨ 9 < (dscType w).toNat)) ∨
      (e = .reservedField (dscType w) ∧ 1 ≤ (dscType w).toNat ∧ (dscType w).toNat ≤ 9) := by
  unfold decodeDsc at h
  split at h
  case h_10 =>
    injection h with h
    simp only [imp_false] at *
    exact .inl ⟨h.symm, by omega⟩
  all_goals
    next ht =>
      obtain ⟨-, rfl⟩ := ite_eq_error_iff.1 h
      exact .inr ⟨congrArg DecodeError.reservedField (BitVec.eq_of_toNat_eq ht.symm), by rw [ht]; decide⟩

/-! ## The word that a turn reads -/

theorem length_readBytes (m : List Host.Cell) (a n : Nat) : (readBytes m a n).length = n := by
  induction n generalizing a with
  | zero => rfl
  | succ n ih => exact congrArg (· + 1) (ih (a + 1))

/-- A descriptor of 128 bits leaves the high half of the word 0, so that nothing is lost in the narrow format. -/
theorem decode_fetched (dw : Bool) (m : List Host.Cell) (a : Nat) :
    decode (.iqDsc dw (BitVec.ofNat 256 (readNat m a (if dw then 32 else 16)))) =
      (decodeDsc (BitVec.ofNat 256 (readNat m a (if dw then 32 else 16)))).map (fun i => [i]) := by
  cases dw
  · have hlt : readNat m a 16 < 2 ^ 128 := by
      have := ofBytes_lt (readBytes m a 16)
      rwa [length_readBytes] at this
    have hfits : ((BitVec.ofNat 256 (readNat m a 16)).setWidth 128).setWidth 256 = BitVec.ofNat 256 (readNat m a 16) := by
      refine BitVec.eq_of_toNat_eq ?_
      simp only [BitVec.toNat_setWidth, BitVec.toNat_ofNat]
      omega
    exact congrArg (fun w => (decodeDsc w).map (fun i => [i])) hfits
  · rfl

end Sys2Proof
end

section
/-! O4, O22, O23: a turn of the queue engine (40 R902 to R907): what it meets at the head, and what it does with it. -/

namespace Sys2Proof.Machine

/-! ## The conditions of a fetch -/

theorem State.canFetch_iff (s : State) : s.canFetch = true ↔
    s.gsts.qies = true ∧ s.headUnit ≠ s.iq.qt.toNat ∧ s.fsts.iqe = false ∧ s.fsts.ite = false ∧
      ∀ p ∈ s.iqPend, p.isFence = false := by
  have hhead : s.iq.head = s.iq.qt ↔ s.headUnit = s.iq.qt.toNat := by rw [← Iq.head_toNat, BitVec.toNat_inj]
  simp [State.canFetch, hhead, and_assoc]

/-! ## The turn -/

theorem State.iqTurn_idle {s : State} (h : s.advance.iqFetch = .idle) : s.iqTurn = .next s.advance.noteFetch := by
  simp [State.iqTurn, h]

theorem State.iqTurn_error {s : State} {c : BitVec 4} (h : s.advance.iqFetch = .error c) :
    s.iqTurn = .next (s.advance.noteFetch.raiseIqe c) := by
  simp [State.iqTurn, h]

theorem State.iqTurn_command {s : State} {i : Instr} (h : s.advance.iqFetch = .command i) :
    s.iqTurn = exec i s.advance.noteFetch := by
  simp [State.iqTurn, h]

/-- Without pending descriptors there is nothing to carry on. -/
theorem State.advance_eq {s : State} (h : s.iqPend = []) : s.advance = s := by
  unfold State.advance
  rw [h]
  cases s
  cases h
  rfl

/-- The state in which the descriptor that a turn has read is run: the read is on the bus and counted. -/
def State.fetched (s : State) : State :=
  ({ s with bus := busRead s.headAddr s.dscBytes true :: s.bus } : State).count ⟨1, 0, 0, none, none, 3, none, 1⟩

theorem State.noteFetch_fetched {s : State} (can : s.canFetch = true) (regs : queueRegError s = none) :
    s.noteFetch = s.fetched := if_pos (by simp [can, regs])

theorem State.noteFetch_idle {s : State} (h : s.canFetch = false) : s.noteFetch = s := if_neg (by simp [h])

theorem State.noteFetch_error {s : State} {c : BitVec 4} (h : queueRegError s = some c) : s.noteFetch = s :=
  if_neg (by simp [h])

theorem State.iqFetch_dsc {s : State} (can : s.canFetch = true) (regs : queueRegError s = none) :
    s.iqFetch = s.fetchDsc := by
  simp [State.iqFetch, can, regs]

/-- Settles O4: the fetch answers with the descriptor, which runs on the state that has read it. -/
theorem stepRunsDescriptor : Obligations.StepRunsDescriptor := by
  intro s u c i hturn can regs readable hdecode
  have hstep : step s = u.iqTurn := by
    rcases hturn with hnext | ⟨hnone, -, rfl⟩
    · exact step_of_nextEvent hnext
    · rw [step, hnone]
  have hfetch : u.advance.iqFetch = .command i := by
    rw [State.iqFetch_dsc can regs, State.fetchDsc, if_pos readable, hdecode]
  rw [hstep, State.iqTurn_command hfetch, State.noteFetch_fetched can regs]
  rfl

/-! ## The queue errors at a fetch -/

/-- A queue error that the registers call for (40 R905). -/
theorem State.iqTurn_registerError {s : State} {c : BitVec 4} (empty : s.iqPend = []) (can : s.canFetch = true)
    (quiet : s.quiet .fault) (h : queueRegError s = some c) : ∃ t, s.iqTurn = .next t ∧ queueError s t c := by
  have hfetch : s.advance.iqFetch = .error c := by
    rw [State.advance_eq empty]
    simp [State.iqFetch, can, h]
  refine ⟨_, State.iqTurn_error hfetch, ?_⟩
  rw [State.advance_eq empty, State.noteFetch_error h]
  exact s.raiseIqe_eq c quiet

/-- A queue error that the read or the decoder calls for. -/
theorem State.iqTurn_fetchError {s : State} {c : BitVec 4} (empty : s.iqPend = []) (can : s.canFetch = true)
    (regs : queueRegError s = none) (quiet : s.fetched.quiet .fault) (h : s.fetchDsc = .error c) :
    ∃ t, s.iqTurn = .next t ∧ queueError s.fetched t c := by
  have hfetch : s.advance.iqFetch = .error c := by rw [State.advance_eq empty, State.iqFetch_dsc can regs, h]
  refine ⟨_, State.iqTurn_error hfetch, ?_⟩
  rw [State.advance_eq empty, State.noteFetch_fetched can regs]
  exact State.raiseIqe_eq _ c quiet

/-- A descriptor that is fetched runs on the state that has read it. -/
theorem State.iqTurn_fetched {s : State} {i : Instr} (empty : s.iqPend = []) (can : s.canFetch = true)
    (regs : queueRegError s = none) (h : s.fetchDsc = .command i) : s.iqTurn = exec i s.fetched := by
  have hfetch : s.advance.iqFetch = .command i := by rw [State.advance_eq empty, State.iqFetch_dsc can regs, h]
  rw [State.iqTurn_command hfetch, State.advance_eq empty, State.noteFetch_fetched can regs]

/-- The word at the head (40 R903). -/
def State.headWord (s : State) : BitVec 256 := BitVec.ofNat 256 (readNat s.flush.mem s.headAddr s.dscBytes)

theorem State.fetchDsc_unreadable {s : State} (h : s.readable s.headAddr s.dscBytes = false) : s.fetchDsc = .error 2 :=
  if_neg (by simp [h])

theorem State.fetchDsc_ok {s : State} {i : Instr} (readable : s.readable s.headAddr s.dscBytes = true)
    (h : decodeDsc s.headWord = .ok i) : s.fetchDsc = .command i := by
  have hdecode : decode (.iqDsc s.iq.dw s.headWord) = .ok [i] := (decode_fetched _ _ _).trans (congrArg (Except.map _) h)
  unfold State.headWord at hdecode
  rw [State.fetchDsc, if_pos readable, hdecode]

theorem State.fetchDsc_undecoded {s : State} {e : DecodeError} (readable : s.readable s.headAddr s.dscBytes = true)
    (h : decodeDsc s.headWord = .error e) : s.fetchDsc = .error (decodeIqe s e) := by
  have hdecode : decode (.iqDsc s.iq.dw s.headWord) = .error e := (decode_fetched _ _ _).trans (congrArg (Except.map _) h)
  unfold State.headWord at hdecode
  rw [State.fetchDsc, if_pos readable, hdecode]

theorem State.unknownType_iff {s : State} {w : BitVec 256} : s.unknownType (descriptorType w) ↔
    (dscType w).toNat = 0 ∨ 9 < (dscType w).toNat ∨ dscTypeValid s (dscType w).toNat = false := by
  rw [← Bool.not_eq_true, dscTypeValid_iff, State.unknownType, descriptorType_eq]
  cases s.caps.dt <;> simp <;> tauto

/-- A word of an unknown type is a queue error 3: the decoder, or the check of the descriptor, turns it away (40 R906). -/
theorem State.iqTurn_unknownType {s : State} (empty : s.iqPend = []) (can : s.canFetch = true)
    (regs : queueRegError s = none) (quiet : s.fetched.quiet .fault) (same : ∀ ty, dscTypeValid s.fetched ty = dscTypeValid s ty)
    (readable : s.readable s.headAddr s.dscBytes = true) (unknown : s.unknownType (descriptorType s.headWord)) :
    ∃ t, s.iqTurn = .next t ∧ queueError s.fetched t 3 := by
  rw [State.unknownType_iff] at unknown
  cases hdecode : decodeDsc s.headWord with
  | ok i =>
    obtain ⟨⟨hlow, hhigh⟩, hnumber, -⟩ := decodeDsc_ok hdecode
    have hinvalid : dscTypeValid s.fetched (descriptorNumber i) = false := by
      rw [same, hnumber]
      exact unknown.elim (by omega) fun h => h.elim (by omega) id
    rw [State.iqTurn_fetched empty can regs (State.fetchDsc_ok readable hdecode)]
    exact queueError_of_invalidType quiet hinvalid
  | error e =>
    have hcode : decodeIqe s e = 3 := by
      rcases decodeDsc_error hdecode with ⟨rfl, -⟩ | ⟨rfl, hlow, hhigh⟩
      · rfl
      · have hinvalid : dscTypeValid s (dscType s.headWord).toNat = false :=
          unknown.elim (by omega) fun h => h.elim (by omega) id
        simp [decodeIqe, hinvalid]
    rw [← hcode]
    exact State.iqTurn_fetchError empty can regs quiet (State.fetchDsc_undecoded readable hdecode)

/-- A word of a known type with a reserved bit set is a queue error 4 (40 R907; 30 R863). -/
theorem State.iqTurn_reservedBit {s : State} (empty : s.iqPend = []) (can : s.canFetch = true)
    (regs : queueRegError s = none) (quiet : s.fetched.quiet .fault)
    (readable : s.readable s.headAddr s.dscBytes = true) (known : ¬ s.unknownType (descriptorType s.headWord))
    (reserved : reservedBitSet (descriptorType s.headWord) s.headWord) :
    ∃ t, s.iqTurn = .next t ∧ queueError s.fetched t 4 := by
  rw [State.unknownType_iff] at known
  push Not at known
  obtain ⟨hzero, hnine, hvalid⟩ := known
  rw [descriptorType_eq] at reserved
  obtain ⟨f, hf, hne⟩ := exists_reservedField_ne (Nat.pos_of_ne_zero hzero) hnine reserved
  cases hdecode : decodeDsc s.headWord with
  | ok i =>
    obtain ⟨-, -, hclear⟩ := decodeDsc_ok hdecode
    exact absurd (hclear f hf) hne
  | error e =>
    have hcode : decodeIqe s e = 4 := by
      rcases decodeDsc_error hdecode with ⟨-, hnone⟩ | ⟨rfl, -⟩
      · omega
      · exact if_pos (Bool.eq_true_of_not_eq_false hvalid)
    rw [← hcode]
    exact State.iqTurn_fetchError empty can regs quiet (State.fetchDsc_undecoded readable hdecode)

theorem State.fetched_only (s : State) (quiet : s.quiet .perf) :
    onlyCounted { s with bus := busRead s.headAddr s.dscBytes true :: s.bus } s.fetched :=
  State.count_only _ _ quiet

theorem State.quiet_of_onlyCounted {s t : State} (h : onlyCounted s t) (quiet : s.quiet .fault) : t.quiet .fault := by
  rw [h.1]
  exact quiet

theorem dscTypeValid_of_onlyCounted {s t : State} (h : onlyCounted s t) (ty : Nat) : dscTypeValid t ty = dscTypeValid s ty := by
  rw [h.1]
  rfl

/-- Settles O23: no turn without the conditions of a fetch; the registers' errors in their order; then the read, the type and the
reserved bits. -/
theorem fetchConditions : Obligations.FetchConditions := by
  refine ⟨fun s u c hnext hstop => ?_, fun s u c hnext empty on notEmpty iqe ite quiet => ?_,
    fun s u c w hnext empty can regs quietFault quietPerf hw => ?_⟩
  · have hcan : u.advance.canFetch = false := by
      rw [← Bool.not_eq_true, State.canFetch_iff]
      rintro ⟨hon, hhead, hiqe, hite, hfence⟩
      rcases hstop with h | h | h | h | ⟨p, hp, h⟩
      · simp [h] at hon
      · exact hhead h
      · simp [h] at hiqe
      · simp [h] at hite
      · simp [hfence p hp] at h
    have hidle : u.advance.iqFetch = .idle := if_neg (by simp [hcan])
    rw [step_of_nextEvent hnext]
    exact (State.iqTurn_idle hidle).trans (congrArg _ (State.noteFetch_idle hcan))
  · have can : u.canFetch = true := (State.canFetch_iff u).2 ⟨on, notEmpty, iqe, ite, by simp [empty]⟩
    have herror : ∀ {code}, queueRegError u = some code → ∃ t, step s = .next t ∧ queueError u t code := fun h => by
      rw [step_of_nextEvent hnext]
      exact State.iqTurn_registerError empty can quiet h
    refine ⟨fun hodd => herror ?_, fun hodd => ⟨fun htail => herror ?_, fun htail =>
      ⟨fun hmode => herror ?_, fun hmode hdw => herror ?_, fun hmode hdw hsmts hadms => herror ?_⟩⟩⟩
    · simp [queueRegError, hodd]
    · simp [queueRegError, hodd, htail]
    · rcases hmode with h | ⟨h, hcap⟩ | ⟨h, hcap⟩ <;> simp [queueRegError, Nat.not_le.2 htail, *]
    · rcases hmode with ⟨h, hcap⟩ | ⟨h, hcap⟩ <;> simp [queueRegError, Nat.not_le.2 htail, *]
    · have heven : bitAt u.iq.qt 0 = false := Bool.eq_false_iff.2 fun h => hodd ⟨hdw, h⟩
      simp [queueRegError, Nat.not_le.2 htail, hmode, hdw, hsmts, hadms, heven]
  · subst hw
    have honly := u.fetched_only quietPerf
    have quiet : u.fetched.quiet .fault := State.quiet_of_onlyCounted honly quietFault
    rw [step_of_nextEvent hnext]
    exact ⟨u.fetched, honly,
      fun h => State.iqTurn_fetchError empty can regs quiet (State.fetchDsc_unreadable h),
      fun readable =>
        ⟨State.iqTurn_unknownType empty can regs quiet (fun ty => (dscTypeValid_of_onlyCounted honly ty).trans rfl) readable,
          State.iqTurn_reservedBit empty can regs quiet readable⟩⟩

end Sys2Proof.Machine
end

section
/-! O11: the latched pointers, TES and IRES (41 R951 to R960) are read off a state by `State.latched`. The completion of a command
moves them as `Latched.after` says, and no operation beside it moves them at all, said once per operation in the order of the
model. A step moves a part of them only if one of the commands it runs does. -/

namespace Sys2Proof.Machine

/-- What the Set Pointer commands latch, and the bits their enables and disables move. -/
structure Latched where
  root : RootPtr
  irt : IrtPtr
  tes : Bool
  ires : Bool

def State.latched (s : State) : Latched :=
  { root := s.latchedRt, irt := s.latchedIr, tes := s.gsts.tes, ires := s.gsts.ires }

/-- What the completion of a command with the captured pointers `p` makes of them. -/
def Latched.after (l : Latched) (p : PendCmd) : Instr → Latched
  | .gcmdTeEnable => { l with tes := true }
  | .gcmdTeDisable => { l with tes := false }
  | .gcmdSrtp => { l with root := p.root }
  | .gcmdSirtp => { l with irt := p.irt }
  | .gcmdIreEnable => { l with ires := true }
  | .gcmdIreDisable => { l with ires := false }
  | _ => l

theorem DeviceEffect.latched {s t : State} (h : DeviceEffect s t) : t.latched = s.latched := by
  rw [h.frame]
  rfl

/-- A choice between two operations. -/
theorem latched_ite {s t u : State} {p : Prop} [Decidable p] (ht : t.latched = s.latched) (hu : u.latched = s.latched) :
    (if p then t else u).latched = s.latched := by
  split
  · exact ht
  · exact hu

/-! ## The queue engine -/

theorem State.raiseIqe_latched (s : State) (i : BitVec 4) : (s.raiseIqe i).latched = s.latched :=
  (State.raiseEvent_deviceEffect _ .fault _).latched

/-- A descriptor whose own effect is one that a device could have. -/
theorem State.runDsc_latched (s : State) (ty : Nat) (r : Bool) {act : State → State} (hact : ∀ u, DeviceEffect u (act u)) :
    (s.runDsc ty r act).latched = s.latched :=
  latched_ite (s.raiseIqe_latched 3) (latched_ite (s.raiseIqe_latched 4) (hact s.advanceHead).latched)

theorem State.devTlbTimeout_latched (s : State) (k : Nat) : (s.devTlbTimeout k).latched = s.latched := by
  have hite : ∀ (u : State) sid, (u.setIte sid).latched = u.latched := fun _ _ =>
    (State.raiseEvent_deviceEffect _ .fault _).latched
  unfold State.devTlbTimeout
  split
  · rfl
  · exact (State.advance_deviceEffect _).latched.trans (hite _ _)

/-! ## Register commands (41 R951 to R996) -/

theorem State.resetFaultIdx_latched (s : State) : s.resetFaultIdx.latched = s.latched := latched_ite rfl rfl

theorem State.finishTeDisable_latched (s : State) : s.finishTeDisable.latched = { s.latched with tes := false } :=
  (State.resetFaultIdx_latched _).trans
    (congrArg (fun l : Latched => { l with tes := false }) (ite_invalidateAllDma_deviceEffect s s.caps.smts).latched)

theorem State.finishIreDisable_latched (s : State) : s.finishIreDisable.latched = { s.latched with ires := false } :=
  (State.resetFaultIdx_latched _).trans
    (congrArg (fun l : Latched => { l with ires := false }) (ite_invalidateAllIec_deviceEffect s s.caps.esirtps).latched)

theorem State.finishSrtp_latched (s : State) (r : RootPtr) : (s.finishSrtp r).latched = { s.latched with root := r } :=
  congrArg (fun l : Latched => { l with root := r }) (ite_invalidateAllDma_deviceEffect s s.caps.esrtps).latched

theorem State.finishSirtp_latched (s : State) (r : IrtPtr) : (s.finishSirtp r).latched = { s.latched with irt := r } :=
  congrArg (fun l : Latched => { l with irt := r }) (ite_invalidateAllIec_deviceEffect s s.caps.esirtps).latched

theorem State.finishIotlb_latched (s : State) : s.finishIotlb.latched = s.latched :=
  latched_ite rfl ((State.drainWhere_deviceEffect _ _).latched.trans s.implicitFlush_deviceEffect.latched)

theorem State.finishPmen_latched (s : State) (v : Bool) : (s.finishPmen v).latched = s.latched := by
  have hdrained : (if v then s.drainAll else s).latched = s.latched := latched_ite (s.drainWhere_deviceEffect _).latched rfl
  exact hdrained

/-- An enhanced command whose own effect leaves them. -/
theorem State.ecmdRun_latched (s : State) (cmd : Nat) {act : State → State × BitVec 7} (h : (act s).1.latched = s.latched) :
    (s.ecmdRun cmd act).latched = s.latched := latched_ite rfl (latched_ite rfl h)

theorem enableCounter_latched (k : Nat) (s : State) : (enableCounter k s).1.latched = s.latched := by
  unfold enableCounter
  split <;> rfl

theorem disableCounter_latched (k : Nat) (s : State) : (disableCounter k s).1.latched = s.latched := by
  unfold disableCounter
  split <;> rfl

theorem State.finishVcmdAllocate_latched (s : State) : s.finishVcmdAllocate.latched = s.latched := by
  refine latched_ite rfl ?_
  split <;> rfl

theorem finishInstr_latched (p : PendCmd) (s : State) (i : Instr) :
    (finishInstr p s i).latched = s.latched.after p i := by
  cases i with
  | gcmdTeEnable => exact congrArg (fun l : Latched => { l with tes := true }) (s.drainWhere_deviceEffect _).latched
  | gcmdTeDisable => exact s.finishTeDisable_latched
  | gcmdSrtp => exact s.finishSrtp_latched p.root
  | gcmdIreEnable => exact congrArg (fun l : Latched => { l with ires := true }) (s.acceptWhere_deviceEffect _).latched
  | gcmdIreDisable => exact s.finishIreDisable_latched
  | gcmdSirtp => exact s.finishSirtp_latched p.irt
  | ccmdIcc => exact latched_ite rfl s.implicitFlush_deviceEffect.latched
  | iotlbIvt => exact s.finishIotlb_latched
  | pmenEpmEnable => exact s.finishPmen_latched true
  | pmenEpmDisable => exact s.finishPmen_latched false
  | ecmdEnable k => exact s.ecmdRun_latched 240 (enableCounter_latched k.toNat s)
  | ecmdDisable k => exact s.ecmdRun_latched 241 (disableCounter_latched k.toNat s)
  | ecmdResetConfig => exact s.ecmdRun_latched 242 rfl
  | ecmdResetValues => exact s.ecmdRun_latched 243 rfl
  | ecmdFreeze => exact s.ecmdRun_latched 244 rfl
  | ecmdUnfreeze => exact s.ecmdRun_latched 245 rfl
  | ecmdReserved => exact s.ecmdRun_latched 0 rfl
  | vcmdAllocate => exact s.finishVcmdAllocate_latched
  | vcmdFree => exact latched_ite rfl (latched_ite rfl rfl)
  | _ => rfl

/-! ## Instructions -/

/-- The completion of `i` leaves the part `g` of what is latched. -/
def leavesLatched {α : Type} (g : Latched → α) (i : Instr) : Prop := ∀ (l : Latched) (p : PendCmd), g (l.after p i) = g l

/-- The part `g` of what is latched is `x`. -/
def latchedIs {α : Type} (g : Latched → α) (x : α) (s : State) : Prop := g s.latched = x

section
variable {α : Type} {g : Latched → α} {x : α} {s u : State} {i : Instr}

theorem latchedIs.of_latched_eq (h : latchedIs g x s) (e : u.latched = s.latched) : latchedIs g x u :=
  (congrArg g e).trans h

theorem latchedIs.finishInstr (h : latchedIs g x s) (hi : leavesLatched g i) (p : PendCmd) :
    latchedIs g x (finishInstr p s i) := by
  rw [latchedIs, finishInstr_latched, hi]
  exact h

/-- A command submitted completes at once or is deferred. -/
theorem latchedIs.submit (h : latchedIs g x s) (hi : leavesLatched g i) : latchedIs g x (s.submit i) :=
  iteInduction (fun _ => h.of_latched_eq rfl) fun _ => h.finishInstr hi _

/-- The instruction ends in a state with the latched part as it stands, by the operation it comes to: a descriptor, a submitted
command, or a message of a device. -/
theorem latchedIs.exec (h : latchedIs g x s) (hi : leavesLatched g i) : nextSatisfies (latchedIs g x) (exec i s) := by
  have hkept : ∀ {t : State}, t.latched = s.latched → nextSatisfies (latchedIs g x) (.next t) := fun e =>
    nextSatisfies_next (h.of_latched_eq e)
  have hsubmit : ∀ {t : State}, t.latched = s.latched → latchedIs g x (t.submit i) := fun e => (h.of_latched_eq e).submit hi
  have hsupported : ∀ {t : State} (b : Bool), t.latched = s.latched →
      nextSatisfies (latchedIs g x) (.next (if b then t.submit i else s)) := fun _ e =>
    nextSatisfies_next (iteInduction (fun _ => hsubmit e) fun _ => h)
  have hepm : ∀ v, nextSatisfies (latchedIs g x) (.next (if hasPmr s.caps then s.writeEpm v i else s)) := fun _ =>
    nextSatisfies_next (iteInduction (fun _ => iteInduction (fun _ => h.of_latched_eq rfl) fun _ => hsubmit rfl) fun _ => h)
  have hecmd : ∀ c oa, nextSatisfies (latchedIs g x) (.next (s.submitEcmd i c oa)) := fun _ _ =>
    nextSatisfies_next (iteInduction (fun _ => h) fun _ => hsubmit rfl)
  have hvcmd : ∀ c oa, nextSatisfies (latchedIs g x) (.next (s.submitVcmd i c oa)) := fun _ _ =>
    nextSatisfies_next (iteInduction (fun _ => hsubmit rfl) fun _ => h)
  have hdevice : DeviceMessage i → nextSatisfies (latchedIs g x) (Machine.exec i s) := fun hm _ ht =>
    h.of_latched_eq (exec_deviceEffect hm ht).latched
  cases i with
  | ccInvDsc => exact hkept (s.runDsc_latched 1 _ fun u => u.implicitFlush_deviceEffect.trans ⟨rfl, rfl, id⟩)
  | iotlbInvDsc =>
    exact hkept (s.runDsc_latched 2 _ fun u =>
      (State.drainWhere_deviceEffect _ _).after (u.implicitFlush_deviceEffect.trans ⟨rfl, rfl, id⟩))
  | devTlbInvDsc => exact hkept (s.runDsc_latched 3 _ fun u => u.pend_deviceEffect _)
  | iecInvDsc =>
    exact hkept (s.runDsc_latched 4 _ fun u =>
      (State.acceptWhere_deviceEffect _ _).after (u.implicitFlush_deviceEffect.trans ⟨rfl, rfl, id⟩))
  | invWaitDsc =>
    exact iteInduction (fun _ => nextSatisfies_refused _ _) fun _ =>
      hkept (s.runDsc_latched 5 _ fun u => u.pend_deviceEffect _)
  | pIotlbInvDsc =>
    exact hkept (s.runDsc_latched 6 _ fun u => (State.drainWhere_deviceEffect _ _).after
      ((State.invalidatePGrade_deviceEffect _ _ _ _ _ _ _).after u.implicitFlush_deviceEffect))
  | pcInvDsc => exact hkept (s.runDsc_latched 7 _ fun u => u.implicitFlush_deviceEffect.trans ⟨rfl, rfl, id⟩)
  | pDevTlbInvDsc => exact hkept (s.runDsc_latched 8 _ fun u => u.pend_deviceEffect _)
  | pageGrpRespDsc => exact hkept (s.runDsc_latched 9 _ fun u => u.pend_deviceEffect _)
  | pageReqDsc m => exact hkept (s.writePrq_deviceEffect m).latched
  | gcmdTeEnable | gcmdTeDisable | ccmdIcc | iotlbIvt => exact nextSatisfies_next (hsubmit rfl)
  | gcmdSrtp => exact iteInduction (fun _ => nextSatisfies_refused _ _) fun _ => nextSatisfies_next (hsubmit rfl)
  | gcmdWbf | gcmdQieEnable | gcmdQieDisable | gcmdIreEnable | gcmdIreDisable | gcmdSirtp | gcmdCfiSet | gcmdCfiClear =>
    exact hsupported _ rfl
  | pmenEpmEnable | pmenEpmDisable => exact hepm _
  | ecmdEnable | ecmdDisable | ecmdResetConfig | ecmdResetValues | ecmdFreeze | ecmdUnfreeze | ecmdReserved =>
    exact hecmd _ _
  | vcmdNull | vcmdAllocate | vcmdFree => exact hvcmd _ _
  | untranslatedRequest r => exact hdevice (.untranslated r)
  | translationRequest r => exact hdevice (.translation r)
  | translatedRequest r => exact hdevice (.translated r)
  | interruptRequest sid addr data => exact hdevice (.interrupt sid addr data)
  | pageRequest m => exact hdevice (.page m)
  | invalidationCompletion sid vec cc => exact hdevice (.completion sid vec cc)

end

/-! ## Register writes (41 R998) -/

theorem State.setEvRegs_latched (s : State) (e : EventName) (r : EventRegs) : (s.setEvRegs e r).latched = s.latched := by
  cases e <;> rfl

theorem State.writeIm_latched (s : State) (e : EventName) (im : Bool) : (s.writeIm e im).latched = s.latched := by
  obtain ⟨r1, r2, r3, r4, m, b, o, h⟩ := s.writeIm_frame e im
  rw [h]
  rfl

theorem State.releaseEvent_latched (s : State) (e : EventName) : (s.releaseEvent e).latched = s.latched := by
  obtain ⟨r1, r2, r3, r4, m, b, o, h⟩ := s.releaseEvent_frame e
  rw [h]
  rfl

theorem State.releaseAll_latched (s : State) : s.releaseAll.latched = s.latched := by
  simp only [State.releaseAll, State.releaseEvent_latched]

theorem State.writeEvent_latched (s : State) (e : EventName) (k : Nat) (v : BitVec 32) :
    (s.writeEvent e k v).latched = s.latched := by
  unfold State.writeEvent
  split
  · exact s.writeIm_latched e _
  · exact s.setEvRegs_latched e _
  · exact s.setEvRegs_latched e _
  · exact latched_ite (s.setEvRegs_latched e _) rfl

theorem State.statusCleared_latched (s : State) (e : EventName) : (s.statusCleared e).latched = s.latched :=
  (s.statusCleared_deviceEffect e).latched

theorem State.writeOverflow_latched (s : State) (first : Nat) (v : BitVec 32) :
    (s.writeOverflow first v).latched = s.latched :=
  List.foldlRecOn (motive := fun t : State => t.latched = s.latched) _ _ rfl fun _ ht _ _ => latched_ite ht ht

theorem State.writePerf_latched (s : State) (off : Nat) (v : BitVec 32) : (s.writePerf off v).latched = s.latched := by
  unfold State.writePerf
  dsimp only
  split
  · exact s.writeOverflow_latched _ v
  split
  · rfl
  · exact latched_ite rfl rfl

theorem State.latched_of_writeMtrrs {s t : State} {off : Nat} {v : BitVec 32} (h : s.writeMtrrs off v = some t) :
    t.latched = s.latched := by
  unfold State.writeMtrrs at h
  split at h
  · cases h
  split at h
  · cases h
    rfl
  · obtain ⟨k, -, rfl⟩ := Option.map_eq_some_iff.1 h
    rfl

theorem State.writeLocated_latched (s : State) (off : Nat) (v : BitVec 32) : (s.writeLocated off v).latched = s.latched := by
  have hiva : ∀ b, (s.writeIva b v).latched = s.latched := fun _ => latched_ite rfl rfl
  have hfrcd : ∀ n, (s.writeFrcd n v).latched = s.latched := fun _ => latched_ite (State.statusCleared_latched _ _) rfl
  refine latched_ite (hiva false) (latched_ite (hiva true) (latched_ite rfl ?_))
  split
  · exact latched_ite (hfrcd _) rfl
  split
  next ht => exact State.latched_of_writeMtrrs ht
  next => exact latched_ite (s.writePerf_latched off v) rfl

/-- The registers at fixed offsets: RTADDR_REG and IRTA_REG are among them, what is latched from them is not. -/
theorem State.writeFixedOffset_latched (s : State) (off : Nat) (v : BitVec 32) :
    (s.writeFixedOffset off v).latched = s.latched := by
  unfold State.writeFixedOffset
  dsimp only
  split
  case h_6 | h_7 | h_8 | h_9 | h_20 | h_21 | h_22 | h_23 | h_31 | h_32 | h_33 | h_34 | h_37 | h_38 | h_39 | h_40 =>
    exact s.writeEvent_latched _ _ v
  case h_5 | h_30 => exact State.statusCleared_latched _ _
  case h_19 | h_36 => exact latched_ite (State.statusCleared_latched _ _) rfl
  case h_10 | h_11 | h_12 | h_13 | h_14 | h_15 | h_41 | h_42 | h_43 | h_44 | h_45 | h_46 => exact latched_ite rfl rfl
  all_goals rfl

theorem State.writePlain_latched (s : State) (off : Nat) (v : BitVec 32) : (s.writePlain off v).latched = s.latched :=
  latched_ite (s.writeFixedOffset_latched off v) (s.writeLocated_latched off v)

end Sys2Proof.Machine
end

section
/-! O11: the commands that a step runs, by its event (41 R950, R965). -/

namespace Sys2Proof.Machine

/-! ## What a word decodes to -/

section
variable {α : Type} {g : Latched → α} {i : Instr}

/-- Only commands of GCMD_REG move what is latched. -/
theorem leavesLatched_of_encode (h : ∀ a b, encode i ≠ .gcmd a b) : leavesLatched g i := by
  intro l p
  cases i
  case gcmdTeEnable | gcmdTeDisable | gcmdSrtp | gcmdIreEnable | gcmdIreDisable | gcmdSirtp => exact absurd rfl (h _ _)
  all_goals rfl

theorem leavesLatched_of_deviceMessage (h : DeviceMessage i) : leavesLatched g i := by
  cases h <;> exact fun _ _ => rfl

theorem decodeMem_deviceMessage {atf : BitVec 2} {r : MemReq} (h : decodeMem atf r = .ok i) : DeviceMessage i := by
  unfold decodeMem at h
  split at h
  · split at h
    · cases h
      exact .interrupt _ _ _
    · obtain ⟨-, rfl⟩ := ite_eq_ok_iff.1 h
      exact .untranslated r
  · split at h
    · cases h
    · obtain ⟨-, rfl⟩ := ite_eq_ok_iff.1 h
      exact .translation r
  · split at h
    · cases h
    · obtain ⟨-, rfl⟩ := ite_eq_ok_iff.1 h
      exact .translated r
  · cases h

/-- A word that decodes to one instruction. -/
theorem mem_of_map_singleton {ε : Type} {e : Except ε Instr} {is : List Instr} (h : e.map (fun j => [j]) = .ok is)
    (hi : i ∈ is) : e = .ok i := by
  cases e with
  | error e => cases h
  | ok j =>
    cases h
    rw [List.mem_singleton.1 hi]

/-- A word of any other register, queue or message than GCMD_REG. -/
theorem decode_leavesLatched {raw : Raw} {is : List Instr} (hraw : ∀ a b, raw ≠ .gcmd a b) (h : decode raw = .ok is)
    (hi : i ∈ is) : leavesLatched g i := by
  cases raw with
  | iqDsc wide w =>
    have hencode := decodeDsc_eq_ok_iff.1 (mem_of_map_singleton h hi)
    exact leavesLatched_of_encode fun _ _ hg => by rw [hencode] at hg; cases hg
  | prqDsc w =>
    have hencode := decodePrq_eq_ok_iff.1 (mem_of_map_singleton h hi)
    exact leavesLatched_of_encode fun _ _ hg => by rw [hencode] at hg; cases hg
  | gcmd a b => exact absurd rfl (hraw a b)
  | ccmd v =>
    cases h
    obtain ⟨-, hi⟩ := List.mem_ite_nil_right.1 hi
    rw [List.mem_singleton.1 hi]
    exact fun _ _ => rfl
  | iotlb v =>
    cases h
    obtain ⟨-, hi⟩ := List.mem_ite_nil_right.1 hi
    rw [List.mem_singleton.1 hi]
    exact fun _ _ => rfl
  | pmen v =>
    cases h
    rw [List.mem_singleton.1 hi]
    split <;> exact fun _ _ => rfl
  | ecmd v =>
    cases h
    unfold decodeEcmd at hi
    split at hi <;> (rw [List.mem_singleton.1 hi]; exact fun _ _ => rfl)
  | vcmd v =>
    rw [decode, decodeVcmd] at h
    split at h <;> cases h <;> (rw [List.mem_singleton.1 hi]; exact fun _ _ => rfl)
  | mem atf r => exact leavesLatched_of_deviceMessage (decodeMem_deviceMessage (mem_of_map_singleton h hi))
  | page m =>
    cases h
    rw [List.mem_singleton.1 hi]
    exact fun _ _ => rfl
  | completion sid vec cc =>
    cases h
    rw [List.mem_singleton.1 hi]
    exact fun _ _ => rfl
  | invalidation sid => cases h

/-- Only the doubleword at 18h is a word of GCMD_REG, and it is decoded against GSTS_REG. -/
theorem commandWord_gcmd {s : State} {off : Nat} {v a b : BitVec 32} (h : commandWord s off v = some (.gcmd a b)) :
    off = 0x18 ∧ a = gstsWord s.gsts ∧ b = v := by
  unfold commandWord at h
  split at h
  · cases h
    exact ⟨rfl, rfl, rfl⟩
  case h_3 => cases h
  all_goals
    split at h <;> cases h

theorem iqFetch_leavesLatched {s : State} (h : s.iqFetch = .command i) : leavesLatched g i := by
  unfold State.iqFetch at h
  split at h
  · split at h
    · cases h
    · unfold State.fetchDsc at h
      split at h
      · split at h <;> cases h
        next hdecode => exact decode_leavesLatched (by rintro a b ⟨⟩) hdecode List.mem_cons_self
      · cases h
  · cases h

end

/-! ## The agents around the unit -/

namespace latchedIs

variable {α : Type} {g : Latched → α} {x : α} {s : State}

theorem runAll (h : latchedIs g x s) {is : List Instr} (his : ∀ i ∈ is, leavesLatched g i) :
    nextSatisfies (latchedIs g x) (runAll is s) := by
  induction is generalizing s with
  | nil => exact nextSatisfies_next h
  | cons i rest ih =>
    exact nextSatisfies_andThen (h.exec (his i List.mem_cons_self)) fun _ hu => ih hu fun j hj => his j (List.mem_cons_of_mem i hj)

theorem runWord (h : latchedIs g x s) {raw : Raw} (hraw : ∀ is, decode raw = .ok is → ∀ i ∈ is, leavesLatched g i) :
    nextSatisfies (latchedIs g x) (runWord raw s) := by
  unfold Machine.runWord
  split
  next hdecode => exact h.runAll (hraw _ hdecode)
  · exact nextSatisfies_next (iteInduction (fun _ => iteInduction (fun _ => h.of_latched_eq rfl) fun _ => h.of_latched_eq rfl)
      fun _ => h)
  · exact nextSatisfies_next h

/-- A word that is none of GCMD_REG. -/
theorem runWord_other (h : latchedIs g x s) (raw : Raw) (hraw : ∀ a b, raw ≠ .gcmd a b) :
    nextSatisfies (latchedIs g x) (Machine.runWord raw s) := h.runWord fun _ hdecode _ => decode_leavesLatched hraw hdecode

theorem softWrite4 (h : latchedIs g x s) {off : Nat} {v : BitVec 32}
    (hgcmd : off = 0x18 → ∀ i ∈ decodeGcmd (gstsWord s.gsts) v, leavesLatched g i) :
    nextSatisfies (latchedIs g x) (s.softWrite4 off v) := by
  unfold State.softWrite4
  split
  · exact nextSatisfies_refused _ _
  split
  next raw hraw =>
    refine h.runWord fun is hdecode i hi => ?_
    by_cases hg : ∃ a b, raw = .gcmd a b
    · obtain ⟨a, b, rfl⟩ := hg
      obtain ⟨hoff, rfl, rfl⟩ := commandWord_gcmd hraw
      cases hdecode
      exact hgcmd hoff i hi
    · exact decode_leavesLatched (fun a b e => hg ⟨a, b, e⟩) hdecode hi
  · exact nextSatisfies_next (h.of_latched_eq (s.writePlain_latched off v))

/-- A quadword at 18h holds GCMD_REG in its low doubleword, which goes first. -/
theorem softWrite (h : latchedIs g x s) {off width : Nat} {v : BitVec 64}
    (hgcmd : off = 0x18 → ∀ i ∈ decodeGcmd (gstsWord s.gsts) (loWord v), leavesLatched g i) :
    nextSatisfies (latchedIs g x) (s.softWrite off width v) := by
  unfold State.softWrite
  split
  · exact nextSatisfies_refused _ _
  next haccess =>
  split
  · exact nextSatisfies_next h
  split
  · exact h.softWrite4 hgcmd
  next hwide =>
  have halign : off % 8 = 0 := by
    simp [accessOk] at haccess hwide
    omega
  split
  next hcmd =>
    have hoff : off = 0x400 ∨ off = 0xE00 := by
      simp at hcmd
      omega
    exact nextSatisfies_andThen (h.softWrite4 fun e => by omega) fun _ hu => hu.softWrite4 fun e => by omega
  · exact nextSatisfies_andThen (h.softWrite4 hgcmd) fun _ hu => hu.softWrite4 fun e => by omega

theorem memStore (h : latchedIs g x s) {a : Nat} {bs : List Byte}
    (hgcmd : a = s.plat.regBase + 0x18 →
      ∀ i ∈ decodeGcmd (gstsWord s.gsts) (loWord (BitVec.ofNat 64 (ofBytes bs))), leavesLatched g i) :
    nextSatisfies (latchedIs g x) (s.memStore a bs) := by
  unfold State.memStore
  split
  next hregs =>
    have hbase : s.plat.regBase ≤ a := by
      simp only [Platform.inRegs, Bool.and_eq_true, decide_eq_true_eq] at hregs
      exact hregs.1
    exact h.softWrite fun hoff => hgcmd (by omega)
  split
  · exact nextSatisfies_next (h.of_latched_eq (latched_ite rfl rfl))
  · exact nextSatisfies_fault _ _

theorem softRead (h : latchedIs g x s) (off width : Nat) : nextSatisfies (latchedIs g x) (s.softRead off width) :=
  iteInduction (fun _ => nextSatisfies_next (h.of_latched_eq rfl)) fun _ => nextSatisfies_refused _ _

theorem iqTurn (h : latchedIs g x s) : nextSatisfies (latchedIs g x) s.iqTurn := by
  have hnote : latchedIs g x s.advance.noteFetch :=
    h.of_latched_eq (s.advance_deviceEffect.trans s.advance.noteFetch_deviceEffect).latched
  unfold State.iqTurn
  dsimp only
  split
  · exact nextSatisfies_next hnote
  · exact nextSatisfies_next (hnote.of_latched_eq (State.raiseIqe_latched _ _))
  next hfetch => exact hnote.exec (iqFetch_leavesLatched hfetch)

theorem turnAway (h : latchedIs g x s) (r : MemReq) : nextSatisfies (latchedIs g x) (.next (s.turnAway r)) :=
  nextSatisfies_next (h.of_latched_eq (s.turnAway_deviceEffect r).latched)

theorem runPieces (h : latchedIs g x s) (atf : BitVec 2) (l : List MemReq) :
    nextSatisfies (latchedIs g x) (runPieces atf l s) := by
  induction l generalizing s with
  | nil => exact nextSatisfies_next h
  | cons r rest ih =>
    refine nextSatisfies_andThen (P := latchedIs g x) ?_ fun _ hu => ih hu
    unfold runPiece
    split
    next hdecode => exact h.exec (leavesLatched_of_deviceMessage (decodeMem_deviceMessage hdecode))
    · exact h.turnAway r

theorem inboundMem (h : latchedIs g x s) (atf : BitVec 2) (r : MemReq) :
    nextSatisfies (latchedIs g x) (s.inboundMem atf r) := by
  have hcount : latchedIs g x (s.countRequest r.sid (reqPasid r) atf.toNat) :=
    h.of_latched_eq (s.countRequest_deviceEffect _ _ _).latched
  unfold State.inboundMem
  refine iteInduction (fun _ => nextSatisfies_next (hcount.of_latched_eq rfl)) fun _ => ?_
  split
  next hdecode => exact h.exec (leavesLatched_of_deviceMessage (decodeMem_deviceMessage hdecode))
  · exact nextSatisfies_next (hcount.of_latched_eq rfl)
  · exact iteInduction (fun _ => h.turnAway r) fun _ =>
      iteInduction (fun _ => h.exec fun _ _ => rfl) fun _ => h.runPieces atf _
  · exact h.turnAway r
  · exact hcount.turnAway r

theorem inbound (h : latchedIs g x s) (raw : Raw) : nextSatisfies (latchedIs g x) (s.inbound raw) := by
  cases raw with
  | mem atf r => exact h.inboundMem atf r
  | page m => exact h.runWord_other (.page m) (by rintro a b ⟨⟩)
  | completion sid vec cc => exact h.runWord_other (.completion sid vec cc) (by rintro a b ⟨⟩)
  | _ => exact nextSatisfies_next (h.of_latched_eq rfl)

/-- The oldest pending command completes. -/
theorem completeOldest (h : latchedIs g x s) (hdone : ∀ i, s.completes i → leavesLatched g i) :
    nextSatisfies (latchedIs g x) s.completeOldest := by
  unfold State.completeOldest
  split
  · exact nextSatisfies_next h
  next p rest hpend =>
    refine iteInduction (fun _ => nextSatisfies_refused _ _) fun _ => nextSatisfies_next ?_
    unfold finishCmd
    split
    next hcmd => exact latchedIs.finishInstr (s := { s with pendCmds := rest }) (h.of_latched_eq rfl) (hdone _ ⟨p, rest, hpend, hcmd⟩) p
    · exact h.of_latched_eq rfl

/-- Every event but a reset: the commands it can run are those of a GCMD_REG write and of the oldest pending one. -/
theorem process (h : latchedIs g x s) {e : Event} (hreset : ∀ pg, e ≠ .reset pg)
    (hgcmd : ∀ v, writesGcmd s.plat e v → ∀ i ∈ decodeGcmd (gstsWord s.gsts) v, leavesLatched g i)
    (hdone : e = .complete → ∀ i, s.completes i → leavesLatched g i) : nextSatisfies (latchedIs g x) (s.process e) := by
  have hkept : ∀ {t : State}, t.latched = s.latched → nextSatisfies (latchedIs g x) (.next t) := fun e =>
    nextSatisfies_next (h.of_latched_eq e)
  cases e with
  | softWrite off width v => exact h.softWrite fun hoff => hgcmd _ (.inl ⟨width, v, by rw [hoff], rfl⟩)
  | softRead off width => exact h.softRead off width
  | softLocked => exact nextSatisfies_refused _ _
  | memStore a bs => exact h.memStore fun ha => hgcmd _ (.inr ⟨bs, by rw [ha], rfl⟩)
  | memLoad a n => exact iteInduction (fun _ => h.softRead _ n) fun _ => nextSatisfies_next h
  | iqTurn => exact h.iqTurn
  | device raw => exact h.inbound raw
  | prqWrite w => exact h.runWord_other (.prqDsc w) (by rintro a b ⟨⟩)
  | devTlbTimeout k => exact hkept (s.devTlbTimeout_latched k)
  | complete => exact h.completeOldest (hdone rfl)
  | commit n => exact hkept (s.commitNth_deviceEffect n).latched
  | accept n => exact hkept (s.acceptNth_deviceEffect n).latched
  | evict c n => exact hkept (by cases c <;> rfl)
  | drainStore =>
    obtain ⟨m, b, hdrain⟩ := s.drainStore_frame
    exact hkept (by rw [hdrain]; rfl)
  | readCompletion sid => exact hkept (s.acceptWhere_deviceEffect _).latched
  | release => exact hkept s.releaseAll_latched
  | perfPulse g e n => exact hkept (s.perfPulse_deviceEffect g e n).latched
  | reset p => exact absurd rfl (hreset p)

end latchedIs

/-! ## The four parts -/

theorem leavesLatched_root {i : Instr} (h : i ≠ .gcmdSrtp) : leavesLatched Latched.root i := by
  intro l p
  cases i
  case gcmdSrtp => exact absurd rfl h
  all_goals rfl

theorem leavesLatched_irt {i : Instr} (h : i ≠ .gcmdSirtp) : leavesLatched Latched.irt i := by
  intro l p
  cases i
  case gcmdSirtp => exact absurd rfl h
  all_goals rfl

theorem leavesLatched_tes {i : Instr} (hon : i ≠ .gcmdTeEnable) (hoff : i ≠ .gcmdTeDisable) :
    leavesLatched Latched.tes i := by
  intro l p
  cases i
  case gcmdTeEnable => exact absurd rfl hon
  case gcmdTeDisable => exact absurd rfl hoff
  all_goals rfl

theorem leavesLatched_ires {i : Instr} (hon : i ≠ .gcmdIreEnable) (hoff : i ≠ .gcmdIreDisable) :
    leavesLatched Latched.ires i := by
  intro l p
  cases i
  case gcmdIreEnable => exact absurd rfl hon
  case gcmdIreDisable => exact absurd rfl hoff
  all_goals rfl

/-! The bits of a GCMD_REG write that ask for the six commands (41 R950). -/

section
variable {a v : BitVec 32} {i : Instr}

theorem ne_srtp_of_mem_decodeGcmd (h : bitAt v 30 = false) (hi : i ∈ decodeGcmd a v) : i ≠ .gcmdSrtp := by
  rintro rfl
  simp [decodeGcmd, eq_ite_iff, h] at hi

theorem ne_sirtp_of_mem_decodeGcmd (h : bitAt v 24 = false) (hi : i ∈ decodeGcmd a v) : i ≠ .gcmdSirtp := by
  rintro rfl
  simp [decodeGcmd, eq_ite_iff, h] at hi

theorem ne_te_of_mem_decodeGcmd (h : bitAt v 31 = bitAt a 31) (hi : i ∈ decodeGcmd a v) :
    i ≠ .gcmdTeEnable ∧ i ≠ .gcmdTeDisable := by
  constructor <;> rintro rfl <;> simp [decodeGcmd, eq_ite_iff, h] at hi

theorem ne_ire_of_mem_decodeGcmd (h : bitAt v 25 = bitAt a 25) (hi : i ∈ decodeGcmd a v) :
    i ≠ .gcmdIreEnable ∧ i ≠ .gcmdIreDisable := by
  constructor <;> rintro rfl <;> simp [decodeGcmd, eq_ite_iff, h] at hi

end

theorem bitAt_gstsWord_tes (g : Gsts) : bitAt (gstsWord g) 31 = g.tes := by
  simp [bitAt_gstsWord]

theorem bitAt_gstsWord_ires (g : Gsts) : bitAt (gstsWord g) 25 = g.ires := by
  simp [bitAt_gstsWord]

/-- Settles O11: what is latched moves by the completion of a command alone, each part by its own commands, and a step runs only
the commands of its event. -/
theorem onlyCommandsMovePointers : Obligations.OnlyCommandsMovePointers := by
  refine ⟨fun i s t hexec => ?_, fun s t hnone hstep => ?_, fun s t u c e hnext hreset hstep => ?_⟩
  · have hkept : ∀ {α : Type} (g : Latched → α), leavesLatched g i → g t.latched = g s.latched := fun g hi =>
      latchedIs.exec (g := g) rfl hi t hexec
    exact ⟨fun h => hkept _ (leavesLatched_root h), fun h => hkept _ (leavesLatched_irt h),
      fun hon hoff => hkept _ (leavesLatched_tes hon hoff), fun hon hoff => hkept _ (leavesLatched_ires hon hoff)⟩
  · have hiq : step s = ({ s with choice := Choice.plain } : State).iqTurn := by rw [step, hnone]
    rw [hiq] at hstep
    have hturn : t.latched = s.latched :=
      latchedIs.iqTurn (g := id) (x := s.latched) (s := { s with choice := Choice.plain }) rfl t hstep
    exact ⟨congrArg Latched.root hturn, congrArg Latched.irt hturn, congrArg Latched.tes hturn, congrArg Latched.ires hturn⟩
  · rw [step_of_nextEvent hnext] at hstep
    have hkept : ∀ {α : Type} (g : Latched → α),
        (∀ v, writesGcmd u.plat e v → ∀ i ∈ decodeGcmd (gstsWord u.gsts) v, leavesLatched g i) →
        (e = .complete → ∀ i, u.completes i → leavesLatched g i) → g t.latched = g u.latched := fun g hgcmd hdone =>
      latchedIs.process (g := g) rfl hreset hgcmd hdone t hstep
    refine ⟨fun hbit hpend => ?_, fun hbit hpend => ?_, fun hbit hpend => ?_, fun hbit hpend => ?_⟩
    · exact hkept Latched.root (fun v hv i hi => leavesLatched_root (ne_srtp_of_mem_decodeGcmd (hbit v hv) hi))
        fun he i hi => leavesLatched_root fun h => hpend he (h ▸ hi)
    · exact hkept Latched.irt (fun v hv i hi => leavesLatched_irt (ne_sirtp_of_mem_decodeGcmd (hbit v hv) hi))
        fun he i hi => leavesLatched_irt fun h => hpend he (h ▸ hi)
    · refine hkept Latched.tes (fun v hv i hi => ?_) fun he i hi => ?_
      · have hte := ne_te_of_mem_decodeGcmd ((hbit v hv).trans (bitAt_gstsWord_tes u.gsts).symm) hi
        exact leavesLatched_tes hte.1 hte.2
      · exact leavesLatched_tes (fun h => (hpend he).1 (h ▸ hi)) fun h => (hpend he).2 (h ▸ hi)
    · refine hkept Latched.ires (fun v hv i hi => ?_) fun he i hi => ?_
      · have hire := ne_ire_of_mem_decodeGcmd ((hbit v hv).trans (bitAt_gstsWord_ires u.gsts).symm) hi
        exact leavesLatched_ires hire.1 hire.2
      · exact leavesLatched_ires (fun h => (hpend he).1 (h ▸ hi)) fun h => (hpend he).2 (h ▸ hi)

end Sys2Proof.Machine
end

section
/-! O25 to O29 and O32: the commands of GCMD_REG, PMEN_REG and the write buffer (41 R951 to R964, R980). A command that is not deferred
completes in the step that submits it (`State.submit_atOnce`). -/

namespace Sys2Proof.Machine

/-! ## Submit -/

/-- A command of the opcode table that is not deferred completes, with the pointer registers as they stand. -/
theorem State.submit_atOnce {s : State} (h : s.atOnce) (i : Instr) :
    s.submit i = finishInstr { cmd := .instr i, root := s.rtaddr, irt := s.irta } s i := State.submitAny_atOnce h _

/-- A command of the opcode table that is deferred waits. -/
theorem State.submit_deferred {s : State} (h : s.choice.defer = true) (i : Instr) : s.submit i = s.pended i :=
  State.submitAny_deferred h _

/-! ## Translation and root table pointer (41 R951 to R955) -/

/-- A drain of everything takes every request in flight to its destination. -/
theorem State.drainAll_observed (s : State) : observedAll s.inFlight { s with inFlight := [] } s.drainAll := by
  simpa [State.drainAll] using s.drainWhere_observed fun _ => true

/-- A choice of states that differ in one field is the choice of that field. -/
theorem State.ite_invalidateAllDma (s : State) (b : Bool) :
    (if b then s.invalidateAllDma else s) = { s with
      caches := if b = true then { s.caches with ctx := [], pasid := [], iotlb := [], psc := [] } else s.caches } := by
  cases b <;> rfl

theorem State.ite_invalidateAllIec (s : State) (b : Bool) :
    (if b then s.invalidateAllIec else s) = { s with
      caches := if b = true then { s.caches with iec := [] } else s.caches } := by
  cases b <;> rfl

/-- The fault index is 0 again once both remappings are disabled (60 R1370). -/
theorem State.resetFaultIdx_eq (s : State) :
    s.resetFaultIdx = { s with faultIdx := if (s.gsts.tes || s.gsts.ires) = true then s.faultIdx else 0 } := by
  unfold State.resetFaultIdx
  split <;> rfl

theorem State.finishTeDisable_eq (s : State) : s.finishTeDisable = { s with
    gsts := { s.gsts with tes := false }
    caches := if s.caps.smts = true then { s.caches with ctx := [], pasid := [], iotlb := [], psc := [] } else s.caches
    faultIdx := if s.gsts.ires = true then s.faultIdx else 0 } := by
  rw [State.finishTeDisable, State.ite_invalidateAllDma, State.resetFaultIdx_eq]
  rfl

theorem State.finishSrtp_eq (s : State) (p : RootPtr) : s.finishSrtp p = { s with
    latchedRt := p, gsts := { s.gsts with rtps := true }
    caches := if s.caps.esrtps = true then { s.caches with ctx := [], pasid := [], iotlb := [], psc := [] }
              else s.caches } := by
  rw [State.finishSrtp, State.ite_invalidateAllDma]

theorem State.finishIreEnable_eq (s : State) : s.finishIreEnable = { s with
    gsts := { s.gsts with ires := true }, intrFlight := []
    out := (s.intrFlight.map (fun d => Out.interrupt d.msg)).reverse ++ s.out } := by
  rw [State.finishIreEnable, State.drainInterrupts_eq]

theorem State.finishIreDisable_eq (s : State) : s.finishIreDisable = { s with
    gsts := { s.gsts with ires := false }
    caches := if s.caps.esirtps = true then { s.caches with iec := [] } else s.caches
    faultIdx := if s.gsts.tes = true then s.faultIdx else 0 } := by
  rw [State.finishIreDisable, State.ite_invalidateAllIec, State.resetFaultIdx_eq]
  simp

theorem State.finishSirtp_eq (s : State) (p : IrtPtr) : s.finishSirtp p = { s with
    latchedIr := p, gsts := { s.gsts with irtps := true }
    caches := if s.caps.esirtps = true then { s.caches with iec := [] } else s.caches } := by
  rw [State.finishSirtp, State.ite_invalidateAllIec]

/-- Settles O25: the command completes in its step, and its completion is a drain and TES, or TES, the caches and the index. -/
theorem translationEnableDisable : Obligations.TranslationEnableDisable := by
  refine ⟨fun s honce => ⟨s.drainAll, s.drainAll_observed, ?_⟩, fun s honce => ?_⟩
  · exact congrArg Host.Outcome.next (State.submit_atOnce honce .gcmdTeEnable)
  · exact congrArg Host.Outcome.next ((State.submit_atOnce honce .gcmdTeDisable).trans s.finishTeDisable_eq)

/-- A Set Root Table Pointer is refused for a change of mode while translation is on and caches of the old mode are left, on a
unit that does not empty them itself (70 R1483). -/
theorem ttmHazard_srtp_iff {s : State} {p : PendCmd} (h : p.cmd = .instr .gcmdSrtp) :
    ttmHazard s p = true ↔ ¬ (s.gsts.tes = false ∨ s.caps.esrtps = true ∨ p.root.ttm = s.latchedRt.ttm ∨
      (s.caches.ctx = [] ∧ s.caches.pasid = [] ∧ s.caches.iotlb = [] ∧ s.caches.psc = [])) := by
  simp only [ttmHazard, h, beq_self_eq_true, Bool.true_and, Bool.and_eq_true, Bool.not_eq_true', bne_iff_ne,
    Bool.and_eq_false_iff, List.isEmpty_eq_false_iff, not_or, not_and_or, Bool.not_eq_false, Bool.not_eq_true, and_assoc,
    or_assoc, ne_eq]

theorem ttmHazard_other {s : State} {p : PendCmd} (h : p.cmd ≠ .instr .gcmdSrtp) : ttmHazard s p = false := by
  simp [ttmHazard, h]

/-- RTPS is set whatever it was. -/
theorem State.finishSrtp_of_rtps (s : State) (b : Bool) (p : RootPtr) :
    ({ s with gsts := { s.gsts with rtps := b } } : State).finishSrtp p = s.finishSrtp p := by
  rw [State.finishSrtp_eq, State.finishSrtp_eq]

/-- IRTPS is set whatever it was. -/
theorem State.finishSirtp_of_irtps (s : State) (b : Bool) (p : IrtPtr) :
    ({ s with gsts := { s.gsts with irtps := b } } : State).finishSirtp p = s.finishSirtp p := by
  rw [State.finishSirtp_eq, State.finishSirtp_eq]

/-- Settles O26: the command is refused exactly under `ttmHazard`, and completes otherwise. -/
theorem setRootTablePointer : Obligations.SetRootTablePointer := by
  intro s honce
  have hnow : s.choice.defer = false := honce
  have hazard := ttmHazard_srtp_iff (s := s) (p := { cmd := .instr .gcmdSrtp, root := s.rtaddr, irt := s.irta }) rfl
  refine ⟨fun hfine => ?_, fun hbad => if_pos (by simpa [hnow] using hazard.2 hbad)⟩
  have hsafe := Bool.eq_false_iff.2 (mt hazard.1 (not_not_intro hfine))
  rw [← s.finishSrtp_eq, ← s.finishSrtp_of_rtps false]
  exact (if_neg (by simp [hsafe])).trans
    (congrArg Host.Outcome.next (State.submit_atOnce (s := { s with gsts := { s.gsts with rtps := false } }) honce .gcmdSrtp))

/-! ## The queue and interrupt remapping (41 R958 to R960, R964) -/

/-- A command that only a unit with the function takes completes at once. -/
theorem next_supported_atOnce {b : Bool} (h : b = true) (s : State) {u : State} (honce : u.atOnce) (i : Instr) :
    (.next (if b then u.submit i else s) : Result) =
      .next (finishInstr { cmd := .instr i, root := u.rtaddr, irt := u.irta } u i) := by
  rw [if_pos h, State.submit_atOnce honce]

/-- Settles O27: each command completes in its step, by the equation of its completion. -/
theorem queueAndInterruptCommands : Obligations.QueueAndInterruptCommands := by
  refine ⟨fun s honce hqi => ⟨?_, ?_⟩, fun s honce hir => ⟨?_, ?_, ?_, ?_, ?_⟩⟩
  · exact next_supported_atOnce hqi s honce .gcmdQieEnable
  · exact next_supported_atOnce hqi s honce .gcmdQieDisable
  · rw [← s.finishIreEnable_eq]
    exact next_supported_atOnce hir s honce .gcmdIreEnable
  · rw [← s.finishIreDisable_eq]
    exact next_supported_atOnce hir s honce .gcmdIreDisable
  · rw [← s.finishSirtp_eq, ← s.finishSirtp_of_irtps false]
    exact next_supported_atOnce hir s (u := { s with gsts := { s.gsts with irtps := false } }) honce .gcmdSirtp
  · exact next_supported_atOnce hir s honce .gcmdCfiSet
  · exact next_supported_atOnce hir s honce .gcmdCfiClear

/-! ## Functions that the unit lacks (41 R950, R980) -/

/-- A command whose function the unit lacks changes nothing. -/
theorem next_unsupported {b : Bool} (h : b = false) (s t : State) : (.next (if b then t else s) : Result) = .next s := by
  rw [h, if_neg Bool.false_ne_true]

theorem hasPmr_eq_true_iff {c : Caps} : hasPmr c = true ↔ c.plmr = true ∨ c.phmr = true := Bool.or_eq_true_iff

/-- Settles O29: each command asks for its function first. -/
theorem unsupportedCommandIgnored : Obligations.UnsupportedCommandIgnored := by
  intro s
  refine ⟨fun h => ?_, fun h => ⟨?_, ?_⟩, fun h => ⟨?_, ?_, ?_, ?_, ?_⟩, fun hlow hhigh => ?_⟩
  · exact next_unsupported h s _
  · exact next_unsupported h s _
  · exact next_unsupported h s _
  · exact next_unsupported h s _
  · exact next_unsupported h s _
  · exact next_unsupported h s _
  · exact next_unsupported h s _
  · exact next_unsupported h s _
  · have hnone : hasPmr s.caps = false := Bool.or_eq_false_iff.2 ⟨hlow, hhigh⟩
    exact ⟨next_unsupported hnone s _, next_unsupported hnone s _⟩

/-! ## Protected memory (41 R980) -/

/-- PMEN_REG.EPM stored. -/
def State.epmStored (s : State) (v : Bool) : State := { s with pmr := { s.pmr with epm := v } }

/-- A write of EPM that differs from PRS submits its command (R980). -/
theorem next_writeEpm {s : State} (hpmr : s.caps.plmr = true ∨ s.caps.phmr = true) {v : Bool} (hprs : s.pmr.prs ≠ v)
    (i : Instr) : (.next (if hasPmr s.caps then s.writeEpm v i else s) : Result) = .next ((s.epmStored v).submit i) := by
  rw [if_pos (hasPmr_eq_true_iff.2 hpmr), State.writeEpm, if_neg (by simpa using hprs)]
  rfl

/-- Settles O32: a write compares with PRS, and what it submits completes in its step. -/
theorem protectedMemoryEnable : Obligations.ProtectedMemoryEnable := by
  intro s hpmr
  have hexec : ∀ {v i}, s.pmr.prs = v →
      (.next (if hasPmr s.caps then s.writeEpm v i else s) : Result) = .next (s.epmStored v) := fun h => by
    rw [if_pos (hasPmr_eq_true_iff.2 hpmr), State.writeEpm, if_pos (by simp [h])]
    rfl
  refine ⟨fun honce hoff => ⟨_, ?_, State.drainAll_observed (s.epmStored true)⟩, fun hon => hexec hon, fun honce hon => ?_,
    fun hoff => hexec hoff⟩
  · exact (next_writeEpm hpmr (by simp [hoff]) .pmenEpmEnable).trans
      (congrArg Host.Outcome.next (State.submit_atOnce (s := s.epmStored true) honce .pmenEpmEnable))
  · exact (next_writeEpm hpmr (by simp [hon]) .pmenEpmDisable).trans
      (congrArg Host.Outcome.next (State.submit_atOnce (s := s.epmStored false) honce .pmenEpmDisable))

/-! ## The write buffer (41 R962; 20 R535) -/

/-- A range of memory is no part of the register pages (10 R111). -/
theorem not_inRegs_of_rangeIsMemory {p : Platform} {a n : Nat} (hn : 0 < n) (h : rangeIsMemory p a n = true) :
    p.inRegs a n = false := by
  simp only [rangeIsMemory, overlap, Bool.and_eq_true, Bool.not_eq_true', Bool.and_eq_false_iff, decide_eq_false_iff_not] at h
  obtain ⟨⟨-, hregs⟩, -⟩ := h
  simp only [Platform.inRegs, Bool.and_eq_false_iff, decide_eq_false_iff_not]
  omega

/-- A store to memory that waits in the write buffer waits in its pieces (20 R535). -/
theorem State.memStore_buffered {s : State} {a : Nat} {bs : List Byte} (hbuffer : s.caps.rwbf = true)
    (hdefer : s.choice.defer = true) (hlen : 0 < bs.length) (hmem : rangeIsMemory s.plat a bs.length = true) :
    s.memStore a bs = .next { s with wbuf := s.wbuf ++ storePieces bs.length a bs } := by
  rw [State.memStore, not_inRegs_of_rangeIsMemory hlen hmem, hmem, State.softStore, hbuffer, hdefer]
  rfl

theorem State.drainStore_cons {s : State} {p : StorePiece} {r : List StorePiece} (h : s.wbuf = p :: r) :
    s.drainStore = { s with mem := p.write s.mem, wbuf := r } := by
  rw [State.drainStore, h]

/-- Settles O28, from the pieces of an aligned store (`storePieces_aligned`) and the flush of the write buffer. -/
theorem writeBufferFlush : Obligations.WriteBufferFlush := by
  refine ⟨fun s honce hbuffer => ?_, fun s a bs hbuffer hdefer hmem hlen halign => ?_, fun s p r hwbuf => ?_⟩
  · exact ⟨_, next_supported_atOnce hbuffer s (u := { s with gsts := { s.gsts with wbfs := true } }) honce .gcmdWbf, rfl,
      s.flush_keeps, State.flush_memoryForm (s := s)⟩
  · have hpos : 0 < bs.length := by omega
    have hdvd : bs.length ∣ 16 := by rcases hlen with h | h <;> simp [h]
    have hpiece := storePieces_aligned bs.length (a / bs.length) bs hdvd rfl (List.length_pos_iff.1 hpos)
    rw [Nat.div_mul_cancel (Nat.dvd_of_mod_eq_zero halign)] at hpiece
    exact (State.memStore_buffered hbuffer hdefer hpos hmem).trans (by rw [hpiece])
  · refine ⟨_, congrArg Host.Outcome.next (State.drainStore_cons hwbuf), rfl, fun hform => ?_, fun a hout => ?_⟩
    · exact readBytes_writeBytes hform p.addr p.data
    · exact readByte_writeBytes_outside s.mem p.addr a p.data hout

end Sys2Proof.Machine
end

section
/-! O33 to O35: the enhanced commands (41 R985 to R992). One that may complete in its step is `State.ecmdRun` on the state with
ECMD_REG stored and ECRSP_REG.IP set (`State.submitEcmd_ready`). -/

namespace Sys2Proof.Machine

/-- ECMD_REG's fields stored, ECRSP_REG cleared and IP set (R985). -/
def State.ecmdBusy (s : State) (cmd : BitVec 8) (oa : BitVec 48) : State :=
  { s with ecmd := { s.ecmd with oa := oa, cmd := cmd, rslt := 0, sc := 0, ip := true } }

/-- Submit of an enhanced command while none is in progress. -/
theorem State.submitEcmd_of_idle {s : State} (hecmds : s.caps.ecmds = true) (hidle : s.ecmd.ip = false) (i : Instr)
    (cmd : BitVec 8) (oa : BitVec 48) : s.submitEcmd i cmd oa = (s.ecmdBusy cmd oa).submit i :=
  if_neg (by simp [hecmds, hidle])

/-- An enhanced command that is neither deferred nor aborted completes, and answers status 1 unless ECCAP_REG_1 reports it. -/
theorem State.submitEcmd_ready {s : State} (h : s.ecmdReady) {i : Instr} {cmd : BitVec 8} {oa : BitVec 48} {n : Nat}
    {act : State → State × BitVec 7} (hi : ∀ p t, finishInstr p t i = t.ecmdRun n act) :
    s.submitEcmd i cmd oa =
      if bitAt s.caps.eccap1 (n - 128) = true then (act (s.ecmdBusy cmd oa)).1.ecmdDone (act (s.ecmdBusy cmd oa)).2
      else (s.ecmdBusy cmd oa).ecmdDone 1 := by
  obtain ⟨hecmds, hidle, honce, hgcmd⟩ := h
  have hgo : (s.ecmdBusy cmd oa).pendCmds.any PendCmd.abortsEcmd ≠ true := by
    rw [show (s.ecmdBusy cmd oa).pendCmds.any PendCmd.abortsEcmd = false from hgcmd]
    exact Bool.false_ne_true
  rw [State.submitEcmd_of_idle hecmds hidle, State.submit_atOnce (s := s.ecmdBusy cmd oa) honce, hi, State.ecmdRun, if_neg hgo]
  cases hbit : bitAt s.caps.eccap1 (n - 128)
  · exact if_pos (by rw [show bitAt (s.ecmdBusy cmd oa).caps.eccap1 (n - 128) = false from hbit]; rfl)
  · exact if_neg (by rw [show bitAt (s.ecmdBusy cmd oa).caps.eccap1 (n - 128) = true from hbit]; exact Bool.false_ne_true)

/-- A command that ECCAP_REG_1 reports answers what its action answers. -/
theorem State.submitEcmd_reported {s : State} (h : s.ecmdReady) {i : Instr} {cmd : BitVec 8} {oa : BitVec 48} {n : Nat}
    {act : State → State × BitVec 7} (hi : ∀ p t, finishInstr p t i = t.ecmdRun n act)
    (hbit : bitAt s.caps.eccap1 (n - 128) = true) {t u : State} {sc : BitVec 7} (hact : act (s.ecmdBusy cmd oa) = (t, sc))
    (hu : t.ecmdDone sc = u) : (.next (s.submitEcmd i cmd oa) : Result) = .next u := by
  rw [State.submitEcmd_ready h hi, if_pos hbit, hact, hu]

/-- A command that ECCAP_REG_1 does not report answers status 1. -/
theorem State.submitEcmd_unreported {s : State} (h : s.ecmdReady) {i : Instr} {cmd : BitVec 8} {oa : BitVec 48} {n : Nat}
    {act : State → State × BitVec 7} (hi : ∀ p t, finishInstr p t i = t.ecmdRun n act)
    (hbit : bitAt s.caps.eccap1 (n - 128) = false) :
    (.next (s.submitEcmd i cmd oa) : Result) = .next ((s.ecmdBusy cmd oa).ecmdDone 1) := by
  rw [State.submitEcmd_ready h hi, if_neg (by rw [hbit]; exact Bool.false_ne_true)]

/-- The enable checks read the counters and the capabilities, not ECMD_REG. -/
theorem perfEnableChecks_ecmdBusy (s : State) (cmd : BitVec 8) (oa : BitVec 48) (k : Nat) :
    perfEnableChecks (s.ecmdBusy cmd oa) k = perfEnableChecks s k := rfl

/-- Settles O33: each command is reported, so its action decides (`State.submitEcmd_reported`). -/
theorem enhancedCounterCommands : Obligations.EnhancedCounterCommands := by
  refine ⟨fun s c hready hbit => ⟨fun hchecks => ?_, fun hchecks => ?_⟩, fun s oa hready => ⟨fun hbit => ?_, fun hbit => ?_⟩,
    fun s oa hready => ⟨fun hbit => ?_, fun hbit => ?_⟩⟩
  · exact State.submitEcmd_reported hready (n := 240) (fun _ _ => rfl) hbit
      (if_pos ((perfEnableChecks_ecmdBusy s 240 c _).trans hchecks)) rfl
  · exact State.submitEcmd_reported hready (n := 240) (fun _ _ => rfl) hbit
      (if_neg (Bool.eq_false_iff.1 ((perfEnableChecks_ecmdBusy s 240 c _).trans hchecks))) rfl
  · exact State.submitEcmd_reported hready (n := 242) (fun _ _ => rfl) hbit rfl rfl
  · exact State.submitEcmd_reported hready (n := 243) (fun _ _ => rfl) hbit rfl rfl
  · exact State.submitEcmd_reported hready (n := 244) (fun _ _ => rfl) hbit rfl rfl
  · exact State.submitEcmd_reported hready (n := 245) (fun _ _ => rfl) hbit rfl rfl

/-- Settles O34: the command is reported, and its action compares the number with the count of counters. -/
theorem enhancedDisable : Obligations.EnhancedDisable := by
  intro s c hready _ hbit
  exact ⟨fun hout =>
      State.submitEcmd_reported hready (n := 241) (fun _ _ => rfl) hbit (if_pos hout) rfl,
    fun hin =>
      State.submitEcmd_reported hready (n := 241) (fun _ _ => rfl) hbit (if_neg (Nat.not_le.2 hin)) rfl⟩

/-- Settles O35: an unreported command answers status 1, and so does a reserved one whether or not it counts as reported. -/
theorem enhancedReserved : Obligations.EnhancedReserved := by
  intro s oa hready _
  refine ⟨fun cmd _ => ?_, fun hbit => ?_, fun hbit => ?_, fun hbit => ?_, fun hbit => ?_, fun hbit => ?_, fun hbit => ?_⟩
  · exact congrArg Host.Outcome.next ((State.submitEcmd_ready hready (n := 0) fun _ _ => rfl).trans (ite_self _))
  · exact State.submitEcmd_unreported hready (n := 240) (fun _ _ => rfl) hbit
  · exact State.submitEcmd_unreported hready (n := 241) (fun _ _ => rfl) hbit
  · exact State.submitEcmd_unreported hready (n := 242) (fun _ _ => rfl) hbit
  · exact State.submitEcmd_unreported hready (n := 243) (fun _ _ => rfl) hbit
  · exact State.submitEcmd_unreported hready (n := 244) (fun _ _ => rfl) hbit
  · exact State.submitEcmd_unreported hready (n := 245) (fun _ _ => rfl) hbit

end Sys2Proof.Machine
end

section
/-! O5: command words and messages run as instructions (41 R950, R965, R998; 42 R1000). -/

namespace Sys2Proof.Machine

/-! ## Command words -/

theorem andThen_next (r : Result) : andThen r .next = r := by
  cases r <;> rfl

/-- A word of one command runs it. -/
theorem runAll_singleton (i : Instr) (s : State) : runAll [i] s = exec i s := andThen_next _

/-- A word that decodes runs its commands one after another (93 U3, log 20). -/
theorem runWord_of_decode {raw : Raw} {is : List Instr} (h : decode raw = .ok is) (s : State) : runWord raw s = runAll is s := by
  rw [runWord, h]

theorem runWord_of_decode_singleton {raw : Raw} {i : Instr} (h : decode raw = .ok [i]) (s : State) :
    runWord raw s = exec i s := by
  rw [runWord_of_decode h, runAll_singleton]

/-- A doubleword write of a register that takes it, when what it writes is a command word (R965). -/
theorem State.softWrite4_of_command {s : State} {off : Nat} {v : BitVec 32} {raw : Raw} (htakes : writeRefusal s off v = none)
    (hcmd : commandWord s off v = some raw) : s.softWrite4 off v = runWord raw s := by
  rw [State.softWrite4, htakes, hcmd]

/-- An aligned doubleword write to the register pages (10 R113). -/
theorem State.softWrite_four {s : State} {off : Nat} (halign : off % 4 = 0) (hin : off < s.plat.regBytes) (v : BitVec 64) :
    s.softWrite off 4 v = s.softWrite4 off (loWord v) := by
  simp [State.softWrite, accessOk, halign, Nat.not_le.2 hin]

/-! ## Messages -/

/-- A memory request of a device runs as the instruction that it decodes to (R1000). -/
theorem State.inboundMem_of_decode {s : State} {atf : BitVec 2} {r : MemReq} {i : Instr} (hlen : tooLong s atf r = false)
    (hdec : decodeMem atf r = .ok i) : s.inboundMem atf r = exec i s := by
  rw [State.inboundMem, hlen, hdec]
  rfl

/-- Settles O5: each event takes its word to `runWord`, or its message to the decoder of messages. -/
theorem stepRunsCommandsAndMessages : Obligations.StepRunsCommandsAndMessages := by
  refine ⟨fun s u c off v raw hnext halign hin htakes hcmd => ?_,
    fun s u c => ⟨fun atf r i hnext hlen hdec => ?_, fun m hnext => ?_, fun sid vec cc hnext => ?_, fun sid hnext => ?_,
      fun w i hnext hdec => ?_⟩⟩
  · have hrun : step s = runWord raw u := by
      rw [step_of_nextEvent hnext]
      exact (State.softWrite_four halign hin v).trans (State.softWrite4_of_command htakes hcmd)
    exact ⟨fun i hdec => hrun.trans (runWord_of_decode_singleton hdec u), fun is hdec => hrun.trans (runWord_of_decode hdec u)⟩
  · exact (step_of_nextEvent hnext).trans (State.inboundMem_of_decode hlen hdec)
  · exact (step_of_nextEvent hnext).trans (runWord_of_decode_singleton (raw := .page m) rfl u)
  · exact (step_of_nextEvent hnext).trans (runWord_of_decode_singleton (raw := .completion sid vec cc) rfl u)
  · exact step_of_nextEvent hnext
  · exact (step_of_nextEvent hnext).trans (runWord_of_decode_singleton hdec u)

end Sys2Proof.Machine
end

section
/-! O30 and O31: the register-based invalidations (41 R970 to R974). Each completes in its step, on the state with its register
stored; an incorrect request only reports, and any other flushes, removes its scope at the granularity that it reports, and the
IOTLB's then drains. -/

namespace Sys2Proof.Machine

/-! ## The tests and the granularities -/

/-- The requests that are ignored (R970, R972, R974; 92 D6, D15, D26). -/
theorem registerInvalidationBad_iff {s : State} {gran : BitVec 2} :
    registerInvalidationBad s gran = true ↔ 6 ≤ s.caps.verMax ∨ s.latchedRt.ttm ≠ 0 ∨ gran = 0 ∨ s.gsts.qies = true := by
  simp [registerInvalidationBad, or_assoc]

theorem ivaMaskBad_iff {s : State} :
    ivaMaskBad s = true ↔ s.iotlbReg.iirg = 3 ∧ s.caps.psi = true ∧ s.caps.mamv < s.iva.am.toNat := by
  simp [ivaMaskBad, and_assoc]

/-- Legacy mode is not scalable mode. -/
theorem scalable_of_ttm_zero {s : State} (h : s.latchedRt.ttm = 0) : s.scalable = false := by
  rw [State.scalable, h]
  rfl

theorem State.one_le_granularity (s : State) (g : Nat) : 1 ≤ s.granularity g := le_max_left _ _

/-- A granularity up to 3 stands in the two bits that report it. -/
theorem toNat_ofNat_granularity {s : State} {g : Nat} (hlow : 1 ≤ g) (hhigh : g ≤ 3) :
    (BitVec.ofNat 2 (s.granularity g)).toNat = s.granularity g :=
  (BitVec.toNat_ofNat _ _).trans (Nat.mod_eq_of_lt (Nat.lt_succ_of_le ((s.granularity_le hlow).trans hhigh)))

theorem iotlbFinest_le (s : State) : iotlbFinest s ≤ s.iotlbReg.iirg.toNat := by
  unfold iotlbFinest
  split
  · exact le_rfl
  · exact min_le_left _ _

theorem one_le_iotlbFinest {s : State} (h : s.iotlbReg.iirg ≠ 0) : 1 ≤ iotlbFinest s := by
  unfold iotlbFinest
  split
  · exact one_le_toNat h
  · exact le_min (one_le_toNat h) (by decide)

/-! ## CCMD_REG (R970) -/

/-- CCMD_REG with ICC set and a request stored. -/
def State.ccmdAsked (s : State) (cirg : BitVec 2) (sid : SourceId) (did : DomainId) (fm : BitVec 2) : State :=
  { s with ccmd := { s.ccmd with icc := true, cirg := cirg, sid := sid, did := did, fm := fm } }

/-- An incorrect request is ignored and reported. -/
theorem State.finishCcmd_bad {s : State} (h : registerInvalidationBad s s.ccmd.cirg = true) :
    s.finishCcmd = { s with ccmd := { s.ccmd with icc := false, caig := 0 } } := if_pos h

/-- A correct request flushes, and removes its scope at the granularity that it reports. -/
theorem State.finishCcmd_fine {s : State} (h : registerInvalidationBad s s.ccmd.cirg = false) {g : Nat}
    (hg : g = s.granularity s.ccmd.cirg.toNat) {scal : Bool} (hscal : s.scalable = scal) :
    ∃ m b, s.finishCcmd = { s with
        ccmd := { s.ccmd with icc := false, caig := BitVec.ofNat 2 g }
        caches := { s.caches with ctx := s.caches.ctx.filter (fun e =>
          !ctxMatches scal g (s.caps.maskDid s.ccmd.did) s.ccmd.sid s.ccmd.fm e) }
        mem := m, wbuf := b } ∧
      ∀ t : State, t.mem = m → t.wbuf = b → flushed s t := by
  obtain ⟨m, b, hflush, hflushed⟩ := s.implicitFlush_eq s.iq
  have hflush : s.implicitFlush = { s with mem := m, wbuf := b } := hflush
  refine ⟨m, b, ?_, hflushed⟩
  rw [State.finishCcmd, if_neg (by rw [h]; exact Bool.false_ne_true), hflush, ← hg, ← hscal]
  rfl

/-- Settles O30: the granularity reported is the one carried out, between 1 and the one asked for. -/
theorem contextCommand : Obligations.ContextCommand := by
  intro s cirg sid did fm honce
  have hexec : exec (.ccmdIcc cirg sid did fm) s = .next (s.ccmdAsked cirg sid did fm).finishCcmd :=
    congrArg Host.Outcome.next (State.submit_atOnce (s := s.ccmdAsked cirg sid did fm) honce (.ccmdIcc cirg sid did fm))
  have hbad := registerInvalidationBad_iff (s := s.ccmdAsked cirg sid did fm) (gran := cirg)
  rw [hexec]
  refine ⟨fun h => congrArg Host.Outcome.next (State.finishCcmd_bad (hbad.2 h)), fun h => ?_⟩
  have hlegacy : s.latchedRt.ttm = 0 := not_not.1 fun hmode => h (.inr (.inl hmode))
  have hlow : 1 ≤ cirg.toNat := one_le_toNat fun hzero => h (.inr (.inr (.inl hzero)))
  have hgran : (BitVec.ofNat 2 (s.granularity cirg.toNat)).toNat = s.granularity cirg.toNat :=
    toNat_ofNat_granularity hlow (toNat_le_three cirg)
  obtain ⟨m, b, hdone, hflushed⟩ := State.finishCcmd_fine (Bool.eq_false_iff.2 (mt hbad.1 h))
    (g := s.granularity cirg.toNat) rfl (scalable_of_ttm_zero hlegacy)
  refine ⟨_, congrArg Host.Outcome.next hdone, rfl, ?_, ?_, ?_, hflushed _ rfl rfl⟩
  · exact hgran.symm ▸ s.one_le_granularity _
  · exact hgran.symm ▸ s.granularity_le hlow
  · dsimp only
    rw [hgran]
    rfl

/-! ## IOTLB_REG (R972) -/

/-- IOTLB_REG with IVT set and a request stored. -/
def State.iotlbAsked (s : State) (iirg : BitVec 2) (dr dw : Bool) (did : DomainId) : State :=
  { s with iotlbReg := { s.iotlbReg with ivt := true, iirg := iirg, dr := dr, dw := dw, did := did } }

/-- A drain leaves IOTLB_REG. -/
theorem State.drainKinds_iotlbReg (s : State) (reads writes : Bool) : (s.drainKinds reads writes).iotlbReg = s.iotlbReg := by
  obtain ⟨m, b, o, n, h⟩ := s.drainWhere_frame _
  rw [State.drainKinds, h]

/-- An incorrect request is ignored and reported. -/
theorem State.finishIotlb_bad {s : State} (h : registerInvalidationBad s s.iotlbReg.iirg = true ∨ ivaMaskBad s = true) :
    s.finishIotlb = { s with iotlbReg := { s.iotlbReg with ivt := false, iaig := 0 } } := if_pos (Bool.or_eq_true_iff.2 h)

/-- A correct request flushes, removes its scope, and drains, then reports the granularity. -/
theorem State.finishIotlb_fine {s : State} (h : ¬ (registerInvalidationBad s s.iotlbReg.iirg = true ∨ ivaMaskBad s = true))
    {g : Nat} (hg : g = s.granularity (iotlbFinest s)) {reads writes : Bool}
    (hreads : reads = registerDrains s s.iotlbReg.dr s.caps.drd) (hwrites : writes = registerDrains s s.iotlbReg.dw s.caps.dwd) :
    ∃ u m b, u = State.invalidateIotlb { s with mem := m, wbuf := b } g s.iotlbReg.did s.iva.addr s.iva.am.toNat s.iva.ih ∧
      (∀ t : State, t.mem = m → t.wbuf = b → flushed s t) ∧
      s.finishIotlb = { u.drainKinds reads writes with
        iotlbReg := { s.iotlbReg with ivt := false, iaig := BitVec.ofNat 2 g } } := by
  obtain ⟨m, b, hflush, hflushed⟩ := s.implicitFlush_eq s.iq
  have hflush : s.implicitFlush = { s with mem := m, wbuf := b } := hflush
  refine ⟨_, m, b, rfl, hflushed, ?_⟩
  rw [State.finishIotlb, if_neg (mt Bool.or_eq_true_iff.1 h), hflush, ← hg, ← hreads, ← hwrites]
  dsimp only
  rw [State.drainKinds_iotlbReg]
  rfl

/-- Settles O31: the states of its conclusion are the one that the flush and the invalidation leave, without the requests
drained, and the one after the drain. -/
theorem iotlbCommand : Obligations.IotlbCommand := by
  intro s iirg dr dw did reads writes honce hreads hwrites
  have hexec : exec (.iotlbIvt iirg dr dw did) s = .next (s.iotlbAsked iirg dr dw did).finishIotlb :=
    congrArg Host.Outcome.next (State.submit_atOnce (s := s.iotlbAsked iirg dr dw did) honce (.iotlbIvt iirg dr dw did))
  have hbad : registerInvalidationBad (s.iotlbAsked iirg dr dw did) iirg = true ∨
      ivaMaskBad (s.iotlbAsked iirg dr dw did) = true ↔
      (6 ≤ s.caps.verMax ∨ s.latchedRt.ttm ≠ 0 ∨ iirg = 0 ∨ s.gsts.qies = true ∨
        (iirg = 3 ∧ s.caps.psi = true ∧ s.caps.mamv < s.iva.am.toNat)) := by
    rw [registerInvalidationBad_iff, ivaMaskBad_iff, or_assoc, or_assoc, or_assoc]
    rfl
  rw [hexec]
  refine ⟨fun h => congrArg Host.Outcome.next (State.finishIotlb_bad (hbad.2 h)), fun h => ?_⟩
  have hasked : iirg ≠ 0 := fun hzero => h (.inr (.inr (.inl hzero)))
  have hlow : 1 ≤ iotlbFinest (s.iotlbAsked iirg dr dw did) := one_le_iotlbFinest hasked
  have hgran := toNat_ofNat_granularity (s := s.iotlbAsked iirg dr dw did) hlow ((iotlbFinest_le _).trans (toNat_le_three iirg))
  obtain ⟨u, m, b, hu, hflushed, hdone⟩ := State.finishIotlb_fine (mt hbad.1 h) rfl hreads hwrites
  have hdrained := u.drainKinds_observed reads writes
  refine ⟨_, { u with inFlight := u.inFlight.filter (fun f => !drains reads writes f) }, u.drainKinds reads writes,
    congrArg Host.Outcome.next hdone, ?_⟩
  subst hu
  refine ⟨rfl, hflushed _ rfl rfl, hdrained, rfl, ?_, ?_, ?_, fun e he => ?_⟩
  · exact hgran.symm ▸ State.one_le_granularity _ _
  · exact hgran.symm ▸ State.granularity_le _ hlow
  · dsimp only
    rw [hgran]
    rfl
  · obtain ⟨hmem, hout⟩ := List.mem_filter.1 he
    dsimp only
    rw [hgran]
    exact ⟨hmem, (Bool.not_eq_true' _).mp hout⟩

end Sys2Proof.Machine
end

section
/-! O36: the virtual commands (41 R994 to R996). One that may complete in its step is its completion on the state with VCMD_REG stored
and VCRSP_REG.IP set (`State.submitVcmd_atOnce`); a quadword write stores the operand first (12 R480). -/

namespace Sys2Proof.Machine

theorem State.vcmdOpen_of_idle {s : State} (hvcs : s.caps.vcs = true) (hidle : s.vcmd.ip = false) : s.vcmdOpen = true := by
  rw [State.vcmdOpen, hvcs, hidle]
  rfl

/-- Submit of a virtual command while none is in progress. -/
theorem State.submitVcmd_of_open {s : State} (hopen : s.vcmdOpen = true) (i : Instr) (cmd : BitVec 8) (oa : BitVec 48) :
    s.submitVcmd i cmd oa = (s.vcmdBusy cmd oa).submit i := if_pos hopen

theorem State.submitVcmd_atOnce {s : State} (hopen : s.vcmdOpen = true) (honce : s.atOnce) (i : Instr) (cmd : BitVec 8)
    (oa : BitVec 48) : s.submitVcmd i cmd oa =
      finishInstr { cmd := .instr i, root := s.rtaddr, irt := s.irta } (s.vcmdBusy cmd oa) i :=
  (State.submitVcmd_of_open hopen i cmd oa).trans (State.submit_atOnce (s := s.vcmdBusy cmd oa) honce i)

/-! ## The completions -/

theorem State.finishVcmdNull_eq {s : State} {b : Bool} (h : bitAt s.caps.vccap 0 = b) :
    s.finishVcmdNull = s.vcmdDone (if b = true then 0 else 1) 0 := by
  rw [State.finishVcmdNull, h]

theorem Caps.vpas_eq_false_iff {c : Caps} : c.vpas = false ↔ bitAt c.vccap 1 = false ∨ c.pasids = false :=
  Bool.and_eq_false_iff

theorem Caps.vfps_eq_false_iff {c : Caps} : c.vfps = false ↔ bitAt c.vccap 2 = false ∨ c.pasids = false :=
  Bool.and_eq_false_iff

theorem Caps.vpas_eq_true {c : Caps} (hbit : bitAt c.vccap 1 = true) (hpasids : c.pasids = true) : c.vpas = true :=
  Bool.and_eq_true_iff.2 ⟨hbit, hpasids⟩

theorem Caps.vfps_eq_true {c : Caps} (hbit : bitAt c.vccap 2 = true) (hpasids : c.pasids = true) : c.vfps = true :=
  Bool.and_eq_true_iff.2 ⟨hbit, hpasids⟩

theorem State.finishVcmdAllocate_unreported {s : State} (h : s.caps.vpas = false) :
    s.finishVcmdAllocate = s.vcmdDone 1 0 := if_pos (by rw [h]; rfl)

theorem State.finishVcmdAllocate_none {s : State} (h : s.caps.vpas = true) (hfree : s.vcmd.free = []) :
    s.finishVcmdAllocate = s.vcmdDone 16 0 := by
  rw [State.finishVcmdAllocate, h, hfree]
  rfl

/-- A free PASID is handed out (R995). -/
theorem State.finishVcmdAllocate_some {s : State} (h : s.caps.vpas = true) (hfree : s.vcmd.free ≠ []) :
    ∃ p rest, s.vcmd.free.Perm (p :: rest) ∧ s.finishVcmdAllocate =
      State.vcmdDone { s with vcmd := { s.vcmd with free := rest, allocated := p :: s.vcmd.allocated } } 0 (p.setWidth 48) := by
  obtain ⟨p, rest, htake, hperm⟩ :=
    takeAt_perm s.vcmd.free _ (Nat.mod_lt s.choice.pick (List.length_pos_iff.2 hfree))
  refine ⟨p, rest, hperm, ?_⟩
  rw [State.finishVcmdAllocate, h, htake]
  rfl

theorem State.finishVcmdFree_unreported {s : State} (h : s.caps.vfps = false) (oa : BitVec 48) :
    s.finishVcmdFree oa = s.vcmdDone 1 0 := if_pos (by rw [h]; rfl)

theorem State.finishVcmdFree_unknown {s : State} (h : s.caps.vfps = true) {oa : BitVec 48}
    (hout : field oa 0 20 ∉ s.vcmd.allocated) : s.finishVcmdFree oa = s.vcmdDone 16 0 := by
  simp [State.finishVcmdFree, h, hout]

/-- A PASID handed out is taken back (R996). -/
theorem State.finishVcmdFree_known {s : State} (h : s.caps.vfps = true) {oa : BitVec 48}
    (hin : field oa 0 20 ∈ s.vcmd.allocated) : s.finishVcmdFree oa =
      State.vcmdDone { s with vcmd := { s.vcmd with
        free := field oa 0 20 :: s.vcmd.free, allocated := s.vcmd.allocated.erase (field oa 0 20) } } 0 0 := by
  simp [State.finishVcmdFree, h, hin]

/-! ## Codes that the source reserves (R994) -/

theorem decodeVcmd_reserved {v : BitVec 64} (h : 3 ≤ (field v 0 8).toNat) :
    decodeVcmd v = .error (.undefinedVirtual (field v 0 8) (field v 16 48)) := by
  unfold decodeVcmd
  split
  case h_4 => rfl
  all_goals omega

/-- The doublewords of a quadword. -/
theorem hiWord_append_loWord (v : BitVec 64) : hiWord v ++ loWord v = v := by
  refine eq_of_fields (k := 32) _ _ ?_ ?_
  · rw [field_append_low _ _ 0 32 le_rfl, field_all, loWord]
  · rw [field_append_high _ _ 32 32 le_rfl, field_all, hiWord]

/-- A doubleword write of VCMD_REG of a reserved code submits it, with the operand's upper bits as they were stored before. -/
theorem State.softWrite4_reservedVirtual {s : State} (hivt : s.iotlbReg.ivt = false) (hvcs : s.caps.vcs = true)
    (hidle : s.vcmd.ip = false) {v : BitVec 32} {w : BitVec 64} (hw : field s.vcmd.oa 16 32 ++ v = w)
    (hcode : 3 ≤ (field w 0 8).toNat) :
    s.softWrite4 0xE00 v = .next ((s.vcmdBusy (field w 0 8) (field w 16 48)).submitAny .reservedVirtual) := by
  have htakes : writeRefusal s 0xE00 v = none := by
    have hiro : ((0xE00 : Nat) == 16 * s.caps.iro + 12) = false := beq_eq_false_iff_ne.2 (by omega)
    rw [writeRefusal, hivt, hiro]
    simp only [Bool.and_false, Bool.false_and, Bool.false_eq_true, if_false]
    rfl
  have hcmd : commandWord s 0xE00 v = some (.vcmd w) := by
    rw [← hw]
    exact if_pos hvcs
  rw [State.softWrite4_of_command htakes hcmd, runWord]
  dsimp only [decode]
  rw [decodeVcmd_reserved hcode]
  exact congrArg Host.Outcome.next (if_pos (State.vcmdOpen_of_idle hvcs hidle))

/-- The upper doubleword of VCMD_REG is the operand's upper bits. -/
theorem State.softWrite4_vcmdHigh {s : State} (hivt : s.iotlbReg.ivt = false) (hvcs : s.caps.vcs = true)
    (hidle : s.vcmd.ip = false) (v : BitVec 32) :
    s.softWrite4 0xE04 v = .next { s with vcmd := { s.vcmd with oa := v ++ field s.vcmd.oa 0 16 } } := by
  have hplain : s.plainAt 0xE04 := ⟨by decide, by omega, fun _ _ => hivt⟩
  rw [State.softWrite4_of_plainAt hplain, State.writePlain_fixed (off := 0xE04) hvcs]
  exact congrArg Host.Outcome.next (if_pos (State.vcmdOpen_of_idle hvcs hidle))

/-- A write of VCMD_REG of a reserved code submits it; a quadword brings the whole operand. -/
theorem State.softWrite_reservedVirtual {s : State} (hpages : 0 < s.plat.regPages) (hivt : s.iotlbReg.ivt = false)
    (hvcs : s.caps.vcs = true) (hidle : s.vcmd.ip = false) {n : Nat} {v w : BitVec 64}
    (hw : (n = 8 ∧ w = v) ∨ (n = 4 ∧ w = field s.vcmd.oa 16 32 ++ field v 0 32)) (hcode : 3 ≤ (field w 0 8).toNat) :
    s.softWrite 0xE00 n v = .next ((s.vcmdBusy (field w 0 8) (field w 16 48)).submitAny .reservedVirtual) := by
  have hin : 0xE00 < s.plat.regBytes := Platform.lt_regBytes hpages (by decide)
  rcases hw with ⟨rfl, rfl⟩ | ⟨rfl, rfl⟩
  · have hword : field (hiWord w ++ field s.vcmd.oa 0 16) 16 32 ++ loWord w = w := by
      rw [field_append_high _ _ 16 32 le_rfl, field_all, hiWord_append_loWord]
    have hlow := State.softWrite4_reservedVirtual
      (s := { s with vcmd := { s.vcmd with oa := hiWord w ++ field s.vcmd.oa 0 16 } }) hivt hvcs hidle hword hcode
    have hboth : s.softWrite 0xE00 8 w = andThen (s.softWrite4 0xE04 (hiWord w)) fun t => t.softWrite4 0xE00 (loWord w) := by
      simp [State.softWrite, accessOk, Nat.not_le.2 hin, hvcs]
    rw [hboth, State.softWrite4_vcmdHigh hivt hvcs hidle]
    exact hlow
  · rw [State.softWrite_four rfl hin]
    exact State.softWrite4_reservedVirtual hivt hvcs hidle rfl hcode

/-- Settles O36: the three commands by their completions, a reserved code by the write that submits it. -/
theorem virtualCommands : Obligations.VirtualCommands := by
  refine ⟨fun s oa hvcs hidle honce => ?_, fun s u c n v w hnext hw hpages hivt hvcs hidle hcode => ?_⟩
  · have hrun : ∀ {i cmd t}, finishInstr { cmd := .instr i, root := s.rtaddr, irt := s.irta } (s.vcmdBusy cmd oa) i = t →
        (.next (s.submitVcmd i cmd oa) : Result) = .next t := fun h =>
      congrArg Host.Outcome.next ((State.submitVcmd_atOnce (State.vcmdOpen_of_idle hvcs hidle) honce _ _ oa).trans h)
    refine ⟨fun hbit => ?_, fun hbit hpasids => ⟨fun hfree => ?_, fun hfree => ?_⟩,
      fun hbit hpasids => ⟨fun hout => ?_, fun hin => ?_⟩, fun hbit => ?_, fun hlacks => ?_, fun hlacks => ?_⟩
    · exact hrun (i := .vcmdNull oa) (State.finishVcmdNull_eq (s := s.vcmdBusy 0 oa) hbit)
    · exact hrun (i := .vcmdAllocate oa)
        (State.finishVcmdAllocate_none (s := s.vcmdBusy 1 oa) (Caps.vpas_eq_true hbit hpasids) hfree)
    · obtain ⟨p, rest, hperm, hdone⟩ :=
        State.finishVcmdAllocate_some (s := s.vcmdBusy 1 oa) (Caps.vpas_eq_true hbit hpasids) hfree
      exact ⟨p, rest, hperm, hrun (i := .vcmdAllocate oa) hdone⟩
    · exact hrun (i := .vcmdFree oa) (State.finishVcmdFree_unknown (s := s.vcmdBusy 2 oa) (Caps.vfps_eq_true hbit hpasids) hout)
    · exact hrun (i := .vcmdFree oa) (State.finishVcmdFree_known (s := s.vcmdBusy 2 oa) (Caps.vfps_eq_true hbit hpasids) hin)
    · exact hrun (i := .vcmdNull oa) (State.finishVcmdNull_eq (s := s.vcmdBusy 0 oa) hbit)
    · exact hrun (i := .vcmdAllocate oa)
        (State.finishVcmdAllocate_unreported (s := s.vcmdBusy 1 oa) (Caps.vpas_eq_false_iff.2 hlacks))
    · exact hrun (i := .vcmdFree oa) (State.finishVcmdFree_unreported (s := s.vcmdBusy 2 oa) (Caps.vfps_eq_false_iff.2 hlacks) oa)
  · have hstep : step s = .next ((u.vcmdBusy (field w 0 8) (field w 16 48)).submitAny .reservedVirtual) :=
      (step_of_nextEvent hnext).trans (State.softWrite_reservedVirtual hpages hivt hvcs hidle hw hcode)
    exact ⟨fun honce => hstep.trans (congrArg Host.Outcome.next (State.submitAny_atOnce
        (s := u.vcmdBusy (field w 0 8) (field w 16 48)) honce .reservedVirtual)),
      fun hdefer => hstep.trans (congrArg Host.Outcome.next (State.submitAny_deferred
        (s := u.vcmdBusy (field w 0 8) (field w 16 48)) hdefer .reservedVirtual))⟩

end Sys2Proof.Machine
end

section
/-! O37: commands that stay pending (41 R965). Submit leaves the status bit and one entry of the list (`State.submit_deferred`). At
its completion the command does what it would have done at once: what a completion does depends neither on whether the choice
defers (`finishInstr_deferring`) nor, for the commands that set no pointer, on the pointers captured (`finishInstr_pointers`). -/

namespace Sys2Proof.Machine

/-! ## Submit -/

/-- A command that only a unit with the function takes stays pending. -/
theorem next_supported_deferred {b : Bool} (h : b = true) (s : State) {u : State} (hdefer : u.choice.defer = true) (i : Instr) :
    (.next (if b then u.submit i else s) : Result) = .next (u.pended i) := by
  rw [if_pos h, State.submit_deferred hdefer]

/-- The enhanced command that a word of ECMD_REG stands for submits the word's fields. -/
theorem exec_of_encode_ecmd {i : Instr} {w : BitVec 64} (h : encode i = .ecmd w) (s : State) :
    exec i s = .next (s.submitEcmd i (field w 0 8) (field w 16 48)) := by
  have hfields : ∃ cmd oa, w = encodeCmd cmd oa ∧ exec i s = .next (s.submitEcmd i cmd oa) := by
    cases i
    case ecmdEnable | ecmdDisable | ecmdResetConfig | ecmdResetValues | ecmdFreeze | ecmdUnfreeze | ecmdReserved =>
      cases h
      exact ⟨_, _, rfl, rfl⟩
    all_goals cases h
  obtain ⟨cmd, oa, rfl, hexec⟩ := hfields
  rw [hexec, field_encodeCmd_code, field_encodeCmd_operand]

/-- The virtual command that a word of VCMD_REG stands for submits the word's fields. -/
theorem exec_of_encode_vcmd {i : Instr} {w : BitVec 64} (h : encode i = .vcmd w) (s : State) :
    exec i s = .next (s.submitVcmd i (field w 0 8) (field w 16 48)) := by
  have hfields : ∃ cmd oa, w = encodeCmd cmd oa ∧ exec i s = .next (s.submitVcmd i cmd oa) := by
    cases i
    case vcmdNull | vcmdAllocate | vcmdFree =>
      cases h
      exact ⟨_, _, rfl, rfl⟩
    all_goals cases h
  obtain ⟨cmd, oa, rfl, hexec⟩ := hfields
  rw [hexec, field_encodeCmd_code, field_encodeCmd_operand]

/-- An enhanced command that is not deferred completes on the state with ECMD_REG stored. -/
theorem exec_ecmd_atOnce {i : Instr} {w : BitVec 64} (h : encode i = .ecmd w) {s : State} (hecmds : s.caps.ecmds = true)
    (hidle : s.ecmd.ip = false) (honce : s.atOnce) : exec i s = .next
      (finishInstr { cmd := .instr i, root := s.rtaddr, irt := s.irta } (s.ecmdBusy (field w 0 8) (field w 16 48)) i) := by
  rw [exec_of_encode_ecmd h, State.submitEcmd_of_idle hecmds hidle]
  exact congrArg Host.Outcome.next (State.submit_atOnce (s := s.ecmdBusy _ _) honce i)

/-- A virtual command that is not deferred completes on the state with VCMD_REG stored. -/
theorem exec_vcmd_atOnce {i : Instr} {w : BitVec 64} (h : encode i = .vcmd w) {s : State} (hvcs : s.caps.vcs = true)
    (hidle : s.vcmd.ip = false) (honce : s.atOnce) : exec i s = .next
      (finishInstr { cmd := .instr i, root := s.rtaddr, irt := s.irta } (s.vcmdBusy (field w 0 8) (field w 16 48)) i) := by
  rw [exec_of_encode_vcmd h]
  exact congrArg Host.Outcome.next (State.submitVcmd_atOnce (State.vcmdOpen_of_idle hvcs hidle) honce i _ _)

/-! ## A completion and the choice -/

/-- The state with another choice. -/
def State.choosing (s : State) (c : Choice) : State := { s with choice := c }

/-- The choice of the state, made to defer or not. -/
def State.deferral (s : State) (d : Bool) : Choice := { s.choice with defer := d }

theorem State.commit_choosing (s : State) (c : Choice) (f : Forwarded) :
    (s.choosing c).commit f = (s.commit f).choosing c := by
  unfold State.commit
  cases f.req.access with
  | zlr => rfl
  | read | write | atomic =>
    dsimp only
    rw [apply_ite (State.choosing · c)]
    rfl

theorem foldl_commit_choosing (l : List Forwarded) (s : State) (c : Choice) :
    l.foldl (fun (t : State) f => t.commit f) (s.choosing c) = (l.foldl (fun (t : State) f => t.commit f) s).choosing c := by
  induction l generalizing s with
  | nil => rfl
  | cons f l ih => rw [List.foldl_cons, List.foldl_cons, State.commit_choosing, ih]

/-- A drain commits the same requests whatever the choice. -/
theorem State.drainWhere_choosing (s : State) (c : Choice) (p : Forwarded → Bool) :
    (s.choosing c).drainWhere p = (s.drainWhere p).choosing c :=
  foldl_commit_choosing _ { s with inFlight := s.inFlight.filter (fun f => !p f) } c

theorem State.drainAll_choosing (s : State) (c : Choice) : (s.choosing c).drainAll = s.drainAll.choosing c :=
  s.drainWhere_choosing c _

theorem State.drainKinds_choosing (s : State) (c : Choice) (reads writes : Bool) :
    (s.choosing c).drainKinds reads writes = (s.drainKinds reads writes).choosing c :=
  s.drainWhere_choosing c _

theorem State.implicitFlush_choosing (s : State) (c : Choice) :
    (s.choosing c).implicitFlush = s.implicitFlush.choosing c := by
  unfold State.implicitFlush
  rw [apply_ite (State.choosing · c)]
  rfl

theorem State.finishCcmd_deferral (s : State) (d : Bool) :
    (s.choosing (s.deferral d)).finishCcmd = s.finishCcmd.choosing (s.deferral d) := by
  unfold State.finishCcmd
  rw [apply_ite (State.choosing · (s.deferral d)), State.implicitFlush_choosing]
  rfl

/-- IOTLB_REG reports the granularity of the invalidation done (R972). -/
def State.iotlbReport (s : State) (g : Nat) : State :=
  { s with iotlbReg := { s.iotlbReg with ivt := false, iaig := BitVec.ofNat 2 g } }

theorem State.finishIotlb_eq (s : State) : s.finishIotlb =
    if (registerInvalidationBad s s.iotlbReg.iirg || ivaMaskBad s) = true then
      { s with iotlbReg := { s.iotlbReg with ivt := false, iaig := 0 } }
    else ((s.implicitFlush.invalidateIotlb (s.granularity (iotlbFinest s)) s.iotlbReg.did s.iva.addr s.iva.am.toNat
      s.iva.ih).drainKinds (registerDrains s s.iotlbReg.dr s.caps.drd) (registerDrains s s.iotlbReg.dw s.caps.dwd)).iotlbReport
        (s.granularity (iotlbFinest s)) := rfl

theorem State.invalidateIotlb_choosing (s : State) (c : Choice) (g : Nat) (did : DomainId) (addr : BitVec 52) (am : Nat)
    (ih : Bool) : (s.choosing c).invalidateIotlb g did addr am ih = (s.invalidateIotlb g did addr am ih).choosing c := rfl

theorem State.finishIotlb_deferral (s : State) (d : Bool) :
    (s.choosing (s.deferral d)).finishIotlb = s.finishIotlb.choosing (s.deferral d) := by
  rw [State.finishIotlb_eq, State.finishIotlb_eq, apply_ite (State.choosing · (s.deferral d)), State.implicitFlush_choosing,
    State.invalidateIotlb_choosing, State.drainKinds_choosing]
  rfl

/-- An action of an enhanced command neither reads nor changes ECMD_REG and the choice. -/
def sparesEcmd (act : State → State × BitVec 7) : Prop :=
  ∀ (s : State) (e : Ecmd) (c : Choice),
    act { s with ecmd := e, choice := c } = ({ (act s).1 with ecmd := e, choice := c }, (act s).2)

theorem enableCounter_sparesEcmd (k : Nat) : sparesEcmd (enableCounter k) := by
  intro s e c
  have hchecks : perfEnableChecks { s with ecmd := e, choice := c } k = perfEnableChecks s k := rfl
  unfold enableCounter
  rw [hchecks]
  split <;> rfl

theorem disableCounter_sparesEcmd (k : Nat) : sparesEcmd (disableCounter k) := by
  intro s e c
  unfold disableCounter
  dsimp only
  split <;> rfl

/-- An enhanced command completes the same whatever the response registers held and whatever the choice. -/
theorem State.ecmdRun_of_sparesEcmd {act : State → State × BitVec 7} (h : sparesEcmd act) (s : State) (n : Nat) {e : Ecmd}
    (he : e = { s.ecmd with rslt := e.rslt, sc := e.sc, ip := e.ip }) (c : Choice) :
    State.ecmdRun { s with ecmd := e, choice := c } n act = (s.ecmdRun n act).choosing c := by
  have hkeep : act s = ({ (act s).1 with ecmd := s.ecmd, choice := s.choice }, (act s).2) := h s s.ecmd s.choice
  unfold State.ecmdRun
  rw [h s e c, hkeep, he, apply_ite (State.choosing · c), apply_ite (State.choosing · c)]
  rfl

/-- The completion of an enhanced command is `EcmdComplete` with an action on the counters (R985). -/
theorem finishInstr_ecmdRun {i : Instr} {w : BitVec 64} (h : encode i = .ecmd w) :
    ∃ n act, (∀ p s, finishInstr p s i = State.ecmdRun s n act) ∧ sparesEcmd act := by
  cases i
  case ecmdEnable k => exact ⟨_, _, fun _ _ => rfl, enableCounter_sparesEcmd _⟩
  case ecmdDisable k => exact ⟨_, _, fun _ _ => rfl, disableCounter_sparesEcmd _⟩
  case ecmdResetConfig | ecmdResetValues | ecmdFreeze | ecmdUnfreeze | ecmdReserved =>
    exact ⟨_, _, fun _ _ => rfl, fun _ _ _ => rfl⟩
  all_goals cases h

/-- An enhanced command completes the same whatever its response registers held, the pointers captured, and the choice. -/
theorem finishInstr_ecmd {i : Instr} {w : BitVec 64} (h : encode i = .ecmd w) (p q : PendCmd) (s : State) {e : Ecmd}
    (he : e = { s.ecmd with rslt := e.rslt, sc := e.sc, ip := e.ip }) (c : Choice) :
    finishInstr p { s with ecmd := e, choice := c } i = (finishInstr q s i).choosing c := by
  obtain ⟨n, act, hrun, hspares⟩ := finishInstr_ecmdRun h
  rw [hrun, hrun, State.ecmdRun_of_sparesEcmd hspares s n he c]

/-- A virtual command completes the same whatever its response registers held, the pointers captured, and whether or not the choice
defers. -/
theorem finishInstr_vcmd {i : Instr} {w : BitVec 64} (h : encode i = .vcmd w) (p q : PendCmd) (s : State) {e : Vcmd}
    (he : e = { s.vcmd with rslt := e.rslt, sc := e.sc, ip := e.ip }) (d : Bool) :
    finishInstr p { s with vcmd := e, choice := s.deferral d } i = (finishInstr q s i).choosing (s.deferral d) := by
  rw [he]
  cases i
  case vcmdNull => rfl
  case vcmdAllocate =>
    dsimp only [finishInstr]
    unfold State.finishVcmdAllocate
    dsimp only [State.deferral]
    cases s.caps.vpas with
    | false => rfl
    | true =>
      cases takeAt s.vcmd.free (s.choice.pick % s.vcmd.free.length) <;> rfl
  case vcmdFree oa =>
    dsimp only [finishInstr]
    unfold State.finishVcmdFree
    dsimp only
    cases s.caps.vfps with
    | false => rfl
    | true => cases s.vcmd.allocated.contains (field oa 0 20) <;> rfl
  all_goals cases h

/-! ## The status bits of the other commands (R965) -/

/-- The registers show the command as submitted and not complete: a command of GCMD_REG by the unit having its function alone, the
others by the fields that they were written to. -/
def State.showsPending (s : State) (i : Instr) : Prop :=
  i = .gcmdTeEnable ∨ i = .gcmdTeDisable ∨ (s.caps.rwbf = true ∧ i = .gcmdWbf) ∨
  (s.caps.qi = true ∧ (i = .gcmdQieEnable ∨ i = .gcmdQieDisable)) ∨
  (s.caps.ir = true ∧ (i = .gcmdIreEnable ∨ i = .gcmdIreDisable ∨ i = .gcmdCfiSet ∨ i = .gcmdCfiClear)) ∨
  ((s.caps.plmr = true ∨ s.caps.phmr = true) ∧
    ((i = .pmenEpmEnable ∧ s.pmr.epm = true ∧ s.pmr.prs = false) ∨
      (i = .pmenEpmDisable ∧ s.pmr.epm = false ∧ s.pmr.prs = true))) ∨
  (s.ccmd.icc = true ∧ i = .ccmdIcc s.ccmd.cirg s.ccmd.sid s.ccmd.did s.ccmd.fm) ∨
  (s.iotlbReg.ivt = true ∧ i = .iotlbIvt s.iotlbReg.iirg s.iotlbReg.dr s.iotlbReg.dw s.iotlbReg.did)

/-- What the command changes at Submit stands already, so that done at once it completes on the state as it is. -/
theorem State.showsPending.exec_atOnce {s : State} {i : Instr} (h : s.showsPending i) (honce : s.atOnce) :
    exec i s = .next (finishInstr { cmd := .instr i, root := s.rtaddr, irt := s.irta } s i) := by
  rcases h with rfl | rfl | ⟨hbuffer, rfl⟩ | ⟨hqi, rfl | rfl⟩ | ⟨hir, rfl | rfl | rfl | rfl⟩ |
    ⟨hpmr, ⟨rfl, hepm, hprs⟩ | ⟨rfl, hepm, hprs⟩⟩ | ⟨hicc, rfl⟩ | ⟨hivt, rfl⟩
  · exact congrArg Host.Outcome.next (State.submit_atOnce honce .gcmdTeEnable)
  · exact congrArg Host.Outcome.next (State.submit_atOnce honce .gcmdTeDisable)
  · exact next_supported_atOnce hbuffer s (u := { s with gsts := { s.gsts with wbfs := true } }) honce .gcmdWbf
  · exact next_supported_atOnce hqi s honce .gcmdQieEnable
  · exact next_supported_atOnce hqi s honce .gcmdQieDisable
  · exact next_supported_atOnce hir s honce .gcmdIreEnable
  · exact next_supported_atOnce hir s honce .gcmdIreDisable
  · exact next_supported_atOnce hir s honce .gcmdCfiSet
  · exact next_supported_atOnce hir s honce .gcmdCfiClear
  · have hstored : s.epmStored true = s := by rw [State.epmStored, ← hepm]
    refine (next_writeEpm hpmr (v := true) (by simp [hprs]) .pmenEpmEnable).trans ?_
    rw [hstored, State.submit_atOnce honce]
  · have hstored : s.epmStored false = s := by rw [State.epmStored, ← hepm]
    refine (next_writeEpm hpmr (v := false) (by simp [hprs]) .pmenEpmDisable).trans ?_
    rw [hstored, State.submit_atOnce honce]
  · have hstored : s.ccmdAsked s.ccmd.cirg s.ccmd.sid s.ccmd.did s.ccmd.fm = s := by rw [State.ccmdAsked, ← hicc]
    exact (congrArg (fun u => Host.Outcome.next (State.submit u _)) hstored).trans
      (congrArg Host.Outcome.next (State.submit_atOnce honce _))
  · have hstored : s.iotlbAsked s.iotlbReg.iirg s.iotlbReg.dr s.iotlbReg.dw s.iotlbReg.did = s := by
      rw [State.iotlbAsked, ← hivt]
    exact (congrArg (fun u => Host.Outcome.next (State.submit u _)) hstored).trans
      (congrArg Host.Outcome.next (State.submit_atOnce honce _))

/-- None of these commands sets a pointer or reads whether the choice defers. -/
theorem State.showsPending.finishInstr_deferral {s : State} {i : Instr} (h : s.showsPending i) (p q : PendCmd) (d : Bool) :
    finishInstr p (s.choosing (s.deferral d)) i = (finishInstr q s i).choosing (s.deferral d) := by
  rcases h with rfl | rfl | ⟨-, rfl⟩ | ⟨-, rfl | rfl⟩ | ⟨-, rfl | rfl | rfl | rfl⟩ | ⟨-, ⟨rfl, -⟩ | ⟨rfl, -⟩⟩ | ⟨-, rfl⟩ | ⟨-, rfl⟩
  · dsimp only [finishInstr, State.finishTeEnable]
    rw [State.drainAll_choosing]
    rfl
  · dsimp only [finishInstr]
    rw [State.finishTeDisable_eq, State.finishTeDisable_eq]
    rfl
  · rfl
  · rfl
  · rfl
  · dsimp only [finishInstr]
    rw [State.finishIreEnable_eq, State.finishIreEnable_eq]
    rfl
  · dsimp only [finishInstr]
    rw [State.finishIreDisable_eq, State.finishIreDisable_eq]
    rfl
  · rfl
  · rfl
  · dsimp only [finishInstr, State.finishPmen]
    rw [if_pos rfl, if_pos rfl, State.drainAll_choosing]
    rfl
  · rfl
  · exact s.finishCcmd_deferral d
  · exact s.finishIotlb_deferral d

/-! ## The oldest command completes -/

/-- The command at the head of the list, completed on the state without it, when it changes no mode that is in use. -/
theorem step_complete {s u : State} {c : Choice} {p : PendCmd} {rest : List PendCmd} (hnext : s.nextEvent .complete c u)
    (hpend : u.pendCmds = p :: rest) (hsafe : ttmHazard u p = false) :
    step s = .next (finishCmd p { u with pendCmds := rest }) := by
  rw [step_of_nextEvent hnext]
  change u.completeOldest = _
  rw [State.completeOldest, hpend]
  exact if_neg (by rw [hsafe]; exact Bool.false_ne_true)

/-- A command completes as it does at once on a state `b`, when what completes there differs in the choice alone. -/
theorem step_complete_of_exec {s u b : State} {c c' : Choice} {p q : PendCmd} {rest : List PendCmd} {i : Instr}
    (hnext : s.nextEvent .complete c u) (hpend : u.pendCmds = p :: rest) (hcmd : p.cmd = .instr i) (hi : i ≠ .gcmdSrtp)
    {r : State} (hexec : exec i b = .next (finishInstr q r i))
    (hr : finishInstr q r i = (finishInstr p { u with pendCmds := rest } i).choosing c')
    (hkeep : finishInstr p { u with pendCmds := rest } i = (finishInstr p { u with pendCmds := rest } i).choosing u.choice) :
    ∃ t, exec i b = .next t ∧ step s = .next { t with choice := u.choice } := by
  refine ⟨_, hexec, ?_⟩
  rw [step_complete hnext hpend (ttmHazard_other (by rw [hcmd]; simpa using hi)), finishCmd, hcmd, hr]
  exact congrArg Host.Outcome.next hkeep

section
variable {s u b : State} {c : Choice} {i : Instr} {p : PendCmd} {rest : List PendCmd} {w : BitVec 64}

/-- A command that the registers show as pending completes as it does at once. -/
theorem complete_shown (hnext : s.nextEvent .complete c u) (hpend : u.pendCmds = p :: rest) (hcmd : p.cmd = .instr i)
    (hshows : u.showsPending i) (hb : b = { u with pendCmds := rest, choice := u.deferral false }) :
    ∃ t, exec i b = .next t ∧ step s = .next { t with choice := u.choice } := by
  subst hb
  have hi : i ≠ .gcmdSrtp := by
    rintro rfl
    simp [State.showsPending] at hshows
  have hshows : State.showsPending { u with pendCmds := rest } i := hshows
  have hexec := State.showsPending.exec_atOnce (s := { u with pendCmds := rest, choice := u.deferral false }) hshows rfl
  exact step_complete_of_exec hnext hpend hcmd hi hexec (hshows.finishInstr_deferral _ p false)
    (hshows.finishInstr_deferral p p u.choice.defer)

/-- An enhanced command completes as it does at once on the state without IP. -/
theorem complete_ecmd (hnext : s.nextEvent .complete c u) (hpend : u.pendCmds = p :: rest) (hcmd : p.cmd = .instr i)
    (hw : encode i = .ecmd w) (hecmds : u.caps.ecmds = true) (hoa : u.ecmd.oa = field w 16 48) (hcode : u.ecmd.cmd = field w 0 8)
    (hb : b = { u with pendCmds := rest, choice := u.deferral false }) :
    ∃ t, exec i { b with ecmd := { b.ecmd with ip := false } } = .next t ∧ step s = .next { t with choice := u.choice } := by
  subst hb
  have hi : i ≠ .gcmdSrtp := by
    rintro rfl
    cases hw
  have hexec := exec_ecmd_atOnce hw
    (s := { u with pendCmds := rest, choice := u.deferral false, ecmd := { u.ecmd with ip := false } }) hecmds rfl rfl
  exact step_complete_of_exec hnext hpend hcmd hi hexec
    (finishInstr_ecmd hw _ p { u with pendCmds := rest } (by simp [hoa, hcode]) (u.deferral false))
    (finishInstr_ecmd hw p p { u with pendCmds := rest } rfl u.choice)

/-- A virtual command completes as it does at once on the state without IP. -/
theorem complete_vcmd (hnext : s.nextEvent .complete c u) (hpend : u.pendCmds = p :: rest) (hcmd : p.cmd = .instr i)
    (hw : encode i = .vcmd w) (hvcs : u.caps.vcs = true) (hoa : u.vcmd.oa = field w 16 48) (hcode : u.vcmd.cmd = field w 0 8)
    (hb : b = { u with pendCmds := rest, choice := u.deferral false }) :
    ∃ t, exec i { b with vcmd := { b.vcmd with ip := false } } = .next t ∧ step s = .next { t with choice := u.choice } := by
  subst hb
  have hi : i ≠ .gcmdSrtp := by
    rintro rfl
    cases hw
  have hexec := exec_vcmd_atOnce hw
    (s := { u with pendCmds := rest, choice := u.deferral false, vcmd := { u.vcmd with ip := false } }) hvcs rfl rfl
  exact step_complete_of_exec hnext hpend hcmd hi hexec
    (finishInstr_vcmd hw _ p { u with pendCmds := rest } (by simp [hoa, hcode]) false)
    (finishInstr_vcmd hw p p { u with pendCmds := rest } rfl u.choice.defer)

end

/-- Settles O37: Submit by `State.submit_deferred`; a completion by what the command does on the state that does not defer. -/
theorem pendingCommand : Obligations.PendingCommand := by
  refine ⟨fun s hdefer => ⟨fun i hi => ?_, ?_, fun hir => ?_, fun hbuffer => ?_, fun hpmr => ⟨fun hprs => ?_, fun hprs => ?_⟩,
      fun cirg sid did fm => ?_, fun iirg dr dw did => ?_, fun i w hw hecmds hidle => ?_, fun i w hw hvcs hidle => ?_⟩,
    fun s u b c i p rest hnext hpend hcmd hb => ⟨fun hshows => ?_, fun w hw hecmds hip hoa hcode => ?_,
      fun w hw hvcs hip hoa hcode => ?_, fun hi hmode => ?_, fun hi => ?_⟩,
    fun s u c p rest hnext hpend hcmd => ?_⟩
  · rcases hi with rfl | rfl | ⟨hqi, rfl | rfl⟩ | ⟨hir, rfl | rfl | rfl | rfl⟩
    · exact congrArg Host.Outcome.next (State.submit_deferred hdefer .gcmdTeEnable)
    · exact congrArg Host.Outcome.next (State.submit_deferred hdefer .gcmdTeDisable)
    · exact next_supported_deferred hqi s hdefer .gcmdQieEnable
    · exact next_supported_deferred hqi s hdefer .gcmdQieDisable
    · exact next_supported_deferred hir s hdefer .gcmdIreEnable
    · exact next_supported_deferred hir s hdefer .gcmdIreDisable
    · exact next_supported_deferred hir s hdefer .gcmdCfiSet
    · exact next_supported_deferred hir s hdefer .gcmdCfiClear
  · exact (if_neg (by simp [hdefer])).trans (congrArg Host.Outcome.next
      (State.submit_deferred (s := { s with gsts := { s.gsts with rtps := false } }) hdefer .gcmdSrtp))
  · exact next_supported_deferred hir s (u := { s with gsts := { s.gsts with irtps := false } }) hdefer .gcmdSirtp
  · exact next_supported_deferred hbuffer s (u := { s with gsts := { s.gsts with wbfs := true } }) hdefer .gcmdWbf
  · exact (next_writeEpm hpmr (v := true) (by simp [hprs]) .pmenEpmEnable).trans
      (congrArg Host.Outcome.next (State.submit_deferred (s := s.epmStored true) hdefer .pmenEpmEnable))
  · exact (next_writeEpm hpmr (v := false) (by simp [hprs]) .pmenEpmDisable).trans
      (congrArg Host.Outcome.next (State.submit_deferred (s := s.epmStored false) hdefer .pmenEpmDisable))
  · exact congrArg Host.Outcome.next
      (State.submit_deferred (s := s.ccmdAsked cirg sid did fm) hdefer (.ccmdIcc cirg sid did fm))
  · exact congrArg Host.Outcome.next
      (State.submit_deferred (s := s.iotlbAsked iirg dr dw did) hdefer (.iotlbIvt iirg dr dw did))
  · rw [exec_of_encode_ecmd hw, State.submitEcmd_of_idle hecmds hidle]
    exact congrArg Host.Outcome.next (State.submit_deferred (s := s.ecmdBusy _ _) hdefer i)
  · rw [exec_of_encode_vcmd hw, State.submitVcmd_of_open (State.vcmdOpen_of_idle hvcs hidle)]
    exact congrArg Host.Outcome.next (State.submit_deferred (s := s.vcmdBusy _ _) hdefer i)
  · exact complete_shown hnext hpend hcmd hshows hb
  · exact complete_ecmd hnext hpend hcmd hw hecmds hoa hcode hb
  · exact complete_vcmd hnext hpend hcmd hw hvcs hoa hcode hb
  · subst hi
    rw [step_complete hnext hpend (Bool.eq_false_iff.2 (mt (ttmHazard_srtp_iff hcmd).1 ?_)), finishCmd, hcmd]
    · exact congrArg Host.Outcome.next (State.finishSrtp_eq _ _)
    · tauto
  · subst hi
    rw [step_complete hnext hpend (ttmHazard_other (by rw [hcmd]; simp)), finishCmd, hcmd]
    exact congrArg Host.Outcome.next (State.finishSirtp_eq _ _)
  · rw [step_complete hnext hpend (ttmHazard_other (by rw [hcmd]; simp)), finishCmd, hcmd]
    rfl

end Sys2Proof.Machine
end

section
/-! O38, O39 and O47: untranslated requests that the unit does not translate (42 R1001 to R1010, R1022, R1032). With translation off a
request outside the interrupt range is passed on to the address it names (`State.handleUntranslated_of_bypassed`), or turned away
where protected memory blocks it; a request without PASID to the interrupt range stays with the unit. -/

namespace Sys2Proof.Machine

variable {s v : State} {r : MemReq}

/-! ## Counting before the request is handled -/

/-- The occurrence of the request is counted, and then the request is handled. -/
theorem exec_untranslatedRequest (quiet : s.quiet .perf) (r : MemReq) :
    ∃ v, onlyCounted s v ∧ exec (.untranslatedRequest r) s = .next (v.handleUntranslated r) :=
  ⟨s.countRequest r.sid (reqPasid r) 0, State.countRequest_onlyCounted quiet r.sid (reqPasid r) 0, rfl⟩

theorem gsts_of_onlyCounted (h : onlyCounted s v) : v.gsts = s.gsts := by rw [eq_counted_of_onlyCounted h]; rfl

theorem freeCtr_of_onlyCounted (h : onlyCounted s v) : v.freeCtr = s.freeCtr := by rw [eq_counted_of_onlyCounted h]; rfl

theorem pmrBlocks_of_onlyCounted (h : onlyCounted s v) (k : ReqKind) (r : MemReq) (hpa : Addr) (passThrough : Bool) :
    pmrBlocks v k r hpa passThrough = pmrBlocks s k r hpa passThrough := by
  rw [eq_counted_of_onlyCounted h]
  rfl

/-! ## The interrupt range (R1020 to R1022) -/

/-- A request without PASID to the interrupt range is not translated, whether translation is on or off. -/
theorem State.handleUntranslated_of_interruptRange (hpasid : r.pasid = none) (hrange : inInterruptRange r.addr = true) :
    s.handleUntranslated r = s.interruptRange r := by
  unfold State.handleUntranslated
  rw [if_pos (by simp [hpasid, hrange])]

/-- A zero-length read of the interrupt range takes as many free bytes as its length says, and is answered with them. -/
theorem State.interruptRange_of_zlr (s : State) (hzlr : r.access = .zlr) :
    ∃ bs : List Byte, bs.length = r.len ∧ s.interruptRange r =
      { s with freeCtr := s.freeCtr + r.len, out := .respond r.sid (.data bs) :: s.out } := by
  refine ⟨(s.freeBytes Config.freeZlrByte r.len).1, by simp [State.freeBytes], ?_⟩
  unfold State.interruptRange
  rw [hzlr]
  rfl

/-- A well-formed zero-length read has the length of a DWORD (30 R867). -/
theorem len_of_wf_zlr (hwf : (Instr.untranslatedRequest r).wf = true) (hzlr : r.access = .zlr) : r.len = 4 := by
  obtain ⟨⟨-, hfits⟩, -⟩ : (r.crosses = false ∧ r.fits = true) ∧ r.isInterrupt = false := by
    simpa [Instr.wf, MemReq.shape] using hwf
  simp only [MemReq.fits, hzlr, Bool.and_eq_true, beq_iff_eq] at hfits
  exact hfits.2.2

/-- Settles O47: the interrupt range takes the request, and answers it with free bytes. -/
theorem zeroLengthReadOfInterruptRange : Obligations.ZeroLengthReadOfInterruptRange := by
  intro s r hwf hpasid hzlr hrange quiet
  obtain ⟨v, hv, hexec⟩ := exec_untranslatedRequest quiet r
  obtain ⟨bs, hlen, hanswer⟩ := v.interruptRange_of_zlr hzlr
  rw [len_of_wf_zlr hwf hzlr] at hlen hanswer
  refine ⟨v, bs, hv, hlen, ?_⟩
  rw [hexec, State.handleUntranslated_of_interruptRange hpasid hrange, hanswer, freeCtr_of_onlyCounted hv]

/-! ## Translation off (R1001, R1010) -/

/-- With translation off a request outside the interrupt range is passed on to the address it names. -/
theorem State.handleUntranslated_of_bypassed (htes : s.gsts.tes = false) (hrange : inInterruptRange r.addr = false) :
    s.handleUntranslated r = s.passOn .untranslated r r.addr true (!r.ns) none := by
  unfold State.handleUntranslated
  rw [if_neg (by simp [hrange]), if_pos (by simp [htes])]

/-- The same behind the count of the request, which changes nothing that the check of protected memory reads. -/
theorem exec_of_bypassed (htes : s.gsts.tes = false) (hrange : inInterruptRange r.addr = false) (quiet : s.quiet .perf) :
    ∃ v, onlyCounted s v ∧ pmrBlocks v .untranslated r r.addr true = pmrBlocks s .untranslated r r.addr true ∧
      exec (.untranslatedRequest r) s = .next (v.passOn .untranslated r r.addr true (!r.ns) none) := by
  obtain ⟨v, hv, hexec⟩ := exec_untranslatedRequest quiet r
  refine ⟨v, hv, pmrBlocks_of_onlyCounted hv _ _ _ _, hexec.trans ?_⟩
  rw [State.handleUntranslated_of_bypassed ((gsts_of_onlyCounted hv).symm ▸ htes) hrange]

/-- The exemption of translated requests (R1010; 93 U31) is none for a request that passes through. -/
theorem pmrBlocks_passThrough (s : State) (k : ReqKind) (r : MemReq) (hpa : Addr) :
    pmrBlocks s k r hpa true = (s.pmr.prs && !r.cxlCache && meetsPmr s hpa.toNat r.len) := by
  simp [pmrBlocks]

theorem State.passOn_of_blocked {k : ReqKind} {hpa : Addr} {passThrough : Bool} (h : pmrBlocks s k r hpa passThrough = true)
    (snoop : Bool) (mt : Option MemType) : s.passOn k r hpa passThrough snoop mt = s.turnAway r := if_pos h

/-- What protected memory does not block is forwarded (R1032). -/
theorem State.passOn_passedOn {k : ReqKind} {hpa : Addr} {passThrough : Bool} (h : pmrBlocks s k r hpa passThrough = false)
    (snoop : Bool) (mt : Option MemType) :
    passedOn s (s.passOn k r hpa passThrough snoop mt) { req := r, hpa := hpa, snoop := snoop, mt := mt } := by
  unfold State.passOn
  rw [if_neg (Bool.eq_false_iff.1 h)]
  exact s.forward_passedOn _

/-- Settles O39: a request that is passed on untranslated is turned away where it meets an enabled protected range. -/
theorem protectedMemoryBlocks : Obligations.ProtectedMemoryBlocks := by
  intro s r _ htes hrange hprs hlink hmeets quiet
  obtain ⟨v, hv, hpmr, hexec⟩ := exec_of_bypassed htes hrange quiet
  have hblocks : pmrBlocks s .untranslated r r.addr true = true := by simp [pmrBlocks_passThrough, hprs, hlink, hmeets]
  exact ⟨v, hv, hexec.trans (congrArg Host.Outcome.next (State.passOn_of_blocked (hpmr.trans hblocks) _ _))⟩

/-! ## The commit of a request in flight (20 R572) -/

theorem takeAt_map_fst {α : Type} (l : List α) (n : Nat) : (takeAt l n).map Prod.fst = l[n]? := by
  induction l generalizing n with
  | nil => rfl
  | cons x l ih =>
    cases n with
    | zero => rfl
    | succ n =>
      rw [List.getElem?_cons_succ, ← ih n, takeAt]
      cases takeAt l n <;> rfl

/-- Where there is no such request in flight, nothing is committed. -/
theorem State.commitNth_of_none {n : Nat} (h : s.inFlight[n]? = none) : s.commitNth n = s := by
  rw [← takeAt_map_fst, Option.map_eq_none_iff] at h
  unfold State.commitNth
  rw [h]

/-- The request is observed behind the posted writes of its source that are before it; the others stay in flight. -/
theorem State.commitNth_observed {n : Nat} {f : Forwarded} (h : s.inFlight[n]? = some f) :
    observedAll ((s.inFlight.take n).filter (postedBy f.req.sid) ++ [f])
      { s with inFlight := (s.inFlight.take n).filter (fun g => !postedBy f.req.sid g) ++ s.inFlight.drop (n + 1) }
      (s.commitNth n) := by
  obtain ⟨rest, htake⟩ : ∃ rest, takeAt s.inFlight n = some (f, rest) := by simpa [← takeAt_map_fst] using h
  have hall := foldl_commit_observed ((s.inFlight.take n).filter (postedBy f.req.sid) ++ [f])
    { s with inFlight := (s.inFlight.take n).filter (fun g => !postedBy f.req.sid g) ++ s.inFlight.drop (n + 1) }
  rw [List.foldl_append] at hall
  unfold State.commitNth
  rw [htake]
  exact hall

/-- Settles O38: a bypassed request that nothing blocks is forwarded to its own address, and the step that commits a forwarded
request brings it there. -/
theorem bypassedRequest : Obligations.BypassedRequest := by
  refine ⟨fun s r _ htes hrange hfree quiet => ?_, fun s u c n hnext => ⟨fun f hf => ?_, fun hnone => ?_⟩⟩
  · obtain ⟨v, hv, hpmr, hexec⟩ := exec_of_bypassed htes hrange quiet
    exact ⟨v, _, hexec, hv, State.passOn_passedOn (hpmr.trans hfree) _ _⟩
  · exact ⟨u.commitNth n, step_of_nextEvent hnext, State.commitNth_observed hf⟩
  · exact (step_of_nextEvent hnext).trans (congrArg Host.Outcome.next (State.commitNth_of_none hnone))

end Sys2Proof.Machine
end

section
/-! O20: invalidation completions (43 R1085). What the device stored before goes first (`State.drainStoresOf_eq` says what is left
when there is nothing of that kind); then the completion counts, or it is an unexpected one. -/

namespace Sys2Proof.Machine

variable {s : State} {sid : SourceId} {vec : BitVec 32}

/-! ## What a completion does, case by case -/

theorem exec_completion_translationOff (htes : s.gsts.tes = false) (sid : SourceId) (vec : BitVec 32) (cc : BitVec 3) :
    exec (.invalidationCompletion sid vec cc) s = .next (s.respond sid .ur) := by
  simp [exec, execInvalidationCompletion, htes]

theorem exec_completion_of_valid (htes : s.gsts.tes = true) (hstores : s.storesNone sid) (hvalid : tagsValid s sid vec = true)
    (cc : BitVec 3) : exec (.invalidationCompletion sid vec cc) s = .next (s.countCompletion vec cc).advance := by
  simp [exec, execInvalidationCompletion, htes, State.drainStoresOf_eq hstores, hvalid]

theorem exec_completion_of_invalid (htes : s.gsts.tes = true) (hstores : s.storesNone sid) (hno : tagsValid s sid vec = false)
    (cc : BitVec 3) : exec (.invalidationCompletion sid vec cc) s = .next (s.setIce sid) := by
  simp [exec, execInvalidationCompletion, htes, State.drainStoresOf_eq hstores, hno]

/-- Every ITag that the completion names is allocated to its device. -/
theorem tagsValid_iff : tagsValid s sid vec = true ↔ ∀ k < 32, bitAt vec k = true → ∃ x ∈ s.itags, x.tag = k ∧ x.sid = sid := by
  simp only [tagsValid, vectorTags, List.all_eq_true, List.mem_filter, List.mem_range, List.any_eq_true, Bool.and_eq_true,
    beq_iff_eq, and_imp]

/-- Some ITag that the completion names is not allocated to its device. -/
theorem tagsValid_eq_false (h : ∃ k < 32, bitAt vec k = true ∧ ∀ x ∈ s.itags, ¬ (x.tag = k ∧ x.sid = sid)) :
    tagsValid s sid vec = false := by
  obtain ⟨k, hk, hbit, hnone⟩ := h
  refine Bool.eq_false_iff.2 fun hvalid => ?_
  obtain ⟨x, hx, hxk⟩ := tagsValid_iff.1 hvalid k hk hbit
  exact hnone x hx hxk

/-! ## Counting -/

theorem mem_countCompletion_itags (s : State) (vec : BitVec 32) (cc : BitVec 3) (x : ITag) :
    x ∈ (s.countCompletion vec cc).itags ↔ ∃ y ∈ s.itags, (bitAt vec y.tag = false ∧ x = y) ∨
      (bitAt vec y.tag = true ∧ y.cnt + 1 ≠ expectedCount cc ∧ x = { y with cnt := y.cnt + 1 }) := by
  simp only [State.countCompletion, List.mem_filter, List.mem_map]
  constructor
  · rintro ⟨⟨y, hy, rfl⟩, hkept⟩
    refine ⟨y, hy, ?_⟩
    cases hbit : bitAt vec y.tag <;> simp_all
  · rintro ⟨y, hy, ⟨hbit, rfl⟩ | ⟨hbit, hcount, rfl⟩⟩
    · exact ⟨⟨x, hy, by simp [hbit]⟩, by simp [hbit]⟩
    · exact ⟨⟨y, hy, by simp [hbit]⟩, by simp [hcount]⟩

theorem mem_countCompletion_iqPend (s : State) (vec : BitVec 32) (cc : BitVec 3) (p : Pending) :
    p ∈ (s.countCompletion vec cc).iqPend ↔ p ∈ s.iqPend ∧
      ¬ ∃ y ∈ s.itags, p = .sent y.tag ∧ bitAt vec y.tag = true ∧ y.cnt + 1 = expectedCount cc := by
  simp only [State.countCompletion, List.mem_filter, Bool.not_eq_true', List.any_eq_false, List.mem_map]
  refine and_congr_right fun _ => ⟨fun hnone => ?_, fun hnone => ?_⟩
  · rintro ⟨y, hy, rfl, hbit, hcount⟩
    exact hnone _ ⟨⟨y, hy, rfl⟩, by simp [hbit, hcount]⟩ (by simp [hbit])
  · rintro _ ⟨⟨y, hy, rfl⟩, hdone⟩ hp
    cases hbit : bitAt vec y.tag <;> simp_all

/-- Counting keeps a queue in which nothing waits as it is: the pass over it finds only descriptors that are sent. -/
theorem State.countCompletion_advance (ahead : s.onlySent) (vec : BitVec 32) (cc : BitVec 3) :
    (s.countCompletion vec cc).advance = s.countCompletion vec cc := by
  have hsent : (s.countCompletion vec cc).onlySent := fun p hp => ahead p ((mem_countCompletion_iqPend s vec cc p).1 hp).1
  rw [State.advance, advancePend_sent _ _ _ hsent]
  rfl

/-! ## Unexpected completions -/

/-- On a unit with Device-TLBs, the fault event quiet, ICE is set with its detail and the event follows (40 R915). -/
theorem State.setIce_quiet (hdt : s.caps.dt = true) (quiet : s.quiet .fault) (sid : SourceId) :
    s.setIce sid = { s with
      iqercd := s.detail { s.iqercd with icesid := if s.fsts.ice = true then s.iqercd.icesid else sid }
      fsts := { s.fsts with ice := true }, faultEv := (s.setIce sid).faultEv, out := (s.setIce sid).out } ∧
    raised s (s.setIce sid) .fault s.faultStatusAny := by
  obtain ⟨r, o, hraise, hraised⟩ := State.raiseEvent_quiet { s with
    iqercd := s.detail { s.iqercd with icesid := if s.fsts.ice = true then s.iqercd.icesid else sid }
    fsts := { s.fsts with ice := true } } .fault s.faultStatusAny quiet
  have hice : s.setIce sid = _ := (if_pos hdt).trans hraise
  rw [hice]
  exact ⟨rfl, hraised⟩

/-! ## The stores of the device -/

/-- The stores that a completion pushes are observed, and none of its device is left. -/
theorem State.drainStoresOf_observed (s : State) (sid : SourceId) :
    observedAll (s.inFlight.filter (storedBy sid)) { s with inFlight := s.inFlight.filter (fun f => !storedBy sid f) }
      (s.drainStoresOf sid) := s.drainWhere_observed (storedBy sid)

theorem State.drainStoresOf_storesNone (s : State) (sid : SourceId) :
    (s.drainStoresOf sid).storesNone sid ∧ (s.drainStoresOf sid).gsts = s.gsts := by
  have hframe := observedAll_frame (s.drainStoresOf_observed sid)
  rw [hframe]
  refine ⟨fun f hf => ?_, rfl⟩
  simpa using (List.mem_filter.1 hf).2

theorem exec_completion_drained (htes : s.gsts.tes = true) (sid : SourceId) (vec : BitVec 32) (cc : BitVec 3) :
    exec (.invalidationCompletion sid vec cc) (s.drainStoresOf sid) = exec (.invalidationCompletion sid vec cc) s := by
  obtain ⟨hnone, hgsts⟩ := s.drainStoresOf_storesNone sid
  simp only [exec, execInvalidationCompletion, hgsts, htes, State.drainStoresOf_eq hnone, Bool.not_true, Bool.false_eq_true,
    if_false]

/-- Settles O20: valid ITags are counted and the pass over the queue finds nothing to do (`State.countCompletion_advance`), an
ITag of another device sets ICE (`State.setIce_quiet`), and either runs on the state that the drain of the stores leaves. -/
theorem invalidationCompletions : Obligations.InvalidationCompletions := by
  refine ⟨fun s sid vec cc htes hstores ahead hvalid => ?_, fun s sid vec cc => ⟨fun htes => ?_,
    fun htes hstores quiet hother => ⟨fun hdt => ?_, fun hdt => ?_⟩⟩, fun s sid vec cc htes => ?_⟩
  · have hexec := exec_completion_of_valid htes hstores (tagsValid_iff.2 hvalid) cc
    rw [State.countCompletion_advance ahead] at hexec
    rw [← expectedCount_eq]
    exact ⟨_, hexec, rfl, mem_countCompletion_itags s vec cc, mem_countCompletion_iqPend s vec cc⟩
  · exact exec_completion_translationOff htes sid vec cc
  · rw [exec_completion_of_invalid htes hstores (tagsValid_eq_false hother) cc, State.setIce, hdt]
    rfl
  · exact ⟨_, exec_completion_of_invalid htes hstores (tagsValid_eq_false hother) cc, State.setIce_quiet hdt quiet sid⟩
  · have hdrained := exec_completion_drained htes sid vec cc
    exact ⟨s.drainStoresOf sid, _, s.drainStoresOf_observed sid, rfl, hdrained⟩

end Sys2Proof.Machine
end

section
/-! The N bit in the trail of a walk (43 R1062). An answer to a translation request carries it; what a caller of an untranslated
request sees of a trail (`Seen`) does not have it, so it is followed beside that. -/

namespace Sys2Proof.Machine

variable {α β : Type}

/-! ## Walks that touch N, or do not -/

/-- The walk, whatever comes of it, adds `b` to N. -/
def seesN (w : Walk α) (b : Bool) : Prop := ∀ t : Trail, (w.run.run t).2.n = (t.n || b)

/-- The walk, whatever comes of it, leaves N as it is. -/
abbrev keepsN (w : Walk α) : Prop := seesN w false

theorem seesN_modify {f : Trail → Trail} {b : Bool} (h : ∀ t : Trail, (f t).n = (t.n || b)) : seesN (modify f : Walk Unit) b := h

theorem keepsN_modify {f : Trail → Trail} (h : ∀ t : Trail, (f t).n = t.n) : keepsN (modify f : Walk Unit) :=
  seesN_modify fun t => by rw [h, Bool.or_false]

theorem keepsN_pure (a : α) : keepsN (pure a) := fun t => (Bool.or_false t.n).symm

theorem keepsN_throw (c : Cond) : keepsN (throw c : Walk α) := fun t => (Bool.or_false t.n).symm

theorem keepsN_check (b : Bool) (c : Cond) : keepsN (check b c) := by
  cases b
  · exact keepsN_pure ()
  · exact keepsN_throw c

theorem keepsN_note (group event : Nat) (level : Option Nat) : keepsN (note group event level) := keepsN_modify fun _ => rfl

theorem keepsN_notePsc (e : PscEntry) (ready : Bool) : keepsN (notePsc e ready) := keepsN_modify fun _ => rfl

theorem keepsN_keepCtx (sid : SourceId) (did : DomainId) (ce : BitVec 256) : keepsN (keepCtx sid did ce) :=
  keepsN_modify fun _ => rfl

theorem keepsN_meet (b : Bool) : keepsN (modify fun t : Trail => { t with fpd := t.fpd || b }) := keepsN_modify fun _ => rfl

theorem seesN.ite {p : Prop} [Decidable p] {w w' : Walk α} {b : Bool} (h : seesN w b) (h' : seesN w' b) :
    seesN (if p then w else w') b := by
  split
  · exact h
  · exact h'

/-- What follows leaves N as it is. -/
theorem seesN.bind {w : Walk α} {k : α → Walk β} {b : Bool} (h : seesN w b) (hk : ∀ a, keepsN (k a)) : seesN (w >>= k) b := by
  intro t
  have hn := h t
  rcases hrun : w.run.run t with ⟨c | a, t'⟩ <;> rw [hrun] at hn
  · rw [run_bind_error hrun]
    exact hn
  · rw [run_bind_ok hrun, hk a t', Bool.or_false]
    exact hn

/-- What comes first leaves N as it is and finds `a`. -/
theorem finds.seesN_bind {w : Walk α} {k : α → Walk β} {a : α} {l : List UnitAccess} {u : List FlagUpdate} {b : Bool}
    (h : finds w a l u) (hw : keepsN w) (hk : seesN (k a) b) : seesN (w >>= k) b := by
  intro t
  have hn := hw t
  obtain ⟨t', hrun, -⟩ := h t.seen t rfl
  rw [hrun] at hn
  rw [run_bind_ok hrun, hk t', hn, Bool.or_false]

/-- What comes first ends the walk. -/
theorem stops.seesN_bind {w : Walk α} {c : Cond} {l : List UnitAccess} {b : Bool} (h : stops w c l) (hw : seesN w b)
    (k : α → Walk β) : seesN (w >>= k) b := by
  intro t
  have hn := hw t
  obtain ⟨t', hrun, -⟩ := h t.seen t rfl
  rw [hrun] at hn
  rw [run_bind_error hrun]
  exact hn

theorem seesN.attempt {w : Walk α} {b : Bool} (h : seesN w b) : seesN (attempt w) b := h

theorem keepsN_get_bind {k : Trail → Walk β} (h : ∀ t, keepsN (k t)) : keepsN (get >>= k) := fun t => h t t

theorem keepsN_fetch (s : State) (a : Addr) (n : Nat) (snoop : Bool) (c : Cond) : keepsN (fetch s a n snoop c) := by
  unfold fetch
  refine (keepsN_note 1 0 none).bind fun _ => seesN.bind (keepsN_modify fun _ => rfl) fun _ => ?_
  split
  · exact keepsN_pure _
  · exact keepsN_throw c

theorem seesN.ctxMarked {s : State} {x : Walk α} {b : Bool} (h : seesN x b) (sid : SourceId) (ce : BitVec 256) :
    seesN (ctxMarked s sid ce x) b := by
  unfold Machine.ctxMarked
  refine h.attempt.bind fun r => ?_
  cases r with
  | ok v => exact keepsN_pure v
  | error c => exact seesN.ite (seesN.bind (keepsN_modify fun _ => rfl) fun _ => keepsN_throw c) (keepsN_throw c)

theorem seesN.pasidMarked {s : State} {x : Walk α} {b : Bool} (h : seesN x b) (sid : SourceId) (pasid : Pasid) (pe : BitVec 512) :
    seesN (pasidMarked s sid pasid pe x) b := by
  unfold Machine.pasidMarked
  refine h.attempt.bind fun r => ?_
  cases r with
  | ok v => exact keepsN_pure v
  | error c => exact seesN.ite (seesN.bind (keepsN_modify fun _ => rfl) fun _ => keepsN_throw c) (keepsN_throw c)

theorem seesN.keepBad {s : State} {x : Walk α} {b : Bool} (h : seesN x b) (r : MemReq) (out : PageResult → Found) :
    seesN (keepBad s r out x) b := by
  unfold Machine.keepBad
  refine h.attempt.bind fun r => ?_
  cases r with
  | ok v => exact keepsN_pure v
  | error c => exact seesN.ite (seesN.bind (keepsN_modify fun _ => rfl) fun _ => keepsN_throw c) (keepsN_throw c)

/-! ## Walks followed with N -/

/-- As `yields`, with N taken from `n` to `m`. -/
def yieldsN (w : Walk α) (a : α) (x : Seen) (n : Bool) (y : Seen) (m : Bool) : Prop :=
  ∀ t : Trail, t.seen = x → t.n = n → ∃ t', w.run.run t = (.ok a, t') ∧ t'.seen = y ∧ t'.n = m

/-- As `faults`, with N taken from `n` to `m`. -/
def faultsN (w : Walk α) (c : Cond) (x : Seen) (n : Bool) (bus : List UnitAccess) (fpd m : Bool) : Prop :=
  ∀ t : Trail, t.seen = x → t.n = n → ∃ t', w.run.run t = (.error c, t') ∧ t'.bus = bus ∧ t'.fpd = fpd ∧ t'.n = m

/-- As `leads`, with N taken from `n` to `m`. -/
def leadsN (w w' : Walk α) (x : Seen) (n : Bool) (y : Seen) (m : Bool) : Prop :=
  ∀ t : Trail, t.seen = x → t.n = n → ∃ t', w.run.run t = w'.run.run t' ∧ t'.seen = y ∧ t'.n = m

theorem yields.seeing {w : Walk α} {a : α} {x y : Seen} {b : Bool} (h : yields w a x y) (hn : seesN w b) (n : Bool) :
    yieldsN w a x n y (n || b) := by
  rintro t ht rfl
  have hn := hn t
  obtain ⟨t', hrun, hseen⟩ := h t ht
  rw [hrun] at hn
  exact ⟨t', hrun, hseen, hn⟩

theorem faults.seeing {w : Walk α} {c : Cond} {x : Seen} {bus : List UnitAccess} {fpd b : Bool} (h : faults w c x bus fpd)
    (hn : seesN w b) (n : Bool) : faultsN w c x n bus fpd (n || b) := by
  rintro t ht rfl
  have hn := hn t
  obtain ⟨t', hrun, hbus, hfpd⟩ := h t ht
  rw [hrun] at hn
  exact ⟨t', hrun, hbus, hfpd, hn⟩

theorem yields.keeping {w : Walk α} {a : α} {x y : Seen} (h : yields w a x y) (hn : keepsN w) (n : Bool) :
    yieldsN w a x n y n := by simpa using h.seeing hn n

theorem faults.keeping {w : Walk α} {c : Cond} {x : Seen} {bus : List UnitAccess} {fpd : Bool} (h : faults w c x bus fpd)
    (hn : keepsN w) (n : Bool) : faultsN w c x n bus fpd n := by simpa using h.seeing hn n

/-- A step that the caller does not see. -/
theorem finds.unseenN {w : Walk α} {a : α} (h : finds w a [] []) (hn : keepsN w) (x : Seen) (n : Bool) : yieldsN w a x n x n :=
  (h.yields_same x).keeping hn n

theorem checkedN {b : Bool} (h : b = false) (c : Cond) (x : Seen) (n : Bool) : yieldsN (check b c) () x n x n :=
  (finds_check h c).unseenN (keepsN_check b c) x n

theorem failedN {b : Bool} (h : b = true) (c : Cond) (x : Seen) (n : Bool) : faultsN (check b c) c x n x.bus x.fpd n :=
  (faults_check h c x).keeping (keepsN_check b c) n

theorem faultsN.bind {w : Walk α} {c : Cond} {x : Seen} {n m : Bool} {bus : List UnitAccess} {fpd : Bool}
    (h : faultsN w c x n bus fpd m) (k : α → Walk β) : faultsN (w >>= k) c x n bus fpd m := by
  intro t ht hn
  obtain ⟨t', hrun, hend⟩ := h t ht hn
  exact ⟨t', run_bind_error hrun, hend⟩

theorem yieldsN.bind {w : Walk α} {k : α → Walk β} {a : α} {b : β} {x y z : Seen} {n m o : Bool} (h : yieldsN w a x n y m)
    (hk : yieldsN (k a) b y m z o) : yieldsN (w >>= k) b x n z o := by
  intro t ht hn
  obtain ⟨t', hrun, hseen, hm⟩ := h t ht hn
  rw [run_bind_ok hrun]
  exact hk t' hseen hm

theorem yieldsN.bind_faults {w : Walk α} {k : α → Walk β} {a : α} {c : Cond} {x y : Seen} {n m o : Bool} {bus : List UnitAccess}
    {fpd : Bool} (h : yieldsN w a x n y m) (hk : faultsN (k a) c y m bus fpd o) : faultsN (w >>= k) c x n bus fpd o := by
  intro t ht hn
  obtain ⟨t', hrun, hseen, hm⟩ := h t ht hn
  rw [run_bind_ok hrun]
  exact hk t' hseen hm

theorem leadsN_refl (w : Walk α) (x : Seen) (n : Bool) : leadsN w w x n x n := fun t ht hn => ⟨t, rfl, ht, hn⟩

theorem yieldsN.leads {w : Walk α} {k : α → Walk β} {w' : Walk β} {a : α} {x y z : Seen} {n m o : Bool} (h : yieldsN w a x n y m)
    (hk : leadsN (k a) w' y m z o) : leadsN (w >>= k) w' x n z o := by
  intro t ht hn
  obtain ⟨t', hrun, hseen, hm⟩ := h t ht hn
  rw [run_bind_ok hrun]
  exact hk t' hseen hm

theorem leadsN.trans {w w' w'' : Walk α} {x y z : Seen} {n m o : Bool} (h : leadsN w w' x n y m) (h' : leadsN w' w'' y m z o) :
    leadsN w w'' x n z o := by
  intro t ht hn
  obtain ⟨t', hrun, hseen, hm⟩ := h t ht hn
  rw [hrun]
  exact h' t' hseen hm

theorem leadsN.yields {w w' : Walk α} {a : α} {x y z : Seen} {n m o : Bool} (h : leadsN w w' x n y m)
    (h' : yieldsN w' a y m z o) : yieldsN w a x n z o := by
  intro t ht hn
  obtain ⟨t', hrun, hseen, hm⟩ := h t ht hn
  rw [hrun]
  exact h' t' hseen hm

theorem leadsN.faults {w w' : Walk α} {c : Cond} {x y : Seen} {n m o : Bool} {bus : List UnitAccess} {fpd : Bool}
    (h : leadsN w w' x n y m) (h' : faultsN w' c y m bus fpd o) : faultsN w c x n bus fpd o := by
  intro t ht hn
  obtain ⟨t', hrun, hseen, hm⟩ := h t ht hn
  rw [hrun]
  exact h' t' hseen hm

/-! ## A walk run from the empty trail -/

/-- From the empty trail the walk finds `a`, what is seen of its trail is `y`, and N is `n`. -/
abbrev foundWith (w : Walk α) (a : α) (y : Seen) (n : Bool) : Prop := yieldsN w a Trail.empty.seen false y n

/-- From the empty trail the walk raises `c`, behind these accesses, FPD bits met and N as told. -/
abbrev failsWith (w : Walk α) (c : Cond) (bus : List UnitAccess) (fpd n : Bool) : Prop :=
  faultsN w c Trail.empty.seen false bus fpd n

variable {s : State}

/-- The accesses and the counting of a walk that is run; nothing is kept of it on a step that fills no cache. -/
theorem runWalk_of_failsWith {w : Walk α} {c : Cond} {reads : List UnitAccess} {fpd n : Bool} (hw : failsWith w c reads fpd n)
    (hu : s.uncached) (q : s.quiet .perf) (sid : SourceId) (p : Option Pasid) (atf : Nat) :
    ∃ v t, onlyCounted s v ∧ s.runWalk w sid p atf = (.error c, t, { v with bus := reads ++ s.bus }) ∧ t.fpd = fpd ∧ t.n = n := by
  obtain ⟨t, hrun, rfl, hfpd, hn⟩ := hw _ rfl rfl
  obtain ⟨v, hv, hcount⟩ := State.countTrail_onlyCounted q t sid p atf
  have hchoice : v.choice = s.choice := by rw [hv.1]
  have hfill : ({ v with bus := t.bus ++ s.bus } : State).choice.fill = [] := hchoice ▸ hu.2
  refine ⟨v, t, hv, ?_, hfpd, hn⟩
  unfold State.runWalk
  simp only [hrun, hcount, State.keepTrail_eq_self (.inl hfill) (.inl hfill), State.fillPsc_of_fillsIotlbAtMost (.inl hfill)]

theorem runWalk_of_foundWith {w : Walk α} {a : α} {y : Seen} {n : Bool} (hw : foundWith w a y n) (hu : s.uncached)
    (q : s.quiet .perf) (sid : SourceId) (p : Option Pasid) (atf : Nat) :
    ∃ v t, onlyCounted s v ∧
      s.runWalk w sid p atf = (.ok a, t, State.updateAll { v with bus := y.bus ++ s.bus } y.upd) ∧ t.fpd = y.fpd ∧ t.n = n := by
  obtain ⟨t, hrun, rfl, hn⟩ := hw _ rfl rfl
  obtain ⟨v, hv, hcount⟩ := State.countTrail_onlyCounted q t sid p atf
  have hchoice : v.choice = s.choice := by rw [hv.1]
  have hfill : ({ v with bus := t.bus ++ s.bus } : State).choice.fill = [] := hchoice ▸ hu.2
  have hfillu : (State.updateAll { v with bus := t.bus ++ s.bus } t.upd).choice.fill = [] := by
    rw [State.updateAll_choice]
    exact hfill
  refine ⟨v, t, hv, ?_, rfl, hn⟩
  unfold State.runWalk
  simp only [hrun, hcount, State.keepTrail_eq_self (.inl hfill) (.inl hfill)]
  exact congrArg (fun u => (Except.ok a, t, u)) (State.fillPsc_of_fillsIotlbAtMost (.inl hfillu) _)

end Sys2Proof.Machine
end

section
/-! Translation and translated requests: how a step of either kind ends, and the tables of the source, which both read first. -/

namespace Sys2Proof.Machine

variable {α : Type} {s v : State} {r : MemReq}

/-! ## Requests turned away -/

theorem uncached_of_onlyCounted (h : onlyCounted s v) (hu : s.uncached) : v.uncached := by
  rw [eq_counted_of_onlyCounted h]
  exact hu

theorem bus_of_onlyCounted (h : onlyCounted s v) : v.bus = s.bus := by rw [eq_counted_of_onlyCounted h]; rfl

theorem caps_of_onlyCounted (h : onlyCounted s v) : v.caps = s.caps := by rw [eq_counted_of_onlyCounted h]; rfl

/-- A request that is answered, behind its reads, and not reported. -/
theorem turnedAway_of_answer {i : Instr} {answer : List Out} {reads : List UnitAccess} (hv : onlyCounted s v)
    (hexec : exec i s = .next { v with bus := reads ++ s.bus, out := answer ++ v.out }) : s.turnedAway i answer reads none :=
  ⟨v, _, _, hexec, hv, rfl, rfl⟩

/-- A request that is answered, behind its reads, and reported: its fault is recorded if no FPD bit suppresses it (60 R1331). -/
theorem turnedAway_of_report {i : Instr} {answer : List Out} {reads : List UnitAccess} {x : FaultReport} (hv : onlyCounted s v)
    (hexec : exec i s = .next (State.reportFault { v with bus := reads ++ s.bus, out := answer ++ v.out } x))
    (qf : s.quiet .fault) (hfree : s.recordFree x.sid) :
    s.turnedAway i answer reads (if x.qualified && x.fpd then none else some (x.record s.caps)) := by
  have heq := eq_counted_of_onlyCounted hv
  by_cases hs : (x.qualified && x.fpd) = true
  · obtain ⟨hq, hfpd⟩ := Bool.and_eq_true_iff.1 hs
    rw [State.reportFault_of_suppressed hq hfpd] at hexec
    rw [if_pos hs]
    exact turnedAway_of_answer hv hexec
  · have hrec := State.reportFault_recorded (s := { v with bus := reads ++ s.bus, out := answer ++ v.out })
      (Bool.eq_false_iff.2 hs) (by rw [heq]; exact hfree) (by rw [heq]; exact qf)
    rw [if_neg hs, ← caps_of_onlyCounted hv]
    exact ⟨v, _, _, hexec, hv, rfl, hrec⟩

theorem requestReport_record_of_kind (s : State) (k : ReqKind) (r : MemReq) (c : Cond) (fpd : Bool) :
    (requestReport s k r c fpd).record s.caps = requestRecord s.caps r (effAccess s.caps k r) k.atField c.reason := by
  simp [requestReport, FaultReport.record, requestRecord, reqPasid, Bool.and_comm]

/-- The same for the report of a request and the condition that it met. -/
theorem turnedAway_of_requestReport {i : Instr} {answer : List Out} {reads : List UnitAccess} {u : State} {k : ReqKind} {c : Cond}
    {fpd : Bool} (hv : onlyCounted s v) (hu : u.caps = s.caps)
    (hexec : exec i s =
      .next (State.reportFault { v with bus := reads ++ s.bus, out := answer ++ v.out } (requestReport u k r c fpd)))
    (qf : s.quiet .fault) (hfree : s.recordFree r.sid) :
    s.turnedAway i answer reads (if c.qualified && fpd then none else
      some (requestRecord s.caps r (effAccess s.caps k r) k.atField c.reason)) := by
  have hrec := requestReport_record_of_kind u k r c fpd
  rw [hu] at hrec
  rw [← hrec]
  exact turnedAway_of_report hv hexec qf hfree

/-! ## A walk that its tables refuse -/

/-- From the empty trail the walk ends in a fault of this reason behind these reads; what the FPD bits met make of it, and N. -/
def refusedN (w : Walk α) (reads : List UnitAccess) (reason : BitVec 8) (fpd n : Bool) : Prop :=
  ∃ c b, c.reason = reason ∧ (c.qualified && b) = fpd ∧ failsWith w c reads b n

theorem refusedN_of_unmet {w : Walk α} {c : Cond} {reads : List UnitAccess} (h : failsWith w c reads false false) :
    refusedN w reads c.reason false false := ⟨c, false, rfl, Bool.and_false _, h⟩

theorem refusedN_of_qualified {w : Walk α} {c : Cond} {reads : List UnitAccess} {fpd n : Bool} (hq : c.qualified = true)
    (h : failsWith w c reads fpd n) : refusedN w reads c.reason fpd n := ⟨c, fpd, rfl, by simp [hq], h⟩

theorem leadsN.refusedN {w w' : Walk α} (h : leadsN w w' Trail.empty.seen false Trail.empty.seen false)
    {reads : List UnitAccess} {reason : BitVec 8} {fpd n : Bool} (h' : refusedN w' reads reason fpd n) :
    Machine.refusedN w reads reason fpd n := by
  obtain ⟨c, b, hc, hq, hfails⟩ := h'
  exact ⟨c, b, hc, hq, h.faults hfails⟩

/-- A walk that stops at once, from the empty trail. -/
theorem stops.failsWith {w : Walk α} {c : Cond} {l : List UnitAccess} (h : stops w c l) (hn : keepsN w) :
    failsWith w c l false false := by
  simpa using (h Trail.empty.seen).keeping hn false

theorem keepsN_checkMode (s : State) : keepsN (checkMode s) := by
  unfold checkMode
  split
  · exact keepsN_throw _
  · exact keepsN_pure ()

/-- A refused mode ends every request (22 R704). -/
theorem refusedN_of_modeRefuses {reason : BitVec 8} (h : s.modeRefuses reason) (k : Unit → Walk α) :
    refusedN (checkMode s >>= k) [] reason false false := by
  obtain ⟨c, hc, rfl, -⟩ := modeFault_of_modeRefuses h
  exact refusedN_of_unmet (((stops_checkMode hc).failsWith (keepsN_checkMode s)).bind k)

/-! ## Legacy tables -/

theorem keepsN_ctxAnswer (e : CtxEntry) : keepsN e.answer := by
  unfold CtxEntry.answer
  split
  · exact keepsN_pure _
  · exact seesN.bind (keepsN_meet _) fun _ => keepsN_throw _

theorem keepsN_legacyFetch (s : State) (sid : SourceId) : keepsN (legacyFetch s sid) := by
  unfold legacyFetch
  refine (keepsN_note 2 0 none).bind fun _ => ?_
  split
  · exact (keepsN_note 2 1 none).bind fun _ => keepsN_ctxAnswer _
  · refine seesN.ctxMarked ((keepsN_fetch s _ _ _ _).bind fun v => ?_) sid 0
    refine (keepsN_check _ _).bind fun _ => (keepsN_check _ _).bind fun _ => ?_
    exact (keepsN_fetch s _ _ _ _).bind fun _ => keepsN_pure _

theorem keepsN_legacyEntryChecks (s : State) (ce : BitVec 256) : keepsN (legacyEntryChecks s ce) := by
  unfold legacyEntryChecks
  exact (keepsN_check _ _).bind fun _ => (keepsN_check _ _).bind fun _ => (keepsN_check _ _).bind fun _ => keepsN_check _ _

/-- The context entry of a legacy request of kind `k` is found and checked, and then followed. -/
def legacyThen (s : State) (k : ReqKind) (sid : SourceId) (rest : BitVec 256 → Walk α) : Walk α := do
  let ce ← legacyFetch s sid
  legacyChecks s k sid true ce
  rest ce

/-- The translation type of a context entry lets the unit serve a request of this kind (22 R705). -/
def typeServes (k : ReqKind) (ce : BitVec 256) : Prop := k = .untranslated ∨ ceTt ce = 1

/-- What follows the checks of a legacy context entry that do not depend on the request. -/
def legacyKept (s : State) (k : ReqKind) (sid : SourceId) (ce : BitVec 256) : Walk Unit := do
  if true && s.caps.cm then keepCtx sid (ceDid ce) ce
  check (k != .untranslated && ceTt ce != 1) .lct5
  keepCtx sid (ceDid ce) ce
  modify fun t => { t with did := some (ceDid ce) }

theorem legacyChecks_eq (s : State) (k : ReqKind) (sid : SourceId) (ce : BitVec 256) :
    legacyChecks s k sid true ce = (modify fun t : Trail => { t with fpd := t.fpd || ceFpd ce }) >>= fun _ =>
      ctxMarked s sid ce (legacyEntryChecks s ce) >>= fun _ => legacyKept s k sid ce := rfl

theorem keepsN_legacyKept (s : State) (k : ReqKind) (sid : SourceId) (ce : BitVec 256) : keepsN (legacyKept s k sid ce) := by
  have hlast : keepsN (do
      check (k != .untranslated && ceTt ce != 1) .lct5
      keepCtx sid (ceDid ce) ce
      modify fun t => { t with did := some (ceDid ce) }) :=
    (keepsN_check _ _).bind fun _ => (keepsN_keepCtx _ _ _).bind fun _ => keepsN_modify fun _ => rfl
  unfold legacyKept
  exact seesN.ite ((keepsN_keepCtx _ _ _).bind fun _ => hlast) hlast

theorem finds_legacyKept {k : ReqKind} {ce : BitVec 256} (h : typeServes k ce) (s : State) (sid : SourceId) :
    finds (legacyKept s k sid ce) () [] [] := by
  have hserved : (k != .untranslated && ceTt ce != 1) = false := by rcases h with h | h <;> simp [h]
  have hlast : finds (do
      check (k != .untranslated && ceTt ce != 1) .lct5
      keepCtx sid (ceDid ce) ce
      modify fun t => { t with did := some (ceDid ce) }) () [] [] :=
    (finds_check hserved .lct5).skip ((finds_keepCtx sid _ ce).skip (finds_unseen fun _ => rfl))
  unfold legacyKept
  exact finds.ite ((finds_keepCtx sid _ ce).skip hlast) hlast

theorem stops_legacyKept {k : ReqKind} {ce : BitVec 256} (h : ¬ typeServes k ce) (s : State) (sid : SourceId) :
    stops (legacyKept s k sid ce) .lct5 [] := by
  have hno : (k != .untranslated && ceTt ce != 1) = true := by simpa [typeServes] using h
  have hlast : stops (do
      check (k != .untranslated && ceTt ce != 1) .lct5
      keepCtx sid (ceDid ce) ce
      modify fun t => { t with did := some (ceDid ce) }) .lct5 [] := (stops_check hno .lct5).bind _
  unfold legacyKept
  exact stops.ite ((finds_keepCtx sid _ ce).skip_stops hlast) hlast

/-- What is seen of the trail behind a legacy context entry. -/
def State.legacySeen (s : State) (sid : SourceId) (ca : Addr) (ce : BitVec 256) : Seen :=
  (Trail.empty.seen.reads (s.legacyReads sid ca)).meets (ceFpd ce)

@[simp] theorem State.legacySeen_bus (s : State) (sid : SourceId) (ca : Addr) (ce : BitVec 256) :
    (s.legacySeen sid ca ce).bus = s.legacyReads sid ca := by simp [State.legacySeen]

@[simp] theorem State.legacySeen_fpd (s : State) (sid : SourceId) (ca : Addr) (ce : BitVec 256) :
    (s.legacySeen sid ca ce).fpd = ceFpd ce := by simp [State.legacySeen]

theorem yieldsN_legacyFetch (huse : s.choice.use = []) {sid : SourceId} {ca : Addr} {ce : BitVec 256} (hroot : s.legacyRoot sid ca)
    (hce : s.contextAt ca 16 ce) (x : Seen) (n : Bool) : yieldsN (legacyFetch s sid) ce x n (x.reads (s.legacyReads sid ca)) n :=
  ((finds_legacyFetch huse hroot hce).yields x).keeping (keepsN_legacyFetch s sid) n

/-- The tables lead to a context entry whose checks pass, whether or not its translation type serves the request. -/
theorem legacyThen_kept (huse : s.choice.use = []) {sid : SourceId} {ca : Addr} {ce : BitVec 256} (h : s.legacyContext sid ca ce)
    (k : ReqKind) (rest : BitVec 256 → Walk α) :
    leadsN (legacyThen s k sid rest) (legacyKept s k sid ce >>= fun _ => rest ce) Trail.empty.seen false
      (s.legacySeen sid ca ce) false := by
  obtain ⟨hroot, hread, hpresent, hrsvd, haw, htt⟩ := h
  have hentry := finds_legacyEntryChecks hpresent hrsvd haw htt
  unfold legacyThen
  refine (yieldsN_legacyFetch huse hroot hread _ _).leads ?_
  rw [legacyChecks_eq, bind_assoc]
  refine ((yields_meet (ceFpd ce) _).keeping (keepsN_meet _) _).leads ?_
  rw [bind_assoc]
  refine (((ctxMarked_alike sid ce _).finds hentry).unseenN ((keepsN_legacyEntryChecks s ce).ctxMarked sid ce) _ _).leads ?_
  exact leadsN_refl _ _ _

theorem legacyThen_leads (huse : s.choice.use = []) {sid : SourceId} {ca : Addr} {ce : BitVec 256} (h : s.legacyContext sid ca ce)
    {k : ReqKind} (hserves : typeServes k ce) (rest : BitVec 256 → Walk α) :
    leadsN (legacyThen s k sid rest) (rest ce) Trail.empty.seen false (s.legacySeen sid ca ce) false :=
  (legacyThen_kept huse h k rest).trans
    (((finds_legacyKept hserves s sid).unseenN (keepsN_legacyKept s k sid ce) _ _).leads (leadsN_refl _ _ _))

/-- A translation type that does not serve the request (22 R705). -/
theorem legacyThen_unserved (huse : s.choice.use = []) {sid : SourceId} {ca : Addr} {ce : BitVec 256} (h : s.legacyContext sid ca ce)
    {k : ReqKind} (hno : ¬ typeServes k ce) (rest : BitVec 256 → Walk α) :
    failsWith (legacyThen s k sid rest) .lct5 (s.legacyReads sid ca) (ceFpd ce) false := by
  refine (legacyThen_kept huse h k rest).faults (faultsN.bind ?_ _)
  simpa using ((stops_legacyKept hno s sid).faults_same (s.legacySeen sid ca ce)).keeping
    (keepsN_legacyKept s k sid ce) false

/-- The legacy tables refuse a source, whatever the kind of the request. -/
theorem legacyThen_refused (huse : s.choice.use = []) {sid : SourceId} {reads : List UnitAccess} {reason : BitVec 8} {fpd : Bool}
    (h : s.LegacyRefuses sid reads reason fpd) (k : ReqKind) (rest : BitVec 256 → Walk α) :
    refusedN (legacyThen s k sid rest) reads reason fpd false := by
  have fetched : ∀ {c l}, stops (legacyFetch s sid) c l → refusedN (legacyThen s k sid rest) l c.reason false false :=
    fun hstop => refusedN_of_unmet ((hstop.failsWith (keepsN_legacyFetch s sid)).bind _)
  have checked : ∀ {ca ce c}, s.legacyRoot sid ca → s.contextAt ca 16 ce → stops (legacyEntryChecks s ce) c [] →
      c.qualified = true → refusedN (legacyThen s k sid rest) (s.legacyReads sid ca) c.reason (ceFpd ce) false := by
    intro ca ce c hroot hce hstop hq
    refine refusedN_of_qualified hq ((yieldsN_legacyFetch huse hroot hce _ _).bind_faults (faultsN.bind ?_ _))
    rw [legacyChecks_eq]
    refine ((yields_meet (ceFpd ce) _).keeping (keepsN_meet _) _).bind_faults (faultsN.bind ?_ _)
    simpa using (((ctxMarked_alike sid ce _).stops hstop).faults_same
      ((Trail.empty.seen.reads (s.legacyReads sid ca)).meets (ceFpd ce))).keeping
      ((keepsN_legacyEntryChecks s ce).ctxMarked sid ce) false
  cases h with
  | rootUnread hre => exact fetched (stops_legacyFetch huse ((stops_fetch hre s.caps.c .lrt1).bind _))
  | rootAbsent re hre hno =>
    exact fetched (stops_legacyFetch huse
      ((finds_fetch hre s.caps.c .lrt1).last_stops ((stops_check (by simp [hno]) .lrt2).bind _)))
  | rootReserved re hre hyes hrsvd =>
    exact fetched (stops_legacyFetch huse ((finds_fetch hre s.caps.c .lrt1).last_stops
      ((finds_check (by simp [hyes]) .lrt2).skip_stops ((stops_check hrsvd .lrt3).bind _))))
  | unread ca hroot hce =>
    obtain ⟨re, hre, hyes, hrsvd, rfl⟩ := hroot
    exact fetched (stops_legacyFetch huse ((finds_fetch hre s.caps.c .lrt1).bind_stops (l' := [_])
      ((finds_check (by simp [hyes]) .lrt2).skip_stops
        ((finds_check hrsvd .lrt3).skip_stops ((stops_fetch hce s.caps.c .lct1).bind _)))))
  | absent ca ce hroot hce hno =>
    exact checked (c := .lct2) hroot hce ((stops_check (by simp [hno]) .lct2).bind _) rfl
  | reserved ca ce hroot hce hyes hrsvd =>
    exact checked (c := .lct3) hroot hce ((finds_check (by simp [hyes]) .lct2).skip_stops ((stops_check hrsvd .lct3).bind _)) rfl
  | programming ca ce hroot hce hyes hrsvd hbad =>
    have hfirst : ∀ {w : Walk Unit} {c}, stops w c [] → stops (check (!ceP ce) .lct2 >>= fun _ =>
        check (ctxRsvd s.caps s.plat.haw ce) .lct3 >>= fun _ => w) c [] := fun h =>
      (finds_check (by simp [hyes]) .lct2).skip_stops ((finds_check hrsvd .lct3).skip_stops h)
    by_cases haw : s.caps.awOk (ceAw ce) = true
    · have htt := hbad.resolve_left (by simp [haw])
      exact checked (c := .lct4_2) hroot hce (hfirst ((finds_check (by simp [haw]) .lct4_1).skip_stops
        (stops_check (by simp [htt]) .lct4_2))) rfl
    · exact checked (c := .lct4_1) hroot hce (hfirst ((stops_check (by simp [haw]) .lct4_1).bind _)) rfl

/-! ## The tables of scalable mode -/

theorem keepsN_smFetch (s : State) (sid : SourceId) : keepsN (smFetch s sid) := by
  unfold smFetch
  refine (keepsN_note 2 0 none).bind fun _ => ?_
  split
  · exact (keepsN_note 2 1 none).bind fun _ => keepsN_ctxAnswer _
  · refine seesN.ctxMarked ((keepsN_fetch s _ _ _ _).bind fun v => ?_) sid 0
    refine (keepsN_check _ _).bind fun _ => (keepsN_check _ _).bind fun _ => ?_
    exact (keepsN_fetch s _ _ _ _).bind fun _ => keepsN_pure _

theorem keepsN_smChecks (s : State) (sid : SourceId) (new noPasid : Bool) (ce : BitVec 256) : keepsN (smChecks s sid new noPasid ce) := by
  have hentry : keepsN (smEntryChecks s ce) := by
    unfold smEntryChecks
    exact (keepsN_check _ _).bind fun _ => (keepsN_check _ _).bind fun _ => keepsN_check _ _
  unfold smChecks
  refine (keepsN_meet _).bind fun _ => (hentry.ctxMarked sid ce).bind fun _ => ?_
  exact seesN.ite ((keepsN_keepCtx _ _ _).bind fun _ => keepsN_check _ _) (keepsN_check _ _)

/-- The context entry of a scalable-mode request is found and checked, and then followed. -/
def contextThen (s : State) (sid : SourceId) (noPasid : Bool) (rest : BitVec 256 → Walk α) : Walk α := do
  let ce ← smFetch s sid
  smChecks s sid true noPasid ce
  rest ce

theorem yieldsN_smFetch (huse : s.choice.use = []) {sid : SourceId} {ca : Addr} {ce : BitVec 256} (hroot : s.scalableRoot sid ca)
    (hce : s.contextAt ca 32 ce) (x : Seen) (n : Bool) : yieldsN (smFetch s sid) ce x n (x.reads (s.contextReads sid ca)) n :=
  ((finds_smFetch huse hroot hce).yields x).keeping (keepsN_smFetch s sid) n

theorem contextThen_leads (huse : s.choice.use = []) {sid : SourceId} {ca : Addr} {ce : BitVec 256} (h : s.scalableContext sid ca ce)
    {noPasid : Bool} (hrid : ridSupported s noPasid ce) (rest : BitVec 256 → Walk α) :
    leadsN (contextThen s sid noPasid rest) (rest ce) Trail.empty.seen false (s.contextSeen sid ca ce) false := by
  obtain ⟨hroot, hread, hpresent, hrsvd, hsct⟩ := h
  unfold contextThen
  refine (yieldsN_smFetch huse hroot hread _ _).leads ?_
  exact ((yields_smChecks (finds_smEntryChecks hpresent hrsvd hsct) sid true hrid _).keeping
    (keepsN_smChecks s sid true noPasid ce) _).leads (leadsN_refl _ _ _)

/-- RID_PASID is wider than the unit supports (22 R710). -/
theorem contextThen_ridPasid (huse : s.choice.use = []) {sid : SourceId} {ca : Addr} {ce : BitVec 256}
    (h : s.scalableContext sid ca ce) (hrid : 2 ^ s.caps.pssBits ≤ (smRidPasid s.caps ce).toNat) (rest : BitVec 256 → Walk α) :
    failsWith (contextThen s sid true rest) .sct4_2 (s.contextReads sid ca) (ceFpd ce) false := by
  obtain ⟨hroot, hread, hpresent, hrsvd, hsct⟩ := h
  refine (yieldsN_smFetch huse hroot hread _ _).bind_faults (faultsN.bind ?_ _)
  simpa using (faults_smChecks_of_rid (finds_smEntryChecks hpresent hrsvd hsct) sid true hrid
    (Trail.empty.seen.reads (s.contextReads sid ca))).keeping (keepsN_smChecks s sid true true ce) false

/-- The root and context tables of scalable mode refuse a source, whatever the kind of the request. -/
theorem contextThen_refused (huse : s.choice.use = []) {sid : SourceId} {reads : List UnitAccess} {reason : BitVec 8} {fpd : Bool}
    (h : s.ContextRefuses sid reads reason fpd) (noPasid : Bool) (rest : BitVec 256 → Walk α) :
    refusedN (contextThen s sid noPasid rest) reads reason fpd false := by
  have fetched : ∀ {c l}, stops (smFetch s sid) c l → refusedN (contextThen s sid noPasid rest) l c.reason false false :=
    fun hstop => refusedN_of_unmet ((hstop.failsWith (keepsN_smFetch s sid)).bind _)
  have checked : ∀ {ca ce c}, s.scalableRoot sid ca → s.contextAt ca 32 ce → stops (smEntryChecks s ce) c [] →
      c.qualified = true → refusedN (contextThen s sid noPasid rest) (s.contextReads sid ca) c.reason (ceFpd ce) false := by
    intro ca ce c hroot hce hstop hq
    refine refusedN_of_qualified hq ((yieldsN_smFetch huse hroot hce _ _).bind_faults (faultsN.bind ?_ _))
    simpa using (faults_smChecks hstop sid true noPasid (Trail.empty.seen.reads (s.contextReads sid ca))).keeping
      (keepsN_smChecks s sid true noPasid ce) false
  cases h with
  | rootUnread hre => exact fetched (stops_smFetch huse _ ((stops_fetch hre s.caps.c .srt1).bind _))
  | rootAbsent re hre hno =>
    exact fetched (stops_smFetch huse _ ((finds_fetch hre s.caps.c .srt1).last_stops ((stops_check (by simp [hno]) .srt2).bind _)))
  | rootReserved re hre hyes hrsvd =>
    exact fetched (stops_smFetch huse _ ((finds_fetch hre s.caps.c .srt1).last_stops
      ((finds_check (by simp [hyes]) .srt2).skip_stops ((stops_check hrsvd .srt3).bind _))))
  | unread ca hroot hce =>
    obtain ⟨re, hre, hyes, hrsvd, rfl⟩ := hroot
    exact fetched (stops_smFetch huse _ ((finds_fetch hre s.caps.c .srt1).bind_stops (l' := [_])
      ((finds_check (by simp [hyes]) .srt2).skip_stops
        ((finds_check hrsvd .srt3).skip_stops ((stops_fetch hce s.caps.c .sct1).bind _)))))
  | absent ca ce hroot hce hno =>
    exact checked (c := .sct2) hroot hce ((stops_check (by simp [hno]) .sct2).bind _) rfl
  | reserved ca ce hroot hce hyes hrsvd =>
    exact checked (c := .sct3) hroot hce ((finds_check (by simp [hyes]) .sct2).skip_stops ((stops_check hrsvd .sct3).bind _)) rfl
  | programming ca ce hroot hce hyes hrsvd hsct =>
    exact checked (c := .sct4_1) hroot hce
      ((finds_check (by simp [hyes]) .sct2).skip_stops ((finds_check hrsvd .sct3).skip_stops (stops_check hsct .sct4_1))) rfl

end Sys2Proof.Machine
end

section
/-! O46: translated requests (43 R1075). Their checks are the tables of the source, and the address. -/

namespace Sys2Proof.Machine

variable {s v : State} {r : MemReq}

/-! ## The step of a translated request -/

/-- What follows the checks of a translated request: it is blocked, or passed on to the address it names. -/
def afterChecks (r : MemReq) : Except Cond Unit × Trail × State → State
  | (.error c, t, u) => u.block .translated r c t.fpd
  | (.ok _, _, u) => u.passOn .translated r r.addr false (!r.ns) (translatedType u r)

/-- A translated request that the unit checks: translation is on, and the link is no CXL.cache link. -/
def State.checks (s : State) (r : MemReq) : Prop := r.cxlCache = false ∧ s.gsts.tes = true ∧ r.pasid = none

theorem State.handleTranslated_of_checks (h : s.checks r) :
    s.handleTranslated r = afterChecks r (s.runWalk (translatedChecks s r) r.sid none 2) := by
  obtain ⟨hlink, htes, hp⟩ := h
  unfold State.handleTranslated
  rw [if_neg (by simp [hlink]), if_neg (by simp [htes, hp])]
  rcases s.runWalk (translatedChecks s r) r.sid none 2 with ⟨_ | _, _, _⟩ <;> rfl

/-- The occurrence of the request is counted, of which its checks take no notice, and then the request is handled. -/
theorem exec_translatedRequest (q : s.quiet .perf) (r : MemReq) :
    ∃ v, onlyCounted s v ∧ translatedChecks v r = translatedChecks s r ∧
      exec (.translatedRequest r) s = .next (v.handleTranslated r) := by
  have hv := State.countRequest_onlyCounted q r.sid (reqPasid r) 2
  refine ⟨_, hv, ?_, rfl⟩
  rw [eq_counted_of_onlyCounted hv]
  rfl

theorem checks_of_onlyCounted (hv : onlyCounted s v) (h : s.checks r) : v.checks r :=
  ⟨h.1, (gsts_of_onlyCounted hv).symm ▸ h.2⟩

/-- A request whose checks fail is blocked (43 R1075; 42 R1030). -/
theorem blocksTranslated_of_fails (h : s.checks r) (hu : s.uncached) (qp : s.quiet .perf) (qf : s.quiet .fault)
    (hfree : s.recordFree r.sid) {c : Cond} {reads : List UnitAccess} {fpd n : Bool}
    (hw : failsWith (translatedChecks s r) c reads fpd n) : s.blocksTranslated r reads c.reason (c.qualified && fpd) := by
  obtain ⟨v, hv, hchecks, hexec⟩ := exec_translatedRequest qp r
  rw [← hchecks] at hw
  obtain ⟨w, t, hw', hrun, rfl, -⟩ :=
    runWalk_of_failsWith hw (uncached_of_onlyCounted hv hu) (onlyCounted_quiet hv qp) r.sid none 2
  have hboth := onlyCounted_trans hv hw'
  rw [State.handleTranslated_of_checks (checks_of_onlyCounted hv h), hrun, bus_of_onlyCounted hv, afterChecks, State.block,
    State.turnAway_eq] at hexec
  exact turnedAway_of_requestReport hboth (caps_of_onlyCounted hboth) hexec qf hfree

theorem blocksTranslated_of_refusedN (h : s.checks r) (hu : s.uncached) (qp : s.quiet .perf) (qf : s.quiet .fault)
    (hfree : s.recordFree r.sid) {reads : List UnitAccess} {reason : BitVec 8} {fpd n : Bool}
    (hw : refusedN (translatedChecks s r) reads reason fpd n) : s.blocksTranslated r reads reason fpd := by
  obtain ⟨c, b, rfl, rfl, hfails⟩ := hw
  exact blocksTranslated_of_fails h hu qp qf hfree hfails

theorem translatedType_of_onlyCounted (h : onlyCounted s v) (r : MemReq) : translatedType v r = translatedType s r := by
  rw [eq_counted_of_onlyCounted h]
  rfl

/-- A request whose checks pass is passed on to the address it names (43 R1075). -/
theorem forwarded_of_foundWith (h : s.checks r) (hu : s.uncached) (q : s.quiet .perf)
    (hpmr : pmrBlocks s .translated r r.addr false = false) {y : Seen} {n : Bool} (hupd : y.upd = [])
    (hw : foundWith (translatedChecks s r) () y n) :
    ∃ v t, onlyCounted s v ∧ passedOn { v with bus := y.bus ++ s.bus } t
      { req := r, hpa := r.addr, snoop := !r.ns, mt := translatedType s r } ∧ exec (.translatedRequest r) s = .next t := by
  obtain ⟨v, hv, hchecks, hexec⟩ := exec_translatedRequest q r
  rw [← hchecks] at hw
  obtain ⟨w, t, hw', hrun, -, -⟩ :=
    runWalk_of_foundWith hw (uncached_of_onlyCounted hv hu) (onlyCounted_quiet hv q) r.sid none 2
  have hboth := onlyCounted_trans hv hw'
  have htype : translatedType { w with bus := y.bus ++ s.bus } r = translatedType s r :=
    translatedType_of_onlyCounted hboth r
  rw [State.handleTranslated_of_checks (checks_of_onlyCounted hv h), hrun, bus_of_onlyCounted hv, hupd] at hexec
  refine ⟨w, _, hboth, ?_, hexec⟩
  rw [← htype]
  exact State.passOn_passedOn (s := { w with bus := y.bus ++ s.bus }) ((pmrBlocks_of_onlyCounted hboth ..).trans hpmr) _ _

/-- A request on a CXL.cache link (22 R708). -/
theorem exec_translatedRequest_of_cxlCache (hlink : r.cxlCache = true) (q : s.quiet .perf) :
    ∃ v t, onlyCounted s v ∧ passedOn v t { req := r, hpa := r.addr, snoop := !r.ns, mt := translatedType s r } ∧
      exec (.translatedRequest r) s = .next t := by
  obtain ⟨v, hv, -, hexec⟩ := exec_translatedRequest q r
  unfold State.handleTranslated at hexec
  rw [if_pos hlink, translatedType_of_onlyCounted hv] at hexec
  exact ⟨v, _, hv, State.forward_passedOn _ _, hexec⟩

/-- Translation is off (22 R703). -/
theorem turnedAway_of_translationOff (hlink : r.cxlCache = false) (htes : s.gsts.tes = false) (q : s.quiet .perf) :
    s.turnedAway (.translatedRequest r) (blockedAnswer r) [] none := by
  obtain ⟨v, hv, -, hexec⟩ := exec_translatedRequest q r
  unfold State.handleTranslated at hexec
  rw [if_neg (by simp [hlink]), if_pos (by simp [gsts_of_onlyCounted hv, htes]), State.turnAway_eq] at hexec
  refine turnedAway_of_answer hv (hexec.trans ?_)
  rw [← bus_of_onlyCounted hv]
  rfl

/-! ## What the checks are made of -/

/-- The address of a translated request by legacy tables: below 2^HAW, and not in the interrupt range (43 R1075). -/
def legacyAddressChecks (s : State) (r : MemReq) : Walk Unit := do
  check (s.hpaEnd ≤ r.addr.toNat) .lgn1_2
  check (inInterruptRange r.addr) .lgn4

/-- In scalable mode the context entry must let the device use ATS (22 R710). -/
def scalableAddressChecks (s : State) (r : MemReq) (ce : BitVec 256) : Walk Unit := do
  check (!smDte ce) .sct5
  keepCtx r.sid 0 ce
  check (s.hpaEnd ≤ r.addr.toNat) .sgn4_1
  check (inInterruptRange r.addr) .sgn8_3

theorem translatedChecks_leads_legacy (hon : s.legacyOn) (r : MemReq) :
    leadsN (translatedChecks s r) (legacyThen s .translated r.sid fun _ => legacyAddressChecks s r) Trail.empty.seen false
      Trail.empty.seen false := by
  obtain ⟨hmode, hscal⟩ := modeFault_of_legacyOn hon
  unfold translatedChecks
  refine ((finds_checkMode hmode).unseenN (keepsN_checkMode s) _ _).leads ?_
  rw [if_neg (by simp [hscal])]
  exact leadsN_refl _ _ _

theorem translatedChecks_leads_scalable (hon : s.scalableOn) (r : MemReq) :
    leadsN (translatedChecks s r) (contextThen s r.sid true fun ce => scalableAddressChecks s r ce) Trail.empty.seen false
      Trail.empty.seen false := by
  obtain ⟨hmode, hscal⟩ := modeFault_of_scalableOn hon
  unfold translatedChecks
  refine ((finds_checkMode hmode).unseenN (keepsN_checkMode s) _ _).leads ?_
  rw [if_pos hscal]
  exact leadsN_refl _ _ _

section
variable {x : Seen} {ca : Addr} {ce : BitVec 256}

theorem legacyAddressChecks_pass (hin : r.addr.toNat < s.hpaEnd) (hrange : inInterruptRange r.addr = false) (x : Seen) (n : Bool) :
    yieldsN (legacyAddressChecks s r) () x n x n :=
  (checkedN (by simp [hin]) .lgn1_2 x n).bind (checkedN hrange .lgn4 x n)

theorem scalableAddressChecks_pass (hdte : smDte ce = true) (hin : r.addr.toNat < s.hpaEnd)
    (hrange : inInterruptRange r.addr = false) (x : Seen) (n : Bool) : yieldsN (scalableAddressChecks s r ce) () x n x n :=
  (checkedN (by simp [hdte]) .sct5 x n).bind <| ((finds_keepCtx r.sid 0 ce).unseenN (keepsN_keepCtx _ _ _) x n).bind <|
    (checkedN (by simp [hin]) .sgn4_1 x n).bind (checkedN hrange .sgn8_3 x n)

/-- A request of a device whose legacy tables let it use ATS, and whose address then meets a condition. -/
theorem translatedChecks_fail_legacy (hon : s.legacyOn) (huse : s.choice.use = []) (h : s.legacyContext r.sid ca ce)
    (htt : ceTt ce = 1) {c : Cond} (hfail : ∀ x n, faultsN (legacyAddressChecks s r) c x n x.bus x.fpd n) :
    failsWith (translatedChecks s r) c (s.legacyReads r.sid ca) (ceFpd ce) false := by
  simpa using
    (translatedChecks_leads_legacy hon r).faults ((legacyThen_leads huse h (.inr htt) _).faults (hfail _ _))

theorem translatedChecks_fail_scalable (hon : s.scalableOn) (huse : s.choice.use = []) (h : s.scalableContext r.sid ca ce)
    (hrid : (smRidPasid s.caps ce).toNat < 2 ^ s.caps.pssBits) {c : Cond}
    (hfail : ∀ x n, faultsN (scalableAddressChecks s r ce) c x n x.bus x.fpd n) :
    failsWith (translatedChecks s r) c (s.contextReads r.sid ca) (ceFpd ce) false := by
  simpa [State.contextSeen] using
    (translatedChecks_leads_scalable hon r).faults ((contextThen_leads huse h (fun _ => hrid) _).faults (hfail _ _))

end

/-- Settles O46: the checks of a translated request are the tables of its source and its address; what each part of them says
decides whether the request is passed on or blocked. -/
theorem translatedRequestForwarded : Obligations.TranslatedRequestForwarded := by
  intro s r f hwf q hf
  have hp : r.pasid = none := by
    obtain ⟨-, hp⟩ : r.shape = true ∧ r.pasid.isNone = true := by simpa [Instr.wf] using hwf
    exact Option.isNone_iff_eq_none.1 hp
  subst hf
  refine ⟨fun hlink => exec_translatedRequest_of_cxlCache hlink q, fun hlink htes => turnedAway_of_translationOff hlink htes q,
    fun ca ce hlink hu hin hrange hpmr => ⟨fun hon h htt => ?_, fun hon h hdte hrid => ?_⟩,
    fun hlink htes hu qf hfree => ?_⟩
  · have hfound := (translatedChecks_leads_legacy hon r).yields
      ((legacyThen_leads hu.1 h (.inr htt) _).yields (legacyAddressChecks_pass hin hrange _ _))
    exact forwarded_of_foundWith ⟨hlink, hon.1, hp⟩ hu q hpmr rfl hfound
  · have hfound := (translatedChecks_leads_scalable hon r).yields
      ((contextThen_leads hu.1 h (fun _ => hrid) _).yields (scalableAddressChecks_pass hdte hin hrange _ _))
    exact forwarded_of_foundWith ⟨hlink, hon.1, hp⟩ hu q hpmr rfl hfound
  have refused : ∀ {reads reason fpd n}, refusedN (translatedChecks s r) reads reason fpd n →
      s.blocksTranslated r reads reason fpd := fun h => blocksTranslated_of_refusedN ⟨hlink, htes, hp⟩ hu q qf hfree h
  have failed : ∀ {c reads fpd}, c.qualified = true → failsWith (translatedChecks s r) c reads fpd false →
      s.blocksTranslated r reads c.reason fpd := fun hq h => refused (refusedN_of_qualified hq h)
  refine ⟨fun reason h => refused (refusedN_of_modeRefuses h _), fun reads reason fpd hon h => ?_, fun reads reason fpd hon h => ?_,
    fun ca ce hon h => ⟨fun htt => ?_, fun htt hout => ?_, fun htt hin hrange => ?_⟩,
    fun ca ce hon h => ⟨fun hrid => ?_, fun hrid => ⟨fun hdte => ?_, fun hdte hout => ?_, fun hdte hin hrange => ?_⟩⟩⟩
  · exact refused ((translatedChecks_leads_legacy hon r).refusedN (legacyThen_refused hu.1 h _ _))
  · exact refused ((translatedChecks_leads_scalable hon r).refusedN (contextThen_refused hu.1 h _ _))
  · exact failed (c := .lct5) rfl
      ((translatedChecks_leads_legacy hon r).faults (legacyThen_unserved hu.1 h (by simpa [typeServes] using htt) _))
  · exact failed (c := .lgn1_2) rfl (translatedChecks_fail_legacy hon hu.1 h htt
      fun x n => (failedN (by simpa using hout) _ x n).bind _)
  · exact failed (c := .lgn4) rfl (translatedChecks_fail_legacy hon hu.1 h htt
      fun x n => (checkedN (by simp [hin]) .lgn1_2 x n).bind_faults (failedN hrange _ x n))
  · exact failed (c := .sct4_2) rfl
      ((translatedChecks_leads_scalable hon r).faults (contextThen_ridPasid hu.1 h hrid _))
  · exact failed (c := .sct5) rfl (translatedChecks_fail_scalable hon hu.1 h hrid
      fun x n => (failedN (by simp [hdte]) _ x n).bind _)
  · exact failed (c := .sgn4_1) rfl (translatedChecks_fail_scalable hon hu.1 h hrid
      fun x n => (checkedN (by simp [hdte]) .sct5 x n).bind_faults <|
        ((finds_keepCtx r.sid 0 ce).unseenN (keepsN_keepCtx _ _ _) x n).bind_faults <|
        (failedN (by simpa using hout) _ x n).bind _)
  · exact failed (c := .sgn8_3) rfl (translatedChecks_fail_scalable hon hu.1 h hrid
      fun x n => (checkedN (by simp [hdte]) .sct5 x n).bind_faults <|
        ((finds_keepCtx r.sid 0 ce).unseenN (keepsN_keepCtx _ _ _) x n).bind_faults <|
        (checkedN (by simp [hin]) .sgn4_1 x n).bind_faults (failedN hrange _ x n))

end Sys2Proof.Machine
end

section
/-! How a translation request is answered (43 R1055, R1060; 60 R1340), for both modes. -/

namespace Sys2Proof.Machine

variable {α : Type} {s v : State} {r : MemReq}

/-! ## The answer to a fault (60 R1340) -/

/-- The conditions that a translation request can meet. Where the table has an answer for them, the reason alone tells it; the others
share their reason with one of these, or are met by page requests only. -/
def Cond.answered (c : Cond) : Bool := !([Cond.rta3, .sct8, .lgn1_2, .lgn1_3, .sgn4_1, .sgn8_1, .sgn8_3].contains c)

/-- Only conditions that a translation request can meet have this reason. -/
def plainReason (q : BitVec 8) : Bool := !([0x04, 0x32, 0x47, 0x83, 0x87].contains q)

theorem answered_of_plainReason {c : Cond} (h : plainReason c.reason = true) : c.answered = true := by
  cases c <;> simp_all [Cond.answered, plainReason, Cond.reason]

/-- The reason of a condition tells its cell (60 R1346 to R1361). -/
theorem trCell_of_answered {c : Cond} (h : c.answered = true) (withPasid : Bool) :
    (answersUr c.reason = true → c.trCell withPasid = .ur) ∧
    (answersUr c.reason = false → answersZero c.reason = true →
      c.trCell withPasid = .effP ∧ c.reason ≠ 0x91 ∨ c.trCell withPasid = .zero ∧ (c.reason = 0x91 ↔ c = .sfs10)) ∧
    (answersUr c.reason = false → answersZero c.reason = false → c.trCell withPasid = .ca) := by
  revert h
  cases withPasid <;> cases c <;> decide

/-- What a translation request is answered by its fault reason. -/
def faultAnswer (r : MemReq) (n : Bool) (reason : BitVec 8) : List Out :=
  [.respond r.sid (if answersUr reason then .ur else if answersZero reason then .translation (noRights r n) else .ca)]

theorem answersUr_eq_false_of_answersZero {reason : BitVec 8} (h : answersZero reason = true) : answersUr reason = false := by
  simp only [answersZero, List.contains_iff_mem, List.mem_cons, List.not_mem_nil, or_false] at h
  rcases h with rfl | rfl | rfl | rfl | rfl | rfl | rfl | rfl | rfl | rfl | rfl | rfl | rfl | rfl | rfl | rfl | rfl | rfl | rfl |
    rfl | rfl | rfl | rfl | rfl <;> rfl

/-- Faults that answer Success are not reported, but for 91h. -/
theorem State.answerFault_eq {c : Cond} (hc : c.answered = true) (s : State) (r : MemReq) (t : Trail) :
    ∃ w, w = { s with out := faultAnswer r t.n c.reason ++ s.out } ∧
      s.answerFault r c t = if answersZero c.reason && c.reason != 0x91 then w
        else w.reportFault (requestReport s .translation r c t.fpd) := by
  refine ⟨_, rfl, ?_⟩
  obtain ⟨hur, hzero, hca⟩ := trCell_of_answered hc r.pasid.isSome
  unfold State.answerFault faultAnswer
  cases hu : answersUr c.reason with
  | true =>
    have hz : answersZero c.reason = false := Bool.eq_false_iff.2 fun h => by simp [answersUr_eq_false_of_answersZero h] at hu
    rw [hur hu, hz]
    rfl
  | false =>
    cases hz : answersZero c.reason with
    | false =>
      rw [hca hu hz]
      rfl
    | true =>
      obtain ⟨hcell, hne⟩ | ⟨hcell, hiff⟩ := hzero hu hz
      · rw [hcell, Bool.true_and, if_pos (bne_iff_ne.2 hne)]
        rfl
      · rw [hcell]
        dsimp only
        by_cases h : c = .sfs10
        · rw [if_pos h, Bool.true_and, if_neg (by simp [hiff.2 h])]
          rfl
        · rw [if_neg h, Bool.true_and, if_pos (bne_iff_ne.2 fun h91 => h (hiff.1 h91))]
          rfl

/-! ## The step of a translation request -/

/-- What follows the walk of a translation request. -/
def afterTranslation (r : MemReq) : Except Cond Found × Trail × State → State
  | (.error c, t, u) => u.answerFault r c t
  | (.ok f, t, u) => (u.keepFound f r t.fpd).respond r.sid (.translation (buildCompletion u.caps r f t.n))

theorem State.handleTranslation_of_on (h : s.gsts.tes = true) :
    s.handleTranslation r = afterTranslation r (s.runWalk (translate s .translation r) r.sid (reqPasid r) 1) := by
  unfold State.handleTranslation
  rw [if_neg (by simp [h])]
  rcases s.runWalk (translate s .translation r) r.sid (reqPasid r) 1 with ⟨_ | _, _, _⟩ <;> rfl

theorem exec_translationRequest (q : s.quiet .perf) (r : MemReq) :
    ∃ v, onlyCounted s v ∧ translate v .translation r = translate s .translation r ∧
      exec (.translationRequest r) s = .next (v.handleTranslation r) :=
  ⟨_, State.countRequest_onlyCounted q r.sid (reqPasid r) 1, countRequest_translate s q r.sid (reqPasid r) 1 .translation r, rfl⟩

/-- Translation is off (43 R1050). -/
theorem turnedAway_of_noTranslation (h : s.gsts.tes = false) (q : s.quiet .perf) :
    s.turnedAway (.translationRequest r) [.respond r.sid .ur] [] none := by
  obtain ⟨v, hv, -, hexec⟩ := exec_translationRequest q r
  unfold State.handleTranslation at hexec
  rw [if_pos (by simp [gsts_of_onlyCounted hv, h])] at hexec
  refine turnedAway_of_answer hv (hexec.trans ?_)
  rw [← bus_of_onlyCounted hv]
  rfl

/-- A translation request whose walk meets a condition is answered, behind the reads of the walk. -/
theorem exec_of_failsWith (h : s.gsts.tes = true) (hu : s.uncached) (q : s.quiet .perf) {c : Cond} {reads : List UnitAccess}
    {b n : Bool} (hc : c.answered = true) (hw : failsWith (translate s .translation r) c reads b n) :
    ∃ v u x, onlyCounted s v ∧ u.caps = s.caps ∧ x = { v with bus := reads ++ s.bus, out := faultAnswer r n c.reason ++ v.out } ∧
      exec (.translationRequest r) s = .next (if answersZero c.reason && c.reason != 0x91 then x
        else x.reportFault (requestReport u .translation r c b)) := by
  obtain ⟨v, hv, htrans, hexec⟩ := exec_translationRequest q r
  rw [← htrans] at hw
  obtain ⟨w, t, hw', hrun, rfl, rfl⟩ :=
    runWalk_of_failsWith hw (uncached_of_onlyCounted hv hu) (onlyCounted_quiet hv q) r.sid (reqPasid r) 1
  have hboth := onlyCounted_trans hv hw'
  obtain ⟨x, hx, heq⟩ := State.answerFault_eq hc { w with bus := reads ++ s.bus } r t
  rw [State.handleTranslation_of_on (by rw [gsts_of_onlyCounted hv, h]), hrun, bus_of_onlyCounted hv, afterTranslation, heq] at hexec
  exact ⟨w, _, x, hboth, caps_of_onlyCounted hboth, hx, hexec⟩

/-- A fault that answers Success is not recorded, but for 91h. -/
theorem turnedAway_of_silentFault (h : s.gsts.tes = true) (hu : s.uncached) (q : s.quiet .perf) {c : Cond}
    {reads : List UnitAccess} {b n : Bool} (hc : c.answered = true) (hz : answersZero c.reason = true) (h91 : c.reason ≠ 0x91)
    (hw : failsWith (translate s .translation r) c reads b n) :
    s.turnedAway (.translationRequest r) [.respond r.sid (.translation (noRights r n))] reads none := by
  obtain ⟨v, u, x, hv, -, rfl, hexec⟩ := exec_of_failsWith h hu q hc hw
  rw [hz, Bool.true_and, if_pos (bne_iff_ne.2 h91), faultAnswer, if_neg (by simp [answersUr_eq_false_of_answersZero hz]),
    if_pos hz] at hexec
  exact turnedAway_of_answer hv hexec

/-- A translation request whose walk meets a condition is answered as its reason asks. -/
theorem answersFault_of_failsWith (h : s.gsts.tes = true) (hu : s.uncached) (qp : s.quiet .perf) (qf : s.quiet .fault)
    (hfree : s.recordFree r.sid) {c : Cond} {reads : List UnitAccess} {b m n : Bool} (hc : c.answered = true)
    (hw : failsWith (translate s .translation r) c reads b m) (hn : answersZero c.reason = true → m = n) :
    s.answersFault r reads n c.reason (c.qualified && b) := by
  obtain ⟨v, u, x, hv, hcaps, rfl, hexec⟩ := exec_of_failsWith h hu qp hc hw
  have hanswer : faultAnswer r m c.reason = faultAnswer r n c.reason := by
    unfold faultAnswer
    cases hz : answersZero c.reason with
    | true => rw [hn hz]
    | false => rfl
  rw [hanswer] at hexec
  unfold State.answersFault
  change s.turnedAway _ (faultAnswer r n c.reason) _ _
  by_cases hsilent : (answersZero c.reason && c.reason != 0x91) = true
  · rw [if_pos hsilent] at hexec
    rw [hsilent, Bool.or_true, if_pos rfl]
    exact turnedAway_of_answer hv hexec
  · rw [if_neg hsilent] at hexec
    rw [Bool.eq_false_iff.2 hsilent, Bool.or_false]
    exact turnedAway_of_requestReport hv hcaps hexec qf hfree

theorem answersFault_of_refusedN (h : s.gsts.tes = true) (hu : s.uncached) (qp : s.quiet .perf) (qf : s.quiet .fault)
    (hfree : s.recordFree r.sid) {reads : List UnitAccess} {reason : BitVec 8} {fpd n : Bool} (hplain : plainReason reason = true)
    (hw : refusedN (translate s .translation r) reads reason fpd n) : s.answersFault r reads n reason fpd := by
  obtain ⟨c, b, rfl, rfl, hfails⟩ := hw
  exact answersFault_of_failsWith h hu qp qf hfree (answered_of_plainReason hplain) hfails fun _ => rfl

/-- A translation request whose walk finds something is answered with it, behind the flags that the walk owes. -/
theorem exec_of_foundWith (h : s.gsts.tes = true) (hu : s.uncached) (q : s.quiet .perf) {f : Found} {y : Seen} {n : Bool}
    (hw : foundWith (translate s .translation r) f y n) :
    ∃ v, onlyCounted s v ∧ exec (.translationRequest r) s = .next (State.respond
      (State.updateAll { v with bus := y.bus ++ s.bus } y.upd) r.sid (.translation (buildCompletion s.caps r f n))) := by
  obtain ⟨v, hv, htrans, hexec⟩ := exec_translationRequest q r
  rw [← htrans] at hw
  obtain ⟨w, t, hw', hrun, -, rfl⟩ :=
    runWalk_of_foundWith hw (uncached_of_onlyCounted hv hu) (onlyCounted_quiet hv q) r.sid (reqPasid r) 1
  have hboth := onlyCounted_trans hv hw'
  obtain ⟨m, b, x, hframe⟩ := foldl_updateFlags_frame y.upd { w with bus := y.bus ++ s.bus }
  have hcaps : (State.updateAll { w with bus := y.bus ++ s.bus } y.upd).caps = s.caps := by
    have hw := caps_of_onlyCounted hboth
    rw [State.updateAll, hframe]
    exact hw
  have hfill : (State.updateAll { w with bus := y.bus ++ s.bus } y.upd).choice.fill = [] := by
    rw [State.updateAll_choice]
    exact (uncached_of_onlyCounted hboth hu).2
  refine ⟨w, hboth, hexec.trans ?_⟩
  rw [State.handleTranslation_of_on (by rw [gsts_of_onlyCounted hv, h]), hrun, bus_of_onlyCounted hv, afterTranslation, hcaps,
    State.keepFound_of_fillsNone hfill]

/-- The same where no flag is owed. -/
theorem turnedAway_of_foundWith (h : s.gsts.tes = true) (hu : s.uncached) (q : s.quiet .perf) {f : Found} {y : Seen} {n : Bool}
    (hupd : y.upd = []) (hw : foundWith (translate s .translation r) f y n) :
    s.turnedAway (.translationRequest r) [.respond r.sid (.translation (buildCompletion s.caps r f n))] y.bus none := by
  obtain ⟨v, hv, hexec⟩ := exec_of_foundWith h hu q hw
  rw [hupd] at hexec
  exact turnedAway_of_answer hv hexec

/-- Under the special conditions no page is answered (43 R1066). -/
theorem buildCompletion_special (c : Caps) (r : MemReq) {f : Found} (h : f.special = true) (n : Bool) :
    buildCompletion c r f n =
      if readOnlyRequest c r then noRights r n else { noRights r n with w := true, u := true } := by
  unfold buildCompletion
  rw [if_pos h]
  rfl

/-- A page found is answered with its permissions. -/
theorem buildCompletion_page (c : Caps) (r : MemReq) {f : Found} (h : f.special = false) (n : Bool) :
    buildCompletion c r f n = pageAnswer r f.page.hpa f.page.shift f.r f.w n := by
  unfold buildCompletion
  rw [if_neg (by simp [h])]
  rfl

end Sys2Proof.Machine
end

section
/-! The second stage for a translation request (22 R706, R744): a missing permission is a fault only where none is left. -/

namespace Sys2Proof.Machine

variable {α : Type} {s : State} {p : SsParams} {r : MemReq}

/-! ## The access a translation request makes -/

/-- A translation request that asks for write permission is taken as a read and a write, one that does not as a read (22 R706). -/
def askFor (w : Bool) : Access := if w then .atomic else .read

@[simp] theorem accessWrites_askFor (w : Bool) : accessWrites (askFor w) = w := by cases w <;> rfl

theorem effAccess_translation (c : Caps) (r : MemReq) : effAccess c .translation r = askFor (!readOnlyRequest c r) := by
  unfold effAccess askFor
  rw [if_pos rfl]
  change (if readOnlyRequest c r then Access.read else Access.atomic) = _
  cases readOnlyRequest c r <;> rfl

theorem nestedAccess_askFor (b wr : Bool) : nestedAccess (askFor b) wr = askFor (b && wr) := by
  cases b <;> cases wr <;> rfl

/-! ## N in a second-stage walk (43 R1062) -/

theorem keepsN_ssLevels (p : SsParams) (acc : Access) (addr : Addr) (lv : List Nat) (table : Addr) (first r w : Bool)
    (path : List PathEntry) : keepsN (ssLevels s p acc addr lv table first r w path) := by
  induction lv generalizing table first r w path with
  | nil => exact keepsN_throw _
  | cons sh rest ih =>
    unfold ssLevels
    refine (keepsN_fetch s _ _ _ _).bind fun v => ?_
    dsimp only
    split
    next c _ => exact seesN.ite ((keepsN_notePsc _ _).bind fun _ => keepsN_throw c) (keepsN_throw c)
    next => exact seesN.ite (keepsN_pure _) ((keepsN_notePsc _ _).bind fun _ => ih _ _ _ _ _)

theorem keepsN_ssFlags (s : State) (snooped d : Bool) (path : List PathEntry) : keepsN (ssFlags s snooped d path) := by
  induction path with
  | nil => exact keepsN_pure ()
  | cons x rest ih =>
    unfold ssFlags
    refine seesN.ite ?_ ih
    exact (keepsN_check _ _).bind fun _ => (keepsN_check _ _).bind fun _ => seesN.bind (keepsN_modify fun _ => rfl) fun _ => ih

theorem keepsN_ssFinish (s : State) (p : SsParams) (lenient : Bool) (acc : Access) (x : SsFound × List PathEntry) :
    keepsN (ssFinish s p lenient acc x) := by
  have hlast : keepsN (do
      if p.ssade then ssFlags s p.snooped (accessWrites acc && x.1.w) x.2
      pure { x.1 with dirty := x.1.dirty || (p.ssade && (accessWrites acc && x.1.w)) }) :=
    seesN.ite ((keepsN_ssFlags s _ _ _).bind fun _ => keepsN_pure _) (keepsN_pure _)
  unfold ssFinish
  cases ssDenies s.caps p.legacy lenient acc x.1.r x.1.w with
  | some c => exact (keepsN_throw c).bind fun _ => hlast
  | none => exact (keepsN_pure ()).bind fun _ => hlast

theorem seesN_noteLeaf (s : State) (e : BitVec 64) : seesN (noteLeaf s e) (s.caps.sc && bitAt e 11) := fun _ => rfl

/-- The leaf of the page itself gives its SNP bit. -/
theorem seesN_ssFind {d : Bool} (huse : s.choice.use = []) (acc : Access) {a : Addr} {l : List UsedEntry} {k : Nat}
    (h : ssLeads s p d a l k) : seesN (ssFind s p acc a) (p.final && s.caps.sc && bitAt (leafOf l) 11) := by
  obtain ⟨hbound, huses⟩ := h
  obtain ⟨path, -, hlevels⟩ := finds_ssLevels acc huses true true true []
  have hlast : ∀ x : SsFound × List PathEntry, ∀ b c, keepsN (do check b c; pure x) := fun x b c =>
    (keepsN_check b c).bind fun _ => keepsN_pure x
  unfold ssFind
  rw [State.pscLookup_of_unused huse]
  refine (finds_check (by simpa using hbound) _).seesN_bind (keepsN_check _ _) ?_
  refine (finds_note 2 4 none).seesN_bind (keepsN_note _ _ _) ?_
  refine hlevels.seesN_bind (keepsN_ssLevels _ _ _ _ _ _ _ _ _) ?_
  dsimp only
  cases hfinal : p.final with
  | true => exact (seesN_noteLeaf s _).bind fun _ => hlast _ _ _
  | false => exact hlast _ _ _

theorem keepsN_ssFind_of_stuck (huse : s.choice.use = []) (acc : Access) {a : Addr} {x : Halt} {l : List Addr}
    (hbound : a.toNat < 2 ^ ssBound s.caps p.aw) (h : s.SsStuck p.emte a (levels (agawLevels p.aw)) p.ptr x l) :
    keepsN (ssFind s p acc a) := by
  unfold ssFind
  rw [State.pscLookup_of_unused huse]
  refine (finds_check (by simpa using hbound) _).seesN_bind (keepsN_check _ _) ?_
  refine (finds_note 2 4 none).seesN_bind (keepsN_note _ _ _) ?_
  exact (stops_ssLevels h true true true []).seesN_bind (keepsN_ssLevels _ _ _ _ _ _ _ _ _) _

theorem keepsN_ssFind_of_beyond (acc : Access) {a : Addr} (h : 2 ^ ssBound s.caps p.aw ≤ a.toNat) : keepsN (ssFind s p acc a) := by
  unfold ssFind
  exact (stops_check (by simpa using h) _).seesN_bind (keepsN_check _ _) _

/-- A walk that is not for the page itself never touches N. -/
theorem keepsN_ssFind_of_inner (huse : s.choice.use = []) (hinner : p.final = false) (acc : Access) (a : Addr) :
    keepsN (ssFind s p acc a) := by
  unfold ssFind
  rw [State.pscLookup_of_unused huse]
  refine (keepsN_check _ _).bind fun _ => (keepsN_note _ _ _).bind fun _ => (keepsN_ssLevels _ _ _ _ _ _ _ _ _).bind fun y => ?_
  dsimp only
  rw [if_neg (by simp [hinner])]
  exact (keepsN_check _ _).bind fun _ => keepsN_pure _

theorem keepsN_noteBad (c : Cond) (ready rw us r w : Bool) : keepsN (noteBad c ready rw us r w) := keepsN_modify fun _ => rfl

theorem seesN.ssLast {acc : Access} {a : Addr} {b : Bool} (h : seesN (ssFind s p acc a) b) (lenient rw us : Bool) :
    seesN (ssLast s p lenient acc rw us a) b := by
  unfold Machine.ssLast
  refine h.attempt.bind fun x => ?_
  cases x with
  | error c => exact keepsN_get_bind fun _ => (keepsN_noteBad _ _ _ _ _ _).bind fun _ => keepsN_throw c
  | ok x =>
    refine (keepsN_ssFinish s p lenient acc x).attempt.bind fun y => ?_
    cases y with
    | error c => exact (keepsN_noteBad _ _ _ _ _ _).bind fun _ => keepsN_throw c
    | ok f => exact keepsN_pure f

theorem seesN.ssWalk {acc : Access} {a : Addr} {b : Bool} (h : seesN (ssFind s p acc a) b) (lenient : Bool) :
    seesN (ssWalk s p lenient acc a) b := by
  unfold Machine.ssWalk
  exact h.bind fun x => keepsN_ssFinish s p lenient acc x

/-! ## Permissions left -/

/-- The condition of a translation request that the second stage leaves no permission (22 R706, R744). -/
def nothingLeft (legacy b w : Bool) : Cond := if w then (if legacy then .lgn3 else .sgn7) else notPresentSs legacy (askFor b)

theorem nothingLeft_silent (legacy b w : Bool) : (nothingLeft legacy b w).answered = true ∧
    answersZero (nothingLeft legacy b w).reason = true ∧ (nothingLeft legacy b w).reason ≠ 0x91 := by
  cases legacy <;> cases b <;> cases w <;> decide

/-- What is left of the permissions `rd` and `w` for a translation request that asks for write permission where `b`. -/
def leaves (b rd w : Bool) : Bool := rd || (w && b)

theorem ssDenies_askFor (c : Caps) (legacy : Bool) {b rd w : Bool} (h : leaves b rd w = true) :
    ssDenies c legacy true (askFor b) rd w = none := by
  cases b <;> cases rd <;> simp_all [leaves, ssDenies, ssRights, askFor, accessWrites]

theorem ssDenies_askFor_of_nothing (c : Caps) (legacy : Bool) {b w : Bool} (h : leaves b false w = false) (hw : w = true) :
    ssDenies c legacy true (askFor b) false w = some (nothingLeft legacy b w) := by
  subst hw
  cases b
  · rfl
  · cases h

/-- A translation request that is left a permission sets the flags of the walk, Dirty where it gets `w`. -/
theorem ssFinish_of_leaves {b : Bool} {x : SsFound} {d : Bool} {l : List UsedEntry} {path : List PathEntry}
    (hleaves : leaves b x.r x.w = true) (hpath : List.Forall₂ (ssSame d) path l) (hd : p.ssade = true → d = (x.w && b)) :
    ssFinish s p true (askFor b) (x, path) = (do
      if p.ssade then setFlags s p.snooped .sss5 .sfs8 .sss6 l
      pure (x.written p (askFor b))) := by
  unfold ssFinish
  rw [ssDenies_askFor s.caps p.legacy hleaves]
  dsimp only
  by_cases hade : p.ssade = true
  · rw [accessWrites_askFor, Bool.and_comm b, ← hd hade, ssFlags_eq_setFlags p.snooped hpath, SsFound.written, accessWrites_askFor,
      Bool.and_comm b, ← hd hade]
  · rw [if_neg hade, if_neg hade]
    rfl

theorem any_of_leaves {b rd w : Bool} (h : leaves b rd w = true) : rd = true ∨ w = true :=
  (Bool.or_eq_true_iff.1 h).imp_right fun h => (Bool.and_eq_true_iff.1 h).1

theorem ssWalk_leaves (huse : s.choice.use = []) {b d : Bool} {a : Addr} {l : List UsedEntry} {k : Nat}
    (h : ssLeads s p d a l k) (hleaves : leaves b (allSet l 0) (allSet l 1) = true)
    (hset : p.ssade = true → d = (allSet l 1 && b) ∧ settable s p.snooped l) :
    finds (ssWalk s p true (askFor b) a) ((ssLeaf s a l k).written p (askFor b)) (walkReads l p.snooped)
      (if p.ssade then owedUpdates l else []) := by
  obtain ⟨path, hpath, hfind, -⟩ := ssFind_leads huse (askFor b) h
  unfold ssWalk
  refine finds.bind (l' := []) (u := []) (u' := if p.ssade then owedUpdates l else []) (hfind (any_of_leaves hleaves)) ?_
  rw [ssFinish_of_leaves (x := ssLeaf s a l k) hleaves hpath fun hade => (hset hade).1]
  by_cases hade : p.ssade = true
  · simp only [hade, if_true]
    exact (finds_setFlags (hset hade).2).last (finds_pure _)
  · simp only [hade]
    exact finds_pure _

theorem ssWalk_leavesNothing (huse : s.choice.use = []) {b d : Bool} {a : Addr} {l : List UsedEntry} {k : Nat}
    (h : ssLeads s p d a l k) (hnothing : leaves b (allSet l 0) (allSet l 1) = false) :
    stops (ssWalk s p true (askFor b) a) (nothingLeft p.legacy b (allSet l 1)) (walkReads l p.snooped) := by
  obtain ⟨path, -, hfind, hstop⟩ := ssFind_leads huse (askFor b) h
  have hr : allSet l 0 = false := (Bool.or_eq_false_iff.1 hnothing).1
  unfold ssWalk
  cases hw : allSet l 1 with
  | false => exact (hstop hr hw).bind _
  | true =>
    refine (hfind (.inr hw)).last_stops ?_
    rw [hr, hw] at hnothing
    have hdenies := ssDenies_askFor_of_nothing s.caps p.legacy hnothing rfl
    unfold ssFinish ssLeaf
    rw [hr, hw, hdenies]
    exact (stops_throw _).bind _

theorem ssWalk_leaves_flagsFail (huse : s.choice.use = []) {b : Bool} {a : Addr} {l : List UsedEntry} {k : Nat}
    (h : ssLeads s p (allSet l 1 && b) a l k) (hleaves : leaves b (allSet l 0) (allSet l 1) = true) (hade : p.ssade = true)
    {c : Cond} (hflags : stops (setFlags s p.snooped .sss5 .sfs8 .sss6 l) c []) :
    stops (ssWalk s p true (askFor b) a) c (walkReads l p.snooped) := by
  obtain ⟨path, hpath, hfind, -⟩ := ssFind_leads huse (askFor b) h
  unfold ssWalk
  refine (hfind (any_of_leaves hleaves)).last_stops ?_
  rw [ssFinish_of_leaves (x := ssLeaf s a l k) hleaves hpath fun _ => rfl, if_pos hade]
  exact hflags.bind _

end Sys2Proof.Machine
end

section
/-! O44: translation requests by legacy tables. -/

namespace Sys2Proof.Machine

variable {α : Type} {s : State} {r : MemReq}

/-! ## A legacy translation request in stages -/

/-- What a legacy context entry and a page make of a translation request. -/
def legacyGiven (s : State) (r : MemReq) (ce : BitVec 256) (p : PageResult) : Found :=
  { hpa := p.output r.addr, page := p, legacy := true, pgtt := if ceTt ce == 2 then 4 else 2, pasid := 0, did := ceDid ce,
    ce := ce, pe := 0, r := p.r, w := p.w && !(ReqKind.translation == .translation && reqReadOnly s.caps r), special := false,
    fromIotlb := false }

/-- The page that the second stage of a legacy context entry gives a translation request. -/
def legacyPage (s : State) (r : MemReq) (ce : BitVec 256) : Walk PageResult :=
  keepBad s r (legacyGiven s r ce) do
    let f ← ctxMarked s r.sid ce (ssLast s (legacySs s ce) true (effAccess s.caps .translation r) true true r.addr)
    pure (ssPage f)

/-- The translation of a legacy translation request, behind the checks of its context entry, without a cached one. -/
def legacyReply (s : State) (r : MemReq) (ce : BitVec 256) : Walk Found :=
  if isSpecial .translation r then pure { legacyGiven s r ce PageResult.none with special := true }
  else if ceTt ce == 2 then do
    check (s.hpaEnd ≤ r.addr.toNat) .lgn1_3
    check (inInterruptRange r.addr) .lgn4
    pure (legacyGiven s r ce (ptPage s false r.addr))
  else do
    let p ← legacyPage s r ce
    check (outputInRange .translation p r.addr) .lgn4
    pure (legacyGiven s r ce p)

theorem keepsN_iotlbTry_of_unused (huse : s.choice.use = []) (lenient : Bool) (r : MemReq) (a : Access) :
    keepsN (iotlbTry s lenient r a) := by
  unfold iotlbTry
  rw [State.iotlbLookup_of_unused huse]
  exact (keepsN_note 3 0 none).bind fun _ => keepsN_pure none

theorem translation_leads_legacy (hon : s.legacyOn) (huse : s.choice.use = []) (hp : r.pasid = none) :
    leadsN (translate s .translation r) (legacyThen s .translation r.sid fun ce => legacyReply s r ce) Trail.empty.seen false
      Trail.empty.seen false := by
  obtain ⟨hmode, hscal⟩ := modeFault_of_legacyOn hon
  unfold translate translateLegacy
  refine ((finds_checkMode hmode).unseenN (keepsN_checkMode s) _ _).leads ?_
  rw [if_neg (by simp [hscal])]
  refine (checkedN (by simp [hp]) .rta2 _ _).leads ?_
  refine ((finds_iotlbTry_of_unused huse _ r _).unseenN (keepsN_iotlbTry_of_unused huse _ _ _) _ _).leads ?_
  exact leadsN_refl _ _ _

/-- The same behind a context entry that serves the request. -/
theorem translation_leads_legacyReply (hon : s.legacyOn) (huse : s.choice.use = []) (hp : r.pasid = none) {ca : Addr}
    {ce : BitVec 256} (hce : s.legacyContext r.sid ca ce) (htt : ceTt ce = 1) :
    leadsN (translate s .translation r) (legacyReply s r ce) Trail.empty.seen false (s.legacySeen r.sid ca ce) false :=
  (translation_leads_legacy hon huse hp).trans (legacyThen_leads huse hce (.inr htt) _)

/-- In legacy mode no request has a PASID (22 R704). -/
theorem translation_fails_legacyPasid (hon : s.legacyOn) (hp : r.pasid ≠ none) :
    failsWith (translate s .translation r) .rta2 [] false false := by
  obtain ⟨hmode, hscal⟩ := modeFault_of_legacyOn hon
  unfold translate translateLegacy
  refine ((finds_checkMode hmode).unseenN (keepsN_checkMode s) _ _).bind_faults ?_
  rw [if_neg (by simp [hscal])]
  exact (failedN (Option.isSome_iff_ne_none.2 hp) .rta2 _ _).bind _

theorem isSpecial_translation (hp : r.pasid = none) : isSpecial .translation r = inInterruptRange r.addr := by
  simp [isSpecial, hp]

theorem legacyReply_special (hp : r.pasid = none) (hrange : inInterruptRange r.addr = true) (ce : BitVec 256) :
    legacyReply s r ce = pure { legacyGiven s r ce PageResult.none with special := true } := by
  unfold legacyReply
  rw [if_pos (by rw [isSpecial_translation hp, hrange])]

theorem legacyReply_walks (hp : r.pasid = none) (hrange : inInterruptRange r.addr = false) {ce : BitVec 256} (htt : ceTt ce = 1) :
    legacyReply s r ce = (do
      let p ← legacyPage s r ce
      check (outputInRange .translation p r.addr) .lgn4
      pure (legacyGiven s r ce p)) := by
  unfold legacyReply
  rw [if_neg (by simp [isSpecial_translation hp, hrange]), if_neg (by simp [htt])]

/-! ## The page -/

section
variable {ce : BitVec 256} {b : Bool}

theorem legacyPage_finds (hb : b = !readOnlyRequest s.caps r) {f : SsFound} {l : List UnitAccess}
    (h : finds (ssWalk s (legacySs s ce) true (askFor b) r.addr) f l []) : finds (legacyPage s r ce) (ssPage f) l [] := by
  subst hb
  unfold legacyPage
  rw [effAccess_translation]
  refine (keepBad_alike r _ _).finds ?_
  exact ((ctxMarked_alike r.sid ce _).finds ((ssLast_alike true _ true true r.addr).finds h)).last (finds_pure _)

theorem legacyPage_stops (hb : b = !readOnlyRequest s.caps r) {c : Cond} {l : List UnitAccess}
    (h : stops (ssWalk s (legacySs s ce) true (askFor b) r.addr) c l) : stops (legacyPage s r ce) c l := by
  subst hb
  unfold legacyPage
  rw [effAccess_translation]
  refine (keepBad_alike r _ _).stops ?_
  exact ((ctxMarked_alike r.sid ce _).stops ((ssLast_alike true _ true true r.addr).stops h)).bind _

theorem seesN_legacyPage (hb : b = !readOnlyRequest s.caps r) {n : Bool}
    (h : seesN (ssFind s (legacySs s ce) (askFor b) r.addr) n) : seesN (legacyPage s r ce) n := by
  subst hb
  unfold legacyPage
  rw [effAccess_translation]
  exact (((h.ssLast true true true).ctxMarked r.sid ce).bind fun _ => keepsN_pure _).keepBad r _

end

/-- The SNP bit of the leaf of a legacy page. -/
def legacySnp (s : State) (l : List UsedEntry) : Bool := s.caps.sc && bitAt (leafOf l) 11

section
variable {ce : BitVec 256} {l : List UsedEntry} {k : Nat} {b : Bool}

theorem seesN_legacyPage_mapped (huse : s.choice.use = []) (hmap : s.legacyMapped ce r.addr l k) :
    seesN (legacyPage s r ce) (legacySnp s l) :=
  seesN_legacyPage rfl (seesN_ssFind (p := legacySs s ce) huse _ hmap)

/-- The tables map the address, and the request is left a permission. -/
theorem legacyPage_mapped (huse : s.choice.use = []) (hmap : s.legacyMapped ce r.addr l k) (hb : b = !readOnlyRequest s.caps r)
    (hleaves : leaves b (allSet l 0) (allSet l 1) = true) (x : Seen) :
    yieldsN (legacyPage s r ce) (ssPage ((ssLeaf s r.addr l k).written (legacySs s ce) (askFor b))) x false
      (x.reads (walkReads l s.caps.c)) (legacySnp s l) := by
  have hfinds : finds (legacyPage s r ce) _ (walkReads l s.caps.c) [] :=
    legacyPage_finds hb (ssWalk_leaves (p := legacySs s ce) huse hmap hleaves nofun)
  simpa using (hfinds.yields x).seeing (seesN_legacyPage_mapped huse hmap) false

/-- The tables map the address, and the request is left none. -/
theorem legacyPage_leavesNothing (huse : s.choice.use = []) (hmap : s.legacyMapped ce r.addr l k)
    (hb : b = !readOnlyRequest s.caps r) (hnothing : leaves b (allSet l 0) (allSet l 1) = false) (x : Seen) :
    faultsN (legacyPage s r ce) (nothingLeft true b (allSet l 1)) x false (walkReads l s.caps.c ++ x.bus) x.fpd (legacySnp s l) := by
  have hstops : stops (legacyPage s r ce) (nothingLeft true b (allSet l 1)) (walkReads l s.caps.c) :=
    legacyPage_stops hb (ssWalk_leavesNothing (p := legacySs s ce) huse hmap hnothing)
  simpa using faults.seeing (hstops x) (seesN_legacyPage_mapped huse hmap) false

end

/-- A page begins at its own address. -/
theorem highBits_outputOf {e : BitVec 64} {k : Nat} (h : leafAt e k) (a : Addr) :
    highBits (s.outputOf e k a) k = pgAddr s.plat.haw e k := by
  have hlow : lowBits (s.outputOf e k a) k = lowBits a k := by
    rw [lowBits, lowBits, toNat_outputOf_mod h a le_rfl]
  have hsum := highBits_add_lowBits (s.outputOf e k a) k
  rw [hlow] at hsum
  exact (BitVec.add_left_inj (lowBits a k)).1 hsum

/-! ## Addresses that the tables do not map -/

theorem askFor_eq (ro : Bool) : askFor (!ro) = if ro then .read else .atomic := by cases ro <;> rfl

/-- The condition of a legacy walk that stops, and its answer. -/
theorem haltCond_legacy (acc : Access) (n : Nat) (x : Halt) : (haltCond true acc (n == 1) x).reason = x.legacyReason acc n ∧
    (haltCond true acc (n == 1) x).qualified = true ∧ (haltCond true acc (n == 1) x).answered = true := by
  cases x with
  | unread =>
    by_cases h : n = 1
    · subst h
      exact ⟨rfl, rfl, rfl⟩
    · simp only [haltCond, Halt.legacyReason, beq_false_of_ne h, if_neg h]
      exact ⟨rfl, rfl, rfl⟩
  | absent => cases acc <;> exact ⟨rfl, rfl, rfl⟩
  | reserved => exact ⟨rfl, rfl, rfl⟩

theorem legacyPage_unmapped (huse : s.choice.use = []) {ce : BitVec 256} {b : Bool} (hb : b = !readOnlyRequest s.caps r)
    {reason : BitVec 8} {l : List Addr} (h : s.legacyUnmapped ce (askFor b) r.addr reason l) (x : Seen) :
    ∃ c, c.reason = reason ∧ c.qualified = true ∧ c.answered = true ∧
      faultsN (legacyPage s r ce) c x false (entryReads l s.caps.c ++ x.bus) x.fpd false := by
  have stopped : ∀ {c} {l : List UnitAccess}, stops (ssFind s (legacySs s ce) (askFor b) r.addr) c l →
      keepsN (ssFind s (legacySs s ce) (askFor b) r.addr) → faultsN (legacyPage s r ce) c x false (l ++ x.bus) x.fpd false :=
    fun hstop hn => faults.keeping (legacyPage_stops hb (hstop.bind _) x) (seesN_legacyPage hb hn) false
  unfold State.legacyUnmapped at h
  split at h
  next hbeyond =>
    obtain ⟨rfl, rfl⟩ := h
    exact ⟨.lgn1_1, rfl, rfl, rfl, stopped (ssFind_beyond (p := legacySs s ce) _ hbeyond) (keepsN_ssFind_of_beyond _ hbeyond)⟩
  next hbound =>
    obtain ⟨halt, hstuck, rfl⟩ := h
    obtain ⟨hreason, hq, hanswered⟩ := haltCond_legacy (askFor b) l.length halt
    have hin := Nat.lt_of_not_le hbound
    exact ⟨_, hreason, hq, hanswered, stopped (ssFind_stuck (p := legacySs s ce) huse _ hin hstuck)
      (keepsN_ssFind_of_stuck (p := legacySs s ce) huse _ hin hstuck)⟩

theorem plainReason_of_legacyRefuses {sid : SourceId} {reads : List UnitAccess} {reason : BitVec 8} {fpd : Bool}
    (h : s.LegacyRefuses sid reads reason fpd) : plainReason reason = true := by cases h <;> rfl

theorem plainReason_of_modeRefuses {reason : BitVec 8} (h : s.modeRefuses reason) : plainReason reason = true := by
  obtain ⟨rfl, -⟩ | ⟨rfl, -⟩ := h <;> rfl

/-! ## The answers -/

/-- What a legacy translation request is left is answered, or nothing (43 R1060). -/
theorem turnedAway_of_legacyMapped (htes : s.gsts.tes = true) (hu : s.uncached) (q : s.quiet .perf) (hp : r.pasid = none)
    (hon : s.legacyOn) {ca : Addr} {ce : BitVec 256} (hce : s.legacyContext r.sid ca ce) (htt : ceTt ce = 1)
    (hrange : inInterruptRange r.addr = false) {l : List UsedEntry} {k : Nat} {w : Bool} (hmap : s.legacyMapped ce r.addr l k)
    (hw : w = (allSet l 1 && !readOnlyRequest s.caps r))
    (hfree : (allSet l 0 || w) = true → regionMeetsInterruptRange (pgAddr s.plat.haw (leafOf l) k) k = false) :
    s.turnedAway (.translationRequest r) [.respond r.sid (.translation (pageAnswer r (pgAddr s.plat.haw (leafOf l) k) k
      (allSet l 0) w (legacySnp s l)))] (walkReads l s.caps.c ++ s.legacyReads r.sid ca) none := by
  have hreply := translation_leads_legacyReply hon hu.1 hp hce htt
  rw [legacyReply_walks hp hrange htt] at hreply
  cases hleaves : leaves (!readOnlyRequest s.caps r) (allSet l 0) (allSet l 1) with
  | true =>
    have hpage : (ssPage ((ssLeaf s r.addr l k).written (legacySs s ce) (askFor (!readOnlyRequest s.caps r)))).hpa =
        pgAddr s.plat.haw (leafOf l) k := highBits_outputOf (ssLeads_leafAt (p := legacySs s ce) hmap) r.addr
    have hout := hfree (by rw [hw]; exact hleaves)
    rw [← hpage] at hout
    have hfound := hreply.yields ((legacyPage_mapped hu.1 hmap rfl hleaves _).bind
      ((checkedN hout .lgn4 _ _).bind ((finds_pure _).unseenN (keepsN_pure _) _ _)))
    have haway := turnedAway_of_foundWith htes hu q rfl hfound
    rw [buildCompletion_page _ _ rfl] at haway
    rw [hw, ← hpage]
    simp only [Seen.reads, State.legacySeen_bus] at haway
    exact haway
  | false =>
    have hfails := hreply.faults ((legacyPage_leavesNothing hu.1 hmap rfl hleaves _).bind _)
    obtain ⟨hanswered, hzero, h91⟩ := nothingLeft_silent true (!readOnlyRequest s.caps r) (allSet l 1)
    have haway := turnedAway_of_silentFault htes hu q hanswered hzero h91 hfails
    have hnone : (allSet l 0 || w) = false := by rw [hw]; exact hleaves
    rw [pageAnswer, if_neg (by simp [hnone])]
    simpa using haway

/-- Settles O44: the tables of the source refuse the request or lead to its second stage, whose page, or fault, is answered with the
N bit of the leaf. -/
theorem translationRequestAnswered : Obligations.TranslationRequestAnswered := by
  intro s r hwf qp
  refine ⟨fun htes => turnedAway_of_noTranslation htes qp, fun htes hu => ⟨fun ca ce hp hon hce htt => ⟨fun hrange => ?_,
    fun hrange l k w hmap hw hfree => turnedAway_of_legacyMapped htes hu qp hp hon hce htt hrange hmap hw hfree⟩,
    fun qf hrec => ?_⟩⟩
  · have hreply := translation_leads_legacyReply hon hu.1 hp hce htt
    rw [legacyReply_special hp hrange] at hreply
    have haway := turnedAway_of_foundWith htes hu qp rfl (hreply.yields ((finds_pure _).unseenN (keepsN_pure _) _ _))
    rw [buildCompletion_special _ _ rfl] at haway
    simpa using haway
  have refused : ∀ {reads reason fpd}, plainReason reason = true → refusedN (translate s .translation r) reads reason fpd false →
      s.answersFault r reads false reason fpd := fun hplain h => answersFault_of_refusedN htes hu qp qf hrec hplain h
  have failed : ∀ {c reads fpd n}, c.qualified = true → c.answered = true →
      failsWith (translate s .translation r) c reads fpd n → (answersZero c.reason = true → n = false) →
      s.answersFault r reads false c.reason fpd := by
    intro c reads fpd n hq hanswered h hn
    simpa [hq] using answersFault_of_failsWith htes hu qp qf hrec hanswered h hn
  refine ⟨fun reason h => refused (plainReason_of_modeRefuses h) (refusedN_of_modeRefuses h _),
    fun hon hp => refused rfl (refusedN_of_unmet (translation_fails_legacyPasid hon hp)),
    fun hon hp => ⟨fun reads reason fpd h => refused (plainReason_of_legacyRefuses h)
      ((translation_leads_legacy hon hu.1 hp).refusedN (legacyThen_refused hu.1 h _ _)),
    fun ca ce hce => ⟨fun htt => ?_, fun htt hrange => ⟨fun reason l hun => ?_, fun l k hmap hleaves hout => ?_⟩⟩⟩⟩
  · exact failed (c := .lct5) rfl rfl
      ((translation_leads_legacy hon hu.1 hp).faults (legacyThen_unserved hu.1 hce (by simpa [typeServes] using htt) _)) fun _ => rfl
  · have hreply := translation_leads_legacyReply hon hu.1 hp hce htt
    rw [legacyReply_walks hp hrange htt] at hreply
    rw [← askFor_eq] at hun
    obtain ⟨c, rfl, hq, hanswered, hfails⟩ := legacyPage_unmapped hu.1 rfl hun (s.legacySeen r.sid ca ce)
    simpa using failed hq hanswered (hreply.faults (hfails.bind _)) fun _ => rfl
  · have hreply := translation_leads_legacyReply hon hu.1 hp hce htt
    rw [legacyReply_walks hp hrange htt] at hreply
    have hpage : (ssPage ((ssLeaf s r.addr l k).written (legacySs s ce) (askFor (!readOnlyRequest s.caps r)))).hpa =
        pgAddr s.plat.haw (leafOf l) k := highBits_outputOf (ssLeads_leafAt (p := legacySs s ce) hmap) r.addr
    rw [← hpage] at hout
    have hfails := hreply.faults ((legacyPage_mapped hu.1 hmap rfl hleaves _).bind_faults ((failedN hout .lgn4 _ _).bind _))
    simp only [Seen.reads, State.legacySeen_bus, State.legacySeen_fpd] at hfails
    exact failed (c := .lgn4) rfl rfl hfails fun h => absurd h (by decide)

end Sys2Proof.Machine
end

section
/-! The PASID-table entry for a translation request in scalable mode (22 R710 to R715; 43 R1055). -/

namespace Sys2Proof.Machine

variable {α : Type} {s : State} {r : MemReq}

/-! ## N in the tables -/

theorem keepsN_keepPasid (sid : SourceId) (pasid : Pasid) (pe : BitVec 512) : keepsN (keepPasid sid pasid pe) :=
  keepsN_modify fun _ => rfl

theorem keepsN_pasidTables (s : State) (pasid : Pasid) (ce : BitVec 256) : keepsN (pasidTables s pasid ce) := by
  unfold pasidTables
  refine (keepsN_fetch s _ _ _ _).bind fun v => (keepsN_meet _).bind fun _ => ?_
  refine (keepsN_check _ _).bind fun _ => (keepsN_check _ _).bind fun _ => ?_
  exact (keepsN_fetch s _ _ _ _).bind fun _ => keepsN_pure _

theorem keepsN_pasidAnswer (e : PasidEntry) : keepsN e.answer := by
  unfold PasidEntry.answer
  refine (keepsN_meet _).bind fun _ => ?_
  split
  · exact keepsN_pure _
  · exact keepsN_throw _

theorem keepsN_pasidFetch (s : State) (sid : SourceId) (pasid : Pasid) (ce : BitVec 256) : keepsN (pasidFetch s sid pasid ce) := by
  have hreach : keepsN (directoryReaches sid pasid ce) := (keepsN_check _ _).bind fun _ => keepsN_keepCtx _ _ _
  unfold pasidFetch
  refine hreach.bind fun _ => (keepsN_note _ _ _).bind fun _ => ?_
  split
  · exact (keepsN_note _ _ _).bind fun _ => keepsN_pasidAnswer _
  · exact (keepsN_pasidTables s pasid ce).pasidMarked sid pasid 0

theorem keepsN_pasidChecks (s : State) (sid : SourceId) (pasid : Pasid) (pe : BitVec 512) : keepsN (pasidChecks s sid pasid pe) := by
  have hentry : keepsN (pasidEntryChecks s pe) := by
    unfold pasidEntryChecks
    exact (keepsN_check _ _).bind fun _ => (keepsN_check _ _).bind fun _ => (keepsN_check _ _).bind fun _ =>
      (keepsN_check _ _).bind fun _ => (keepsN_check _ _).bind fun _ => keepsN_check _ _
  unfold pasidChecks
  exact (keepsN_meet _).bind fun _ => hentry.pasidMarked sid pasid pe

/-! ## A translation request in scalable mode in stages -/

/-- What a PASID-table entry and a page make of a translation request. -/
def scalableGiven (s : State) (r : MemReq) (ce : BitVec 256) (pasid : Pasid) (pr : Bool) (pe : BitVec 512) (p : PageResult) :
    Found :=
  { hpa := p.output r.addr, page := p, legacy := false, pgtt := pePgtt pe, pasid := pasid, did := peDid pe, ce := ce, pe := pe,
    r := p.r
    w := (if usesFs (pePgtt pe) then fsWrite pr (peWpe pe) p.rw else true) && p.w &&
      !(ReqKind.translation == .translation && reqReadOnly s.caps r)
    special := false, fromIotlb := false }

/-- The walk that a PASID-table entry asks for, for a translation request. -/
def scalablePage (s : State) (r : MemReq) (pasid : Pasid) (pr : Bool) (pe : BitVec 512) : Walk PageResult :=
  match (pePgtt pe).toNat with
  | 1 => fsWalk s (scalableFs s pasid pr pe false) true (effAccess s.caps .translation r) r.addr
  | 3 => fsWalk s (scalableFs s pasid pr pe true) true (effAccess s.caps .translation r) r.addr
  | 2 => do
    let f ← ssLast s (scalableSs s pe) true (effAccess s.caps .translation r) true true r.addr
    pure (ssPage f)
  | _ => do
    check (s.hpaEnd ≤ r.addr.toNat) .sgn4_2
    pure (ptPage s r.pasid.isSome r.addr)

/-- A translation request that its PASID-table entry allows, without a cached translation. -/
def scalableReply (s : State) (r : MemReq) (ce : BitVec 256) (pasid : Pasid) (pr : Bool) (pe : BitVec 512) : Walk Found :=
  if isSpecial .translation r then pure { scalableGiven s r ce pasid pr pe PageResult.none with special := true }
  else do
    let p ← keepBad s r (scalableGiven s r ce pasid pr pe) (scalablePage s r pasid pr pe)
    check (outputInRange .translation p r.addr) .sgn8_2
    pure (scalableGiven s r ce pasid pr pe p)

/-- A translation request behind the checks of its PASID-table entry. From here on N is told by the entry and the page. -/
def replyFinish (s : State) (r : MemReq) (ce : BitVec 256) (pasid : Pasid) (pr er : Bool) (pe : BitVec 512) : Walk Found := do
  modify fun u => { u with n := pePgsnp pe }
  check (er && !s.caps.ers) .spt5
  check (pr && !peSre pe) .spt6
  keepPasid r.sid pasid pe
  modify fun u => { u with did := some (peDid pe) }
  scalableReply s r ce pasid pr pe

/-- A translation request behind the choice of its PASID. -/
def replyEntry (s : State) (r : MemReq) (ce : BitVec 256) (pasid : Pasid) (pr er : Bool) : Walk Found := do
  let pe ← pasidFetch s r.sid pasid ce
  pasidChecks s r.sid pasid pe
  if s.caps.cm then keepPasid r.sid pasid pe
  replyFinish s r ce pasid pr er pe

/-- A translation request behind the checks of its context entry. -/
def replyRest (s : State) (r : MemReq) (ce : BitVec 256) : Walk Found := do
  check (ReqKind.translation == .translation && !smDte ce) .sct5
  let (pasid, pr, er) := effPasid s r ce
  if r.pasid.isSome then do
    check (!smPaside ce) .sct6
    check (s.caps.rps && pasid == smRidPasid s.caps ce) .sct9
    let tooWide := 2 ^ s.caps.pssBits ≤ pasid.toNat
    if true && tooWide then keepCtx r.sid 0 ce
    check tooWide .sgn10
  replyEntry s r ce pasid pr er

theorem translation_leads_scalable (hon : s.scalableOn) (huse : s.choice.use = []) (r : MemReq) :
    leadsN (translate s .translation r) (contextThen s r.sid r.pasid.isNone fun ce => replyRest s r ce) Trail.empty.seen false
      Trail.empty.seen false := by
  obtain ⟨hmode, hscal⟩ := modeFault_of_scalableOn hon
  unfold translate translateScalable
  refine ((finds_checkMode hmode).unseenN (keepsN_checkMode s) _ _).leads ?_
  rw [if_pos (by simp [hscal])]
  refine ((finds_iotlbTry_of_unused huse _ r _).unseenN (keepsN_iotlbTry_of_unused huse _ _ _) _ _).leads ?_
  exact leadsN_refl _ _ _

section
variable {ca da pa : Addr} {ce : BitVec 256} {pasid : Pasid} {pe : BitVec 512}

/-- Behind the context entry of a device. -/
theorem translation_leads_replyRest (hon : s.scalableOn) (huse : s.choice.use = []) (hce : s.scalableContext r.sid ca ce)
    (hrid : ridSupported s r.pasid.isNone ce) :
    leadsN (translate s .translation r) (replyRest s r ce) Trail.empty.seen false (s.contextSeen r.sid ca ce) false :=
  (translation_leads_scalable hon huse r).trans (contextThen_leads huse hce hrid _)

theorem replyRest_leads (h : s.requestPasid r ce pasid) (hdte : smDte ce = true) (x : Seen) (n : Bool) :
    leadsN (replyRest s r ce) (replyEntry s r ce pasid (s.requestPriv r ce) (executes r)) x n x n := by
  obtain ⟨hwidth, hpasid⟩ := h
  unfold replyRest State.requestPriv executes effPasid
  refine (checkedN (by simp [hdte]) .sct5 x n).leads ?_
  cases hp : r.pasid with
  | none =>
    rw [hp] at hpasid
    subst hpasid
    exact leadsN_refl _ _ _
  | some p =>
    rw [hp] at hpasid
    obtain ⟨rfl, hpaside, hrid⟩ := hpasid
    refine (checkedN (by simp [hpaside]) .sct6 x n).leads ?_
    refine (checkedN (by simpa using hrid) .sct9 x n).leads ?_
    dsimp only
    rw [if_neg (by simpa using hwidth)]
    exact (checkedN (by simpa using hwidth) .sgn10 x n).leads (leadsN_refl _ _ _)

/-- Behind the choice of the PASID of a device that may use ATS. -/
theorem translation_leads_replyEntry (hon : s.scalableOn) (huse : s.choice.use = []) (hce : s.scalableContext r.sid ca ce)
    (hpasid : s.requestPasid r ce pasid) (hdte : smDte ce = true) :
    leadsN (translate s .translation r) (replyEntry s r ce pasid (s.requestPriv r ce) (executes r)) Trail.empty.seen false
      (s.contextSeen r.sid ca ce) false :=
  (translation_leads_replyRest hon huse hce (ridSupported_of_requestPasid hpasid)).trans (replyRest_leads hpasid hdte _ _)

/-- Behind the PASID-table entry. -/
theorem translation_leads_replyFinish (huse : s.choice.use = []) (h : s.requestTables r ca da pa ce pasid pe)
    (hdte : smDte ce = true) :
    leadsN (translate s .translation r) (replyFinish s r ce pasid (s.requestPriv r ce) (executes r) pe) Trail.empty.seen false
      (s.tablesSeen r.sid ca da pa ce pe) false := by
  obtain ⟨hon, hce, hpasid, d, hd, ht, hpe, hpresent, hrsvd, hprog⟩ := h
  refine (translation_leads_replyEntry hon huse hce hpasid hdte).trans ?_
  unfold replyEntry
  refine ((yields_pasidFetch huse hd ht hpe r.sid _).keeping (keepsN_pasidFetch _ _ _ _) _).leads ?_
  refine ((yields_pasidChecks (finds_pasidEntryChecks hpresent hrsvd hprog) r.sid pasid _).keeping
    (keepsN_pasidChecks _ _ _ _) _).leads ?_
  have hseen : ((((s.contextSeen r.sid ca ce).reads [busRead da.toNat 8 s.caps.c]).meets (bitAt d 1)).reads
      [busRead pa.toNat 64 s.caps.c]).meets (peFpd pe) = s.tablesSeen r.sid ca da pa ce pe := by
    simp [State.contextSeen, State.tablesSeen, Seen.reads, Seen.meets, State.tableReads, State.fpdMet,
      State.directoryFpd_of_read hd.2.2]
  rw [hseen]
  split
  · exact ((finds_keepPasid r.sid pasid pe).unseenN (keepsN_keepPasid _ _ _) _ _).leads (leadsN_refl _ _ _)
  · exact leadsN_refl _ _ _

/-- N becomes that of the PASID-table entry (43 R1062). -/
theorem yieldsN_noteN (b : Bool) (x : Seen) (n : Bool) : yieldsN (modify fun u : Trail => { u with n := b }) () x n x b :=
  fun t ht _ => ⟨{ t with n := b }, rfl, ht, rfl⟩

theorem keepsN_noteDid (did : DomainId) : keepsN (modify fun u : Trail => { u with did := some did }) := keepsN_modify fun _ => rfl

/-- Behind a PASID-table entry that allows the request. -/
theorem translation_leads_scalableReply (huse : s.choice.use = []) (h : s.requestEntry r ca da pa ce pasid pe)
    (hdte : smDte ce = true) :
    leadsN (translate s .translation r) (scalableReply s r ce pasid (s.requestPriv r ce) pe) Trail.empty.seen false
      (s.tablesSeen r.sid ca da pa ce pe) (pePgsnp pe) := by
  obtain ⟨htables, hallows⟩ := h
  have hpriv : (s.requestPriv r ce && !peSre pe) = false := by
    cases hpr : s.requestPriv r ce
    · rfl
    · simp [hallows.1 hpr]
  refine (translation_leads_replyFinish huse htables hdte).trans ?_
  unfold replyFinish
  refine (yieldsN_noteN (pePgsnp pe) _ _).leads ?_
  refine (checkedN (executes_allowed hallows.2) .spt5 _ _).leads ?_
  refine (checkedN hpriv .spt6 _ _).leads ?_
  refine ((finds_keepPasid r.sid pasid pe).unseenN (keepsN_keepPasid _ _ _) _ _).leads ?_
  exact ((finds_noteDid (peDid pe)).unseenN (keepsN_noteDid _) _ _).leads (leadsN_refl _ _ _)

/-! ## Requests that the tables refuse -/

@[simp] theorem State.contextSeen_bus (s : State) (sid : SourceId) (ca : Addr) (ce : BitVec 256) :
    (s.contextSeen sid ca ce).bus = s.contextReads sid ca := by simp [State.contextSeen]

@[simp] theorem State.contextSeen_fpd (s : State) (sid : SourceId) (ca : Addr) (ce : BitVec 256) :
    (s.contextSeen sid ca ce).fpd = ceFpd ce := by simp [State.contextSeen]

/-- The PASID directory and table refuse a PASID, behind the context entry. -/
theorem replyEntry_refused (huse : s.choice.use = []) {pr er : Bool} {reads : List UnitAccess} {reason : BitVec 8} {fpd : Bool}
    (h : s.PasidRefuses r.sid ca ce pasid reads reason fpd) :
    ∃ c b, c.reason = reason ∧ (c.qualified && b) = fpd ∧
      faultsN (replyEntry s r ce pasid pr er) c (s.contextSeen r.sid ca ce) false reads b false := by
  have read : ∀ {c bus fpd}, pasid.toNat / 64 < 2 ^ (smPdts ce + 7) →
      faults (pasidTables s pasid ce) c (s.contextSeen r.sid ca ce) bus fpd →
      faultsN (replyEntry s r ce pasid pr er) c (s.contextSeen r.sid ca ce) false bus fpd false := fun hreach hf =>
    (((pasidFetch_leads huse hreach r.sid _).faults ((pasidMarked_alike r.sid pasid 0 _).faults hf)).keeping
      (keepsN_pasidFetch _ _ _ _) false).bind _
  have checked : ∀ {da pa : Addr} {d : BitVec 64} {pe : BitVec 512} {c : Cond}, s.pasidDirectory ce pasid da d →
      s.pasidTable d pasid pa → s.memRead pa.toNat 64 = some pe.toNat → stops (pasidEntryChecks s pe) c [] →
      faultsN (replyEntry s r ce pasid pr er) c (s.contextSeen r.sid ca ce) false (s.tableReads r.sid ca da pa)
        (s.fpdMet ce da pe) false := by
    intro da pa d pe c hd ht hpe hstop
    refine ((yields_pasidFetch huse hd ht hpe r.sid _).keeping (keepsN_pasidFetch _ _ _ _) _).bind_faults (faultsN.bind ?_ _)
    simpa [State.tableReads, State.fpdMet, State.directoryFpd_of_read hd.2.2] using
      (faults_pasidChecks hstop r.sid pasid ((((s.contextSeen r.sid ca ce).reads [busRead da.toNat 8 s.caps.c]).meets
        (bitAt d 1)).reads [busRead pa.toNat 64 s.caps.c])).keeping (keepsN_pasidChecks _ _ _ _) false
  /- The directory entry is read, and what is made of it stops. -/
  have directory : ∀ {d : BitVec 64} {c l}, pasid.toNat / 64 < 2 ^ (smPdts ce + 7) →
      s.memRead (entryAddr (smPasidDir s.plat.haw ce) 8 (pasid.toNat / 64)).toNat 8 = some d.toNat →
      stops (do
        check (!bitAt d 0) .spd2
        check (pdeRsvd s.plat.haw d) .spd3
        let p ← fetch s (entryAddr (addrField d 0 12 s.plat.haw) 64 (pasid.toNat % 64)) 64 s.caps.c .spt1
        pure (BitVec.ofNat 512 p)) c l →
      faultsN (replyEntry s r ce pasid pr er) c (s.contextSeen r.sid ca ce) false
        (l ++ busRead (entryAddr (smPasidDir s.plat.haw ce) 8 (pasid.toNat / 64)).toNat 8 s.caps.c :: s.contextReads r.sid ca)
        (ceFpd ce || bitAt d 1) false := by
    intro d c l hreach hread hstop
    refine read hreach ?_
    unfold pasidTables
    refine ((finds_fetch hread s.caps.c .spd1).yields _).bind_faults ?_
    rw [BitVec.ofNat_toNat, BitVec.setWidth_eq]
    refine (yields_meet (bitAt d 1) _).bind_faults ?_
    simpa using hstop (((s.contextSeen r.sid ca ce).reads
      [busRead (entryAddr (smPasidDir s.plat.haw ce) 8 (pasid.toNat / 64)).toNat 8 s.caps.c]).meets (bitAt d 1))
  cases h with
  | tooWide hwide =>
    refine ⟨.sct7, ceFpd ce, rfl, Bool.true_and _, faultsN.bind ?_ _⟩
    simpa using ((stops_pasidFetch hwide r.sid).faults_same (s.contextSeen r.sid ca ce)).keeping (keepsN_pasidFetch _ _ _ _) false
  | directoryUnread da hreach hda hunread =>
    subst hda
    refine ⟨.spd1, ceFpd ce, rfl, Bool.false_and _, read hreach ?_⟩
    unfold pasidTables
    simpa using (stops_fetch hunread s.caps.c .spd1).bind _ (s.contextSeen r.sid ca ce)
  | directoryAbsent da d hd hno =>
    obtain ⟨hreach, rfl, hread⟩ := hd
    exact ⟨.spd2, _, rfl, Bool.true_and _, directory hreach hread ((stops_check (by simp [hno]) .spd2).bind _)⟩
  | directoryReserved da d hd hyes hrsvd =>
    obtain ⟨hreach, rfl, hread⟩ := hd
    exact ⟨.spd3, _, rfl, Bool.true_and _, directory hreach hread
      ((finds_check (by simp [hyes]) .spd2).skip_stops ((stops_check hrsvd .spd3).bind _))⟩
  | unread da pa d hd ht hunread =>
    obtain ⟨hreach, rfl, hread⟩ := hd
    obtain ⟨hyes, hrsvd, rfl⟩ := ht
    exact ⟨.spt1, ceFpd ce || bitAt d 1, rfl, Bool.false_and _, directory hreach hread
      ((finds_check (by simp [hyes]) .spd2).skip_stops ((finds_check hrsvd .spd3).skip_stops
        ((stops_fetch hunread s.caps.c .spt1).bind _)))⟩
  | absent da pa d pe hd ht hpe hno =>
    exact ⟨.spt2, _, rfl, Bool.true_and _, checked hd ht hpe ((stops_check (by simp [hno]) .spt2).bind _)⟩
  | reserved da pa d pe hd ht hpe hyes hrsvd =>
    exact ⟨.spt3, _, rfl, Bool.true_and _, checked hd ht hpe
      ((finds_check (by simp [hyes]) .spt2).skip_stops ((stops_check hrsvd .spt3).bind _))⟩
  | programming da pa d pe hd ht hpe hyes hrsvd hprog =>
    obtain ⟨c, hc, hq, hstop⟩ := stops_pasidEntryChecks hyes hrsvd hprog
    exact ⟨c, _, hc, by simp [hq], checked hd ht hpe hstop⟩

/-- A check behind the context entry fails. -/
theorem refusedN_of_replyRest (hon : s.scalableOn) (huse : s.choice.use = []) (hce : s.scalableContext r.sid ca ce)
    (hrid : ridSupported s r.pasid.isNone ce) {c : Cond} (hq : c.qualified = true)
    (h : ∀ x n, faultsN (replyRest s r ce) c x n x.bus x.fpd n) :
    refusedN (translate s .translation r) (s.contextReads r.sid ca) c.reason (ceFpd ce) false :=
  refusedN_of_qualified hq (by simpa using (translation_leads_replyRest hon huse hce hrid).faults (h _ _))

/-- The context entry does not let the device use ATS (22 R710). -/
theorem replyRest_noAts (hdte : smDte ce = false) (x : Seen) (n : Bool) : faultsN (replyRest s r ce) .sct5 x n x.bus x.fpd n := by
  unfold replyRest
  exact (failedN (by simp [hdte]) .sct5 x n).bind _

/-- The tables refuse a request of a device that may use ATS. -/
theorem translation_refused_tables (hon : s.scalableOn) (huse : s.choice.use = []) {reads : List UnitAccess} {reason : BitVec 8}
    {fpd : Bool} (h : s.TablesRefuse r reads reason fpd) (hats : ∀ ca ce, s.scalableContext r.sid ca ce → smDte ce = true) :
    refusedN (translate s .translation r) reads reason fpd false := by
  cases h with
  | context reads reason fpd h => exact (translation_leads_scalable hon huse r).refusedN (contextThen_refused huse h _ _)
  | ridPasid ca ce hce hp hrid =>
    refine (translation_leads_scalable hon huse r).refusedN ?_
    rw [hp]
    exact refusedN_of_qualified (c := .sct4_2) rfl (contextThen_ridPasid huse hce hrid _)
  | pasidDisabled ca ce p hce hp hno =>
    refine refusedN_of_replyRest hon huse hce (ridSupported_of_pasid hp ce) (c := .sct6) rfl fun x n => ?_
    unfold replyRest effPasid
    rw [hp]
    exact (checkedN (by simp [hats ca ce hce]) .sct5 x n).bind_faults ((failedN (by simp [hno]) .sct6 x n).bind _)
  | ridPasidUsed ca ce p hce hp hyes hrps hrid =>
    refine refusedN_of_replyRest hon huse hce (ridSupported_of_pasid hp ce) (c := .sct9) rfl fun x n => ?_
    unfold replyRest effPasid
    rw [hp]
    exact (checkedN (by simp [hats ca ce hce]) .sct5 x n).bind_faults ((checkedN (by simp [hyes]) .sct6 x n).bind_faults
      ((failedN (by simp [hrps, hrid]) .sct9 x n).bind _))
  | pasidTooWide ca ce p hce hp hyes hrid hwide =>
    refine refusedN_of_replyRest hon huse hce (ridSupported_of_pasid hp ce) (c := .sgn10) rfl fun x n => ?_
    unfold replyRest effPasid
    rw [hp]
    refine (checkedN (by simp [hats ca ce hce]) .sct5 x n).bind_faults ((checkedN (by simp [hyes]) .sct6 x n).bind_faults
      ((checkedN (by simpa using hrid) .sct9 x n).bind_faults ?_))
    dsimp only
    rw [if_pos (by simpa using hwide)]
    exact ((finds_keepCtx r.sid 0 ce).unseenN (keepsN_keepCtx _ _ _) x n).bind_faults
      ((failedN (by simpa using hwide) .sgn10 x n).bind _)
  | pasid ca ce pasid reads reason fpd hce hpasid h =>
    obtain ⟨c, b, hc, hq, hfails⟩ := replyEntry_refused huse h
    exact ⟨c, b, hc, hq, (translation_leads_replyEntry hon huse hce hpasid (hats ca ce hce)).faults hfails⟩

/-- The PASID-table entry refuses the request; N is that of the entry by then. -/
theorem translation_refused_entry (huse : s.choice.use = []) (h : s.requestTables r ca da pa ce pasid pe) (hdte : smDte ce = true)
    {reason : BitVec 8} (hno : s.entryRefuses r ce pe reason) :
    refusedN (translate s .translation r) (s.tableReads r.sid ca da pa) reason (s.fpdMet ce da pe) (pePgsnp pe) := by
  have failed : ∀ {c}, c.qualified = true →
      (∀ x n, faultsN (do
        check (executes r && !s.caps.ers) .spt5
        check (s.requestPriv r ce && !peSre pe) .spt6
        keepPasid r.sid pasid pe
        modify fun u => { u with did := some (peDid pe) }
        scalableReply s r ce pasid (s.requestPriv r ce) pe) c x n x.bus x.fpd n) →
      refusedN (translate s .translation r) (s.tableReads r.sid ca da pa) c.reason (s.fpdMet ce da pe) (pePgsnp pe) := fun hq hf =>
    refusedN_of_qualified hq
      ((translation_leads_replyFinish huse h hdte).faults ((yieldsN_noteN (pePgsnp pe) _ _).bind_faults (hf _ _)))
  obtain ⟨rfl, hers, p, hp, her⟩ | ⟨rfl, hers, hpriv, hsre⟩ := hno
  · exact failed (c := .spt5) rfl fun x n => (failedN (by simp [executes, hp, her, hers]) .spt5 x n).bind _
  · exact failed (c := .spt6) rfl fun x n => (checkedN (executes_allowed hers) .spt5 x n).bind_faults
      ((failedN (by simp [hpriv, hsre]) .spt6 x n).bind _)

end

theorem plainReason_of_tablesRefuse {reads : List UnitAccess} {reason : BitVec 8} {fpd : Bool}
    (h : s.TablesRefuse r reads reason fpd) : plainReason reason = true := by
  cases h with
  | context reads reason fpd h => cases h <;> rfl
  | pasid ca ce pasid reads reason fpd hce hpasid h => cases h <;> rfl
  | _ => rfl

theorem plainReason_of_entryRefuses {ce : BitVec 256} {pe : BitVec 512} {reason : BitVec 8} (h : s.entryRefuses r ce pe reason) :
    plainReason reason = true := by
  obtain ⟨rfl, -⟩ | ⟨rfl, -⟩ := h <;> rfl

end Sys2Proof.Machine
end

section
/-! The first stage for a translation request (22 R706, R730, R750; 43 R1070): only a user access to a supervisor page is a fault
of its rights, and Dirty is owed where the request gets write permission of both stages. -/

namespace Sys2Proof.Machine

variable {α β : Type} {s : State} {pe : BitVec 512}

/-! ## A first-stage walk behind its levels -/

/-- A first-stage walk for a translation request behind its levels, the rights granted: the final translation, then the flags. -/
def fsAskEnd (s : State) (p : FsParams) (b : Bool) (addr : Addr) (e : BitVec 64) (sh : Nat) (rw us : Bool) (path : List PathEntry) :
    Walk PageResult := do
  let fin ← attempt (fsFinal s p true (nestedAccess (askFor b) (fsWrite p.pr (peWpe p.pe) rw)) rw us (s.outputOf e sh addr) sh)
  keepBadIf (pathHas (fsWant p.pe) path)
  fsFlags s (snoopedWalk s.caps p.pe) (peEafe p.pe) (fsDirties p (askFor b) rw fin) path
  let f ← resume fin
  pure (fsPage e sh rw us (fsDirties p (askFor b) rw fin) f)

/-- A first-stage walk for a translation request behind its levels. -/
def fsAskRest (s : State) (p : FsParams) (b : Bool) (addr : Addr) : BitVec 64 × Nat × Bool × Bool × List PathEntry → Walk PageResult
  | (e, sh, rw, us, path) =>
    match fsRights true p.pr (peWpe p.pe) us rw (askFor b) with
    | some c => throw c
    | none => fsAskEnd s p b addr e sh rw us path

/-- The levels of a first-stage walk. -/
def fsTables (s : State) (p : FsParams) (addr : Addr) : Walk (BitVec 64 × Nat × Bool × Bool × List PathEntry) := do
  check (!canonical (fsWidth p.pe) addr) .sgn1
  note 2 6 none
  fsLevels s p addr (levels (if peFspm p.pe == 0 then 4 else 5)) (peFsptptr s.plat.haw p.pe) true false true true true none []

theorem fsWalk_asked_eq (huse : s.choice.use = []) (p : FsParams) (b : Bool) (addr : Addr) :
    fsWalk s p true (askFor b) addr = fsTables s p addr >>= fsAskRest s p b addr := by
  unfold fsWalk fsTables
  dsimp only
  rw [State.pscLookup_of_unused huse, bind_assoc]
  refine bind_congr fun _ => ?_
  rw [bind_assoc]
  refine bind_congr fun _ => bind_congr fun x => ?_
  obtain ⟨e, sh, rw, us, path⟩ := x
  unfold fsAskRest
  dsimp only
  cases fsRights true p.pr (peWpe p.pe) us rw (askFor b) <;> rfl

theorem fsLevelsOf_eq (pasid : Pasid) (pr : Bool) :
    levels (if peFspm (fsOf s pasid pr pe).pe == 0 then 4 else 5) = fsLevelsOf pe := by
  by_cases h : peFspm pe = 0 <;> simp [fsLevelsOf, fsOf, scalableFs, h]

/-- The first-stage tables lead to a page. -/
theorem fsTables_finds (huse : s.choice.use = []) (pasid : Pasid) (pr : Bool) {d : Bool} {a : Addr} {fs tab : List UsedEntry} {k : Nat}
    (h : s.fsMaps pe d a fs tab k) (hset : s.canSetFlags pe (ssOwed pe tab)) :
    ∃ path l, List.Forall₂ (fsSame pe d) path fs ∧ walkOnly (snoopedWalk s.caps pe) l ∧
      finds (fsTables s (fsOf s pasid pr pe) a) (leafOf fs, k, allSet fs 1, allSet fs 2, path) l (owedUpdates (ssOwed pe tab)) := by
  obtain ⟨hcanon, huses⟩ := h
  obtain ⟨path, l, hpath, hl, hfinds⟩ := finds_fsLevels huse pasid pr huses hset true true true none []
  refine ⟨path, l, hpath, hl, ?_⟩
  unfold fsTables
  rw [fsLevelsOf_eq]
  exact (finds_check (by simpa [fsOf, scalableFs] using hcanon) .sgn1).skip ((finds_note 2 6 none).skip hfinds)

/-- The first-stage tables lead to no page. -/
theorem fsTables_notCanonical {a : Addr} (h : canonical (fsWidth pe) a = false) (pasid : Pasid) (pr : Bool) :
    stops (fsTables s (fsOf s pasid pr pe) a) .sgn1 [] := by
  unfold fsTables
  exact (stops_check (by simpa [fsOf, scalableFs] using h) .sgn1).bind _

theorem fsTables_stuck (huse : s.choice.use = []) (pasid : Pasid) (pr : Bool) {a : Addr} {reason : BitVec 8}
    (hcanon : canonical (fsWidth pe) a = true) (h : s.FsStuck pe a true (fsLevelsOf pe) (peFsptptr s.plat.haw pe) reason) :
    refuses (fsTables s (fsOf s pasid pr pe) a) (snoopedWalk s.caps pe) reason := by
  unfold fsTables
  rw [fsLevelsOf_eq]
  exact (finds_check (by simpa [fsOf, scalableFs] using hcanon) .sgn1).skip_refuses ((finds_note 2 6 none).skip_refuses
    (fsLevels_refuses huse pasid pr h true true none []))

/-! ## N in a first-stage walk -/

theorem keepsN_fsSpot (huse : s.choice.use = []) (p : FsParams) (a : Addr) (first : Bool) : keepsN (fsSpot s p a first) := by
  unfold fsSpot nestedTranslate
  refine seesN.ite ?_ (keepsN_pure _)
  refine ((keepsN_ssFind_of_inner huse rfl _ _).ssWalk false).attempt.bind fun x => ?_
  cases x with
  | ok f => exact keepsN_pure _
  | error c => exact keepsN_throw _

theorem keepsN_fsPend (p : FsParams) (h : Addr) (w : Bool) (path : List PathEntry) (pend : Option PscEntry) :
    keepsN (fsPend p h w path pend) := by
  cases pend with
  | none => exact keepsN_pure ()
  | some x => exact keepsN_get_bind fun _ => keepsN_notePsc _ _

theorem keepsN_fsLevels (huse : s.choice.use = []) (p : FsParams) (addr : Addr) (lv : List Nat) (table : Addr) (first rw us : Bool)
    (pend : Option PscEntry) (path : List PathEntry) : keepsN (fsLevels s p addr lv table first false true rw us pend path) := by
  induction lv generalizing table first rw us pend path with
  | nil => exact keepsN_throw _
  | cons sh rest ih =>
    rw [fsLevels_cons]
    refine (keepsN_fsSpot huse p _ _).bind fun x => (keepsN_fsPend _ _ _ _ _).bind fun _ => ?_
    unfold fsRead
    refine (keepsN_fetch s _ _ _ _).bind fun v => (keepsN_check _ _).bind fun _ => (keepsN_check _ _).bind fun _ =>
      (keepsN_check _ _).bind fun _ => ?_
    exact seesN.ite (keepsN_pure _) (ih _ _ _ _ _ _)

theorem keepsN_fsTables (huse : s.choice.use = []) (p : FsParams) (addr : Addr) : keepsN (fsTables s p addr) :=
  (keepsN_check _ _).bind fun _ => (keepsN_note _ _ _).bind fun _ => keepsN_fsLevels huse _ _ _ _ _ _ _ _ _

theorem keepsN_fsFlags (s : State) (snooped eafe d : Bool) (path : List PathEntry) : keepsN (fsFlags s snooped eafe d path) := by
  induction path with
  | nil => exact keepsN_pure ()
  | cons x rest ih =>
    unfold fsFlags
    refine seesN.ite ?_ ih
    exact (keepsN_check _ _).bind fun _ => (keepsN_check _ _).bind fun _ => (keepsN_check _ _).bind fun _ =>
      seesN.bind (keepsN_modify fun _ => rfl) fun _ => ih

theorem keepsN_keepBadIf (b : Bool) : keepsN (keepBadIf b) := keepsN_modify fun _ => rfl

theorem keepsN_resume (x : Except Cond α) : keepsN (resume x) := by
  cases x with
  | ok a => exact keepsN_pure a
  | error c => exact keepsN_throw c

/-- N of a first-stage walk is that of its final translation. -/
theorem seesN.fsAskEnd {p : FsParams} {b n : Bool} {addr : Addr} {e : BitVec 64} {sh : Nat} {rw us : Bool}
    (h : seesN (fsFinal s p true (nestedAccess (askFor b) (fsWrite p.pr (peWpe p.pe) rw)) rw us (s.outputOf e sh addr) sh) n)
    (path : List PathEntry) : seesN (fsAskEnd s p b addr e sh rw us path) n := by
  unfold Machine.fsAskEnd
  exact h.attempt.bind fun _ => (keepsN_keepBadIf _).bind fun _ => (keepsN_fsFlags _ _ _ _ _).bind fun _ =>
    (keepsN_resume _).bind fun _ => keepsN_pure _

theorem seesN_fsFinal_nested (h : pePgtt pe = 3) {pasid : Pasid} {pr b n : Bool} {rw us : Bool} {out : Addr} {sh : Nat}
    (hfind : seesN (ssFind s (ssOf s pe true) (askFor b) out) n) :
    seesN (fsFinal s (fsOf s pasid pr pe) true (askFor b) rw us out sh) n := by
  unfold fsFinal
  rw [if_pos (by simp [fsOf, scalableFs, h])]
  refine (seesN.ssLast hfind true rw us).attempt.bind fun x => ?_
  split
  · exact keepsN_pure _
  · exact keepsN_throw _
  · exact keepsN_throw _

theorem fsFinal_asked_flat (h : pePgtt pe ≠ 3) (pasid : Pasid) (pr : Bool) (acc : Access) (rw us : Bool) (out : Addr) (sh : Nat) :
    fsFinal s (fsOf s pasid pr pe) true acc rw us out sh = pure (fsFlat out sh) := by
  unfold fsFinal
  rw [if_neg (by simpa [fsOf, scalableFs] using h)]
  rfl

theorem fsFinal_asked_finds (h : pePgtt pe = 3) {pasid : Pasid} {pr : Bool} {acc : Access} {rw us : Bool} {out : Addr} {sh : Nat}
    {f : SsFound} {l : List UnitAccess} {u : List FlagUpdate} (hwalk : finds (ssWalk s (ssOf s pe true) true acc out) f l u) :
    finds (fsFinal s (fsOf s pasid pr pe) true acc rw us out sh) f l u := by
  unfold fsFinal
  rw [if_pos (by simp [fsOf, scalableFs, h])]
  exact ((ssLast_alike (p := ssOf s pe true) true acc rw us out).finds hwalk).attempt.last (finds_pure f)

theorem fsFinal_asked_stops (h : pePgtt pe = 3) {pasid : Pasid} {pr : Bool} {acc : Access} {rw us : Bool} {out : Addr} {sh : Nat}
    {c : Cond} {l : List UnitAccess} (hwalk : stops (ssWalk s (ssOf s pe true) true acc out) c l) :
    stops (fsFinal s (fsOf s pasid pr pe) true acc rw us out sh) (finalCond c) l := by
  unfold fsFinal
  rw [if_pos (by simp [fsOf, scalableFs, h])]
  refine ((ssLast_alike (p := ssOf s pe true) true acc rw us out).stops hwalk).attempt_rethrow ?_
  cases c <;> exact stops_throw _

/-! ## The end of a first-stage walk -/

section
variable {pasid : Pasid} {pr b d : Bool} {a : Addr} {fs : List UsedEntry} {k : Nat} {path : List PathEntry}

/-- The rights of the first stage let a translation request go on. -/
theorem fsAskRest_user (huser : fsUser pr fs) (b : Bool) (a : Addr) (k : Nat) (path : List PathEntry) :
    fsAskRest s (fsOf s pasid pr pe) b a (leafOf fs, k, allSet fs 1, allSet fs 2, path) =
      fsAskEnd s (fsOf s pasid pr pe) b a (leafOf fs) k (allSet fs 1) (allSet fs 2) path := by
  have hnot : ¬ (!pr && !allSet fs 2) = true := by rcases huser with h | h <;> simp [h]
  have hrights : fsRights true pr (peWpe pe) (allSet fs 2) (allSet fs 1) (askFor b) = none := by
    rw [fsRights, if_neg hnot]
    rfl
  unfold fsAskRest
  change (match fsRights true pr (peWpe pe) (allSet fs 2) (allSet fs 1) (askFor b) with
    | some c => throw c
    | none => _) = _
  rw [hrights]

/-- A user access to a supervisor page (22 R730). -/
theorem fsAskRest_supervisor (hno : ¬ fsUser pr fs) (b : Bool) (a : Addr) (k : Nat) (path : List PathEntry) :
    fsAskRest s (fsOf s pasid pr pe) b a (leafOf fs, k, allSet fs 1, allSet fs 2, path) = throw .sgn2 := by
  obtain ⟨hpr, hus⟩ := not_or.1 hno
  have hrights : fsRights true pr (peWpe pe) (allSet fs 2) (allSet fs 1) (askFor b) = some .sgn2 := by simp [fsRights, hpr, hus]
  unfold fsAskRest
  change (match fsRights true pr (peWpe pe) (allSet fs 2) (allSet fs 1) (askFor b) with
    | some c => throw c
    | none => _) = _
  rw [hrights]

/-- The access that the first stage makes of the second. -/
theorem nestedAccess_fsWritable (b : Bool) : nestedAccess (askFor b) (fsWrite (fsOf s pasid pr pe).pr (peWpe (fsOf s pasid pr pe).pe)
    (allSet fs 1)) = askFor (fsWritable pe pr fs && b) := by
  rw [nestedAccess_askFor, Bool.and_comm]
  exact congrArg (fun x => askFor (x && b)) (fsWrite_eq pr fs)

/-- The Dirty flag that the first stage owes. -/
theorem fsDirties_askFor (b : Bool) (fin : Except Cond SsFound) :
    fsDirties (fsOf s pasid pr pe) (askFor b) (allSet fs 1) fin = (fsWritable pe pr fs && b && (match fin with
      | .ok f => f.w
      | .error _ => true)) := by
  unfold fsDirties
  rw [accessWrites_askFor, Bool.and_comm b]
  exact congrArg (fun x => x && b && (match fin with
      | .ok f => f.w
      | .error _ => true)) (fsWrite_eq pr fs)

theorem fsAskEnd_finds {f : SsFound} {l : List UnitAccess} {u : List FlagUpdate} (hpath : List.Forall₂ (fsSame pe d) path fs)
    (hd : d = (fsWritable pe pr fs && b && f.w)) (hset : s.canSetFlags pe fs)
    (hfin : finds (fsFinal s (fsOf s pasid pr pe) true (askFor (fsWritable pe pr fs && b)) (allSet fs 1) (allSet fs 2)
      (s.outputOf (leafOf fs) k a) k) f l u) :
    finds (fsAskEnd s (fsOf s pasid pr pe) b a (leafOf fs) k (allSet fs 1) (allSet fs 2) path)
      (fsPage (leafOf fs) k (allSet fs 1) (allSet fs 2) d f) l (u ++ owedUpdates fs) := by
  have hflags : finds (fsFlags s (snoopedWalk s.caps pe) (peEafe pe) d path) () [] (owedUpdates fs) := by
    rw [fsFlags_eq_setFlags _ hpath]
    exact finds_setFlags hset
  unfold fsAskEnd
  rw [nestedAccess_fsWritable]
  refine hfin.attempt.bind (l' := []) ((finds_keepBadIf _).skip ?_)
  rw [fsDirties_askFor, ← hd]
  exact hflags.last ((finds_pure f).skip (finds_pure _))

/-- The final translation faults, behind flags that can be set. -/
theorem fsAskEnd_stops {c : Cond} {l : List UnitAccess} (hpath : List.Forall₂ (fsSame pe d) path fs)
    (hd : d = (fsWritable pe pr fs && b)) (hset : s.canSetFlags pe fs)
    (hfin : stops (fsFinal s (fsOf s pasid pr pe) true (askFor (fsWritable pe pr fs && b)) (allSet fs 1) (allSet fs 2)
      (s.outputOf (leafOf fs) k a) k) c l) :
    stops (fsAskEnd s (fsOf s pasid pr pe) b a (leafOf fs) k (allSet fs 1) (allSet fs 2) path) c l := by
  have hflags : finds (fsFlags s (snoopedWalk s.caps pe) (peEafe pe) d path) () [] (owedUpdates fs) := by
    rw [fsFlags_eq_setFlags _ hpath]
    exact finds_setFlags hset
  unfold fsAskEnd
  rw [nestedAccess_fsWritable]
  refine hfin.attempt_rethrow ((finds_keepBadIf _).skip_stops ?_)
  rw [fsDirties_askFor, Bool.and_true, ← hd]
  exact hflags.bind_stops (l' := []) (l := []) ((stops_throw c).bind _)

/-- A flag of the first stage cannot be set. -/
theorem fsAskEnd_flagsFail {f : SsFound} {c : Cond} (hpath : List.Forall₂ (fsSame pe d) path fs)
    (hd : d = (fsWritable pe pr fs && b && f.w))
    (hfin : finds (fsFinal s (fsOf s pasid pr pe) true (askFor (fsWritable pe pr fs && b)) (allSet fs 1) (allSet fs 2)
      (s.outputOf (leafOf fs) k a) k) f [] [])
    (hflags : stops (setFlags s (snoopedWalk s.caps pe) .sfs9 .sfs8 .sfs10 fs) c []) :
    stops (fsAskEnd s (fsOf s pasid pr pe) b a (leafOf fs) k (allSet fs 1) (allSet fs 2) path) c [] := by
  rw [← fsFlags_eq_setFlags _ hpath] at hflags
  unfold fsAskEnd
  rw [nestedAccess_fsWritable]
  refine hfin.attempt.skip_stops ((finds_keepBadIf _).skip_stops ?_)
  rw [fsDirties_askFor, ← hd]
  exact hflags.bind _

end

end Sys2Proof.Machine
end

section
/-! O45: the page of a translation request in scalable mode, and its answer. -/

namespace Sys2Proof.Machine

variable {α : Type} {s : State} {pe : BitVec 512} {r : MemReq} {pasid : Pasid} {pr b : Bool}

/-! ## The walk of each translation type -/

theorem scalablePage_first (h : pePgtt pe = 1 ∨ pePgtt pe = 3) (hb : b = !readOnlyRequest s.caps r) (pasid : Pasid) (pr : Bool) :
    scalablePage s r pasid pr pe = fsWalk s (fsOf s pasid pr pe) true (askFor b) r.addr := by
  unfold scalablePage fsOf
  rw [effAccess_translation, ← hb]
  rcases h with h | h <;> rw [h] <;> rfl

theorem scalablePage_second (h : pePgtt pe = 2) (hb : b = !readOnlyRequest s.caps r) (pasid : Pasid) (pr : Bool) :
    scalablePage s r pasid pr pe = (do
      let f ← ssLast s (ssOf s pe true) true (askFor b) true true r.addr
      pure (ssPage f)) := by
  unfold scalablePage
  rw [effAccess_translation, ← hb, h]
  rfl

theorem scalablePage_through (h : pePgtt pe = 4) (r : MemReq) (pasid : Pasid) (pr : Bool) :
    scalablePage s r pasid pr pe = (do
      check (s.hpaEnd ≤ r.addr.toNat) .sgn4_2
      pure (ptPage s r.pasid.isSome r.addr)) := by
  unfold scalablePage
  rw [h]
  rfl

/-- The SNP bit of the leaf of a page, where a second stage gives the page (43 R1062). -/
def leafSnp (s : State) (pe : BitVec 512) (fin : List UsedEntry) : Bool := usesSs (pePgtt pe) && s.caps.sc && bitAt (leafOf fin) 11

theorem leafSnp_nil (s : State) (pe : BitVec 512) : leafSnp s pe [] = false := by
  rw [leafSnp, show bitAt (leafOf []) 11 = false from rfl, Bool.and_false]

theorem leafSnp_of_second (h : pePgtt pe = 2 ∨ pePgtt pe = 3) (fin : List UsedEntry) :
    leafSnp s pe fin = ((ssOf s pe true).final && s.caps.sc && bitAt (leafOf fin) 11) := by
  rcases h with h | h <;> simp [leafSnp, h, usesSs, ssOf]

/-! ## The second stage alone -/

theorem owedUpdates_ssOwed (pe : BitVec 512) (l : List UsedEntry) (final : Bool) :
    owedUpdates (ssOwed pe l) = if (ssOf s pe final).ssade then owedUpdates l else [] := by
  cases hade : peSsade pe <;> simp [ssOwed, ssOf, scalableSs, hade, owedUpdates]

/-- The second stage leaves the request a permission. -/
theorem ssWalk_given (huse : s.choice.use = []) {a : Addr} {l : List UsedEntry} {k : Nat} {w : Bool} (h : s.ssMaps pe w a l k)
    (hw : w = (allSet l 1 && b)) (hleaves : leaves b (allSet l 0) (allSet l 1) = true) (hset : s.canSetFlags pe (ssOwed pe l)) :
    finds (ssWalk s (ssOf s pe true) true (askFor b) a) ((ssLeaf s a l k).written (ssOf s pe true) (askFor b))
      (walkReads l (snoopedWalk s.caps pe)) (owedUpdates (ssOwed pe l)) := by
  rw [owedUpdates_ssOwed (s := s) pe l true]
  exact ssWalk_leaves (p := ssOf s pe true) huse h hleaves fun (hade : peSsade pe = true) =>
    ⟨hw, by rw [ssOwed, if_pos hade] at hset; exact hset⟩

/-- As `refuses`, by a condition whose reason tells the answer to a translation request. -/
def refusesAsked (w : Walk α) (snoop : Bool) (reason : BitVec 8) : Prop :=
  ∃ c l, c.reason = reason ∧ c.qualified = true ∧ c.answered = true ∧ walkOnly snoop l ∧ stops w c l

theorem refuses.asked {w : Walk α} {snoop : Bool} {reason : BitVec 8} (h : refuses w snoop reason)
    (hplain : plainReason reason = true) : refusesAsked w snoop reason := by
  obtain ⟨c, l, rfl, hq, hl, hstop⟩ := h
  exact ⟨c, l, rfl, hq, answered_of_plainReason hplain, hl, hstop⟩

theorem haltCond_scalable (acc : Access) (n : Nat) (x : Halt) : (haltCond false acc (n == 1) x).reason = x.scalableReason n ∧
    (haltCond false acc (n == 1) x).qualified = true := by
  cases x with
  | unread =>
    by_cases h : n = 1
    · subst h
      exact ⟨rfl, rfl⟩
    · simp only [haltCond, Halt.scalableReason, beq_false_of_ne h, if_neg h]
      exact ⟨rfl, rfl⟩
  | absent => exact ⟨rfl, rfl⟩
  | reserved => exact ⟨rfl, rfl⟩

/-- The second stage gives the address no page, and N stays. -/
theorem ssFind_unmapped (huse : s.choice.use = []) {a : Addr} {reason : BitVec 8} (h : s.ssUnmapped pe a reason) (acc : Access) :
    refuses (ssFind s (ssOf s pe true) acc a) (snoopedWalk s.caps pe) reason ∧ keepsN (ssFind s (ssOf s pe true) acc a) := by
  unfold State.ssUnmapped at h
  split at h
  next hbeyond =>
    subst h
    exact ⟨⟨.sgn5, [], rfl, rfl, walkOnly_nil _, ssFind_beyond (p := ssOf s pe true) acc hbeyond⟩,
      keepsN_ssFind_of_beyond (p := ssOf s pe true) acc hbeyond⟩
  next hbound =>
    obtain ⟨x, l, hstuck, rfl⟩ := h
    have hin := Nat.lt_of_not_le hbound
    obtain ⟨hreason, hq⟩ := haltCond_scalable acc l.length x
    exact ⟨⟨_, _, hreason, hq, walkOnly_entryReads l _, ssFind_stuck (p := ssOf s pe true) huse acc hin hstuck⟩,
      keepsN_ssFind_of_stuck (p := ssOf s pe true) huse acc hin hstuck⟩

/-- A flag of the second stage cannot be set. -/
theorem ssWalk_given_flagsFail (huse : s.choice.use = []) {a : Addr} {l : List UsedEntry} {k : Nat}
    (h : s.ssMaps pe (allSet l 1 && b) a l k) (hleaves : leaves b (allSet l 0) (allSet l 1) = true) (hade : peSsade pe = true)
    {reason : BitVec 8} (hflags : s.flagsFail pe l 0x7C 0x7D reason) :
    refuses (ssWalk s (ssOf s pe true) true (askFor b) a) (snoopedWalk s.caps pe) reason := by
  obtain ⟨c, hc, hwhich, hstop⟩ := stops_setFlags_of_flagsFail (c1 := .sss5) (c3 := .sss6) hflags
  refine ⟨c, _, hc, ?_, walkOnly_walkReads l _, ssWalk_leaves_flagsFail (p := ssOf s pe true) huse h hleaves hade hstop⟩
  rcases hwhich with rfl | rfl | rfl <;> rfl

/-! ## Fault reasons -/

theorem plainReason_of_flagsFail {l : List UsedEntry} {unsnooped unwritable reason : BitVec 8}
    (h : s.flagsFail pe l unsnooped unwritable reason) (h1 : plainReason unsnooped = true) (h2 : plainReason unwritable = true) :
    plainReason reason = true := by
  unfold State.flagsFail at h
  split at h
  · obtain ⟨-, -, -, -, -, -, ⟨rfl, -⟩ | ⟨rfl, -⟩⟩ := h
    · rfl
    · exact h2
  · exact h.1 ▸ h1

theorem plainReason_of_ssUnmapped {a : Addr} {reason : BitVec 8} (h : s.ssUnmapped pe a reason) : plainReason reason = true := by
  unfold State.ssUnmapped at h
  split at h
  · subst h
    rfl
  · obtain ⟨x, l, -, rfl⟩ := h
    cases x with
    | unread => exact (ite_self (c := l.length = 1) true).symm ▸ apply_ite plainReason _ _ _
    | absent => rfl
    | reserved => rfl

theorem plainReason_of_ssRefuses {acc : Access} {a : Addr} {reason : BitVec 8} (h : s.SsRefuses pe acc a reason) :
    plainReason reason = true := by
  cases h with
  | unmapped _ h => exact plainReason_of_ssUnmapped h
  | flags l k out _ _ _ h => exact plainReason_of_flagsFail h rfl rfl
  | _ => rfl

theorem plainReason_of_fsUnplaced {first : Bool} {a : Addr} {reason : BitVec 8} (h : s.fsUnplaced pe first a reason) :
    plainReason reason = true := by
  obtain ⟨-, q, hq, rfl⟩ := h
  unfold placingReason
  split
  · cases first <;> rfl
  · split
    · cases first <;> rfl
    · split
      · rfl
      · exact plainReason_of_ssRefuses hq

theorem plainReason_of_fsStuck {a : Addr} {first : Bool} {lv : List Nat} {table : Addr} {reason : BitVec 8}
    (h : s.FsStuck pe a first lv table reason) : plainReason reason = true := by
  induction h with
  | unplaced first sh rest table reason h => exact plainReason_of_fsUnplaced h
  | unread first sh rest table h hat hno => cases first <;> rfl
  | deeper first sh rest table h e reason hat he hyes hrsvd hin hleaf hstuck ih => exact ih
  | _ => rfl

theorem plainReason_finalReason {q : BitVec 8} (h : plainReason q = true) : plainReason (finalReason q) = true := by
  unfold finalReason
  split
  · rfl
  · exact h

/-! ## The first stage -/

/-- The first-stage walk refuses a translation request, before the final translation. -/
theorem fsWalk_asked_refused (huse : s.choice.use = []) {a : Addr} {reason : BitVec 8} (h : s.FsRefuses pe pr .read a reason)
    (pasid : Pasid) (b : Bool) :
    refusesAsked (fsWalk s (fsOf s pasid pr pe) true (askFor b) a) (snoopedWalk s.caps pe) reason ∧
      keepsN (fsWalk s (fsOf s pasid pr pe) true (askFor b) a) := by
  rw [fsWalk_asked_eq huse]
  have htables := keepsN_fsTables huse (fsOf s pasid pr pe) a
  cases h with
  | notCanonical hno =>
    have hstop := fsTables_notCanonical (s := s) hno pasid pr
    exact ⟨⟨.sgn1, [], rfl, rfl, rfl, walkOnly_nil _, hstop.bind _⟩, hstop.seesN_bind htables _⟩
  | stuck _ hcanon hstuck =>
    obtain ⟨c, l, hc, hq, hl, hstop⟩ := fsTables_stuck huse pasid pr hcanon hstuck
    exact ⟨⟨c, l, hc, hq, answered_of_plainReason (hc ▸ plainReason_of_fsStuck hstuck), hl, hstop.bind _⟩,
      hstop.seesN_bind htables _⟩
  | user fs tab k hreach hno =>
    obtain ⟨hmaps, hset⟩ := hreach
    rw [owedEntries_tab] at hset
    obtain ⟨path, l, -, hl, hfinds⟩ := fsTables_finds huse pasid pr hmaps hset
    have hrest := fsAskRest_supervisor (s := s) (pasid := pasid) (pe := pe) hno b a k path
    exact ⟨⟨.sgn2, l, rfl, rfl, rfl, hl, hfinds.last_stops (by rw [hrest]; exact stops_throw _)⟩,
      hfinds.seesN_bind htables (by rw [hrest]; exact keepsN_throw _)⟩
  | write fs tab k hreach huser hacc hno => cases hacc

/-- Without nesting no second-stage entry places one of the first. -/
theorem fsUses_tab_nil (hflat : pePgtt pe ≠ 3) {d : Bool} {a : Addr} {lv : List Nat} {table : Addr} {l ss : List UsedEntry} {k : Nat}
    (h : s.fsUses pe d a lv table l ss k) : ss = [] := by
  induction lv generalizing table l ss with
  | nil => exact h.elim
  | cons sh rest ih =>
    cases l with
    | nil => exact h.elim
    | cons x more =>
      obtain ⟨ss1, ss2, rfl, hplace, -, -, -, -, -, hnext⟩ := h
      unfold State.fsPlace at hplace
      rw [if_neg hflat] at hplace
      obtain ⟨-, -, rfl⟩ := hplace
      split at hnext
      · exact hnext.2.1
      · exact ih hnext

theorem canSetFlags_nil (s : State) (pe : BitVec 512) : s.canSetFlags pe [] := nofun

theorem owedEntries_eq (pe : BitVec 512) (fs tab fin : List UsedEntry) :
    owedEntries pe fs tab fin = ssOwed pe tab ++ (ssOwed pe fin ++ fs) := by
  cases hade : peSsade pe <;> simp [owedEntries, ssOwed, hade]

section
variable {d : Bool} {a : Addr} {fs tab : List UsedEntry} {k : Nat} {f : SsFound} {l : List UnitAccess} {u : List FlagUpdate}

/-- N of a first-stage walk that reaches its end is that of the final translation. -/
theorem seesN_fsWalk_asked (huse : s.choice.use = []) (h : s.fsMaps pe d a fs tab k) (hset : s.canSetFlags pe (ssOwed pe tab))
    (huser : fsUser pr fs) {n : Bool}
    (hn : seesN (fsFinal s (fsOf s pasid pr pe) true (askFor (fsWritable pe pr fs && b)) (allSet fs 1) (allSet fs 2)
      (s.outputOf (leafOf fs) k a) k) n) : seesN (fsWalk s (fsOf s pasid pr pe) true (askFor b) a) n := by
  obtain ⟨path, l, -, -, hfinds⟩ := fsTables_finds huse pasid pr h hset
  rw [fsWalk_asked_eq huse]
  refine hfinds.seesN_bind (keepsN_fsTables huse _ _) ?_
  rw [fsAskRest_user huser]
  exact seesN.fsAskEnd (by rw [nestedAccess_fsWritable]; exact hn) path

theorem fsWalk_given (huse : s.choice.use = []) (h : s.fsMaps pe d a fs tab k) (htab : s.canSetFlags pe (ssOwed pe tab))
    (hfs : s.canSetFlags pe fs) (huser : fsUser pr fs) (hd : d = (fsWritable pe pr fs && b && f.w))
    (hl : walkOnly (snoopedWalk s.caps pe) l)
    (hfin : finds (fsFinal s (fsOf s pasid pr pe) true (askFor (fsWritable pe pr fs && b)) (allSet fs 1) (allSet fs 2)
      (s.outputOf (leafOf fs) k a) k) f l u) :
    ∃ l', walkOnly (snoopedWalk s.caps pe) l' ∧ finds (fsWalk s (fsOf s pasid pr pe) true (askFor b) a)
      (fsPage (leafOf fs) k (allSet fs 1) (allSet fs 2) d f) l' (owedUpdates (ssOwed pe tab) ++ (u ++ owedUpdates fs)) := by
  obtain ⟨path, l1, hpath, hl1, hfinds⟩ := fsTables_finds huse pasid pr h htab
  refine ⟨l ++ l1, hl.append hl1, ?_⟩
  rw [fsWalk_asked_eq huse]
  refine hfinds.bind ?_
  rw [fsAskRest_user huser]
  exact fsAskEnd_finds hpath hd hfs hfin

/-- The final translation faults, behind flags that can be set: Dirty counts as owed where the first stage grants the write. -/
theorem fsWalk_given_stops (huse : s.choice.use = []) (h : s.fsMaps pe d a fs tab k) (htab : s.canSetFlags pe (ssOwed pe tab))
    (hfs : s.canSetFlags pe fs) (huser : fsUser pr fs) (hd : d = (fsWritable pe pr fs && b)) {c : Cond}
    (hl : walkOnly (snoopedWalk s.caps pe) l)
    (hfin : stops (fsFinal s (fsOf s pasid pr pe) true (askFor (fsWritable pe pr fs && b)) (allSet fs 1) (allSet fs 2)
      (s.outputOf (leafOf fs) k a) k) c l) :
    ∃ l', walkOnly (snoopedWalk s.caps pe) l' ∧ stops (fsWalk s (fsOf s pasid pr pe) true (askFor b) a) c l' := by
  obtain ⟨path, l1, hpath, hl1, hfinds⟩ := fsTables_finds huse pasid pr h htab
  refine ⟨l ++ l1, hl.append hl1, ?_⟩
  rw [fsWalk_asked_eq huse]
  refine hfinds.bind_stops ?_
  rw [fsAskRest_user huser]
  exact fsAskEnd_stops hpath hd hfs hfin

/-- Without nesting a flag of the first stage cannot be set. -/
theorem fsWalk_given_flagsFail (huse : s.choice.use = []) (hflat : pePgtt pe ≠ 3) (h : s.fsMaps pe d a fs tab k)
    (huser : fsUser pr fs) (hd : d = (fsWritable pe pr fs && b)) {reason : BitVec 8} (hflags : s.flagsFail pe fs 0x90 0x91 reason) :
    refuses (fsWalk s (fsOf s pasid pr pe) true (askFor b) a) (snoopedWalk s.caps pe) reason := by
  have htab : s.canSetFlags pe (ssOwed pe tab) := by
    rw [fsUses_tab_nil hflat h.2, ssOwed, ite_self]
    exact canSetFlags_nil s pe
  obtain ⟨path, l, hpath, hl, hfinds⟩ := fsTables_finds huse pasid pr h htab
  obtain ⟨c, hc, hwhich, hstop⟩ := stops_setFlags_of_flagsFail (c1 := .sfs9) (c3 := .sfs10) hflags
  refine ⟨c, l, hc, by rcases hwhich with rfl | rfl | rfl <;> rfl, hl, ?_⟩
  rw [fsWalk_asked_eq huse]
  refine hfinds.last_stops ?_
  rw [fsAskRest_user huser]
  refine fsAskEnd_flagsFail (f := fsFlat (s.outputOf (leafOf fs) k a) k) hpath (by rw [hd]; exact (Bool.and_true _).symm) ?_ hstop
  rw [fsFinal_asked_flat hflat]
  exact finds_pure _

theorem keepsN_fsFinal_flat (hflat : pePgtt pe ≠ 3) (acc : Access) (rw us : Bool) (out : Addr) (sh : Nat) :
    keepsN (fsFinal s (fsOf s pasid pr pe) true acc rw us out sh) := by
  rw [fsFinal_asked_flat hflat]
  exact keepsN_pure _

end

/-! ## Pages that are given -/

/-- The page found is the one that is given, with the permissions given. -/
structure GivenPage (s : State) (r : MemReq) (pe : BitVec 512) (pr : Bool) (page : Addr) (k : Nat) (rd w : Bool) (p : PageResult) :
    Prop where
  hpa : p.hpa = page
  shift : p.shift = k
  read : p.r = rd
  write : ((if usesFs (pePgtt pe) then fsWrite pr (peWpe pe) p.rw else true) && p.w && !readOnlyRequest s.caps r) = w

/-- The pass-through region of the statements is the one that the unit chooses (43 R1064). -/
theorem ptRegion_of_throughRegion {withPasid : Bool} {a : Addr} {k : Nat} (h : s.throughRegion withPasid a k) :
    ptRegion s withPasid a = k := by
  obtain ⟨hk, hmax⟩ := h
  have h21 := hmax 21 (.inl rfl)
  have h30 := hmax 30 (.inr rfl)
  unfold ptRegion
  simp only [List.filter_cons, List.filter_nil, Bool.and_eq_true, decide_eq_true_eq, le_min_iff, Bool.or_eq_true,
    Bool.not_eq_true', and_assoc]
  obtain rfl | ⟨rfl | rfl, hfits⟩ := hk
  · rw [if_neg (h30 (by decide)), if_neg (h21 (by decide))]
    rfl
  · rw [if_neg (h30 (by decide)), if_pos hfits]
    rfl
  · rw [if_pos hfits]
    rfl

theorem scalablePage_given (huse : s.choice.use = []) {page : Addr} {fs tab fin : List UsedEntry} {k : Nat} {rd w : Bool}
    (h : s.pageGiven pe pr (readOnlyRequest s.caps r) r.pasid.isSome r.addr page fs tab fin k rd w) (hany : (rd || w) = true)
    (hset : s.canSetFlags pe (owedEntries pe fs tab fin)) (pasid : Pasid) :
    ∃ p l, GivenPage s r pe pr page k rd w p ∧ walkOnly (snoopedWalk s.caps pe) l ∧
      finds (scalablePage s r pasid pr pe) p l (owedUpdates (owedEntries pe fs tab fin)) ∧
      seesN (scalablePage s r pasid pr pe) (leafSnp s pe fin) := by
  rw [owedEntries_eq] at hset ⊢
  obtain ⟨htab, hset⟩ := State.canSetFlags_append.1 hset
  obtain ⟨hfin, hfs⟩ := State.canSetFlags_append.1 hset
  unfold State.pageGiven at h
  split at h
  next hpgtt =>
    obtain ⟨hmaps, huser, rfl, hw, rfl, rfl⟩ := h
    have ht : pePgtt pe = 1 := BitVec.eq_of_toNat_eq hpgtt
    have hflat : pePgtt pe ≠ 3 := by simp [ht]
    have hleaf := fsMaps_leafAt hmaps
    rw [scalablePage_first (.inl ht) rfl, show ssOwed pe [] = [] from ite_self _, owedUpdates_append, leafSnp_nil]
    obtain ⟨l, hl, hfinds⟩ := fsWalk_given (f := fsFlat (s.outputOf (leafOf fs) k r.addr) k) (b := !readOnlyRequest s.caps r)
      (pasid := pasid) huse hmaps htab hfs huser (by rw [hw]; exact (Bool.and_true _).symm) (walkOnly_nil _)
      (by rw [fsFinal_asked_flat hflat]; exact finds_pure _)
    refine ⟨_, l, ⟨?_, min_self k, rfl, ?_⟩, hl, hfinds,
      seesN_fsWalk_asked huse hmaps htab huser (keepsN_fsFinal_flat hflat _ _ _ _ _)⟩
    · simp only [fsPage, fsFlat, min_self]
      exact highBits_outputOf hleaf r.addr
    · simp [ht, usesFs, fsPage, fsFlat, fsWrite_eq, hw]
  next hpgtt =>
    obtain ⟨hmaps, rfl, hw, rfl, rfl, rfl⟩ := h
    have ht : pePgtt pe = 2 := BitVec.eq_of_toNat_eq hpgtt
    have hwalk := ssWalk_given (b := !readOnlyRequest s.caps r) huse hmaps hw (by rw [← hany, hw]; rfl) hfin
    rw [scalablePage_second ht rfl, List.append_nil, show ssOwed pe [] = [] from ite_self _, List.nil_append,
      leafSnp_of_second (.inl ht)]
    refine ⟨_, _, ⟨highBits_outputOf (ssLeads_leafAt (p := ssOf s pe true) hmaps) r.addr, rfl, rfl, ?_⟩, walkOnly_walkReads fin _,
      ((ssLast_alike true _ true true r.addr).finds hwalk).last (finds_pure _),
      ((seesN_ssFind (p := ssOf s pe true) huse _ hmaps).ssLast true true true).bind fun _ => keepsN_pure _⟩
    simp [ht, usesFs, ssPage, SsFound.written, ssLeaf, hw]
  next hpgtt =>
    obtain ⟨gpa, k1, k2, hmaps, huser, rfl, hss, rfl, hw, rfl, rfl⟩ := h
    have ht : pePgtt pe = 3 := BitVec.eq_of_toNat_eq hpgtt
    have hw' : w = (allSet fin 1 && (fsWritable pe pr fs && !readOnlyRequest s.caps r)) := by
      rw [hw, Bool.and_right_comm, Bool.and_comm]
    have hwalk := ssWalk_given (b := fsWritable pe pr fs && !readOnlyRequest s.caps r) huse hss hw' (by rw [← hany, hw']; rfl) hfin
    rw [scalablePage_first (.inr ht) rfl, owedUpdates_append, owedUpdates_append, leafSnp_of_second (.inr ht)]
    obtain ⟨l, hl, hfinds⟩ := fsWalk_given (b := !readOnlyRequest s.caps r) (pasid := pasid) huse hmaps htab hfs huser
      (by rw [hw, Bool.and_right_comm]; rfl) (walkOnly_walkReads fin _) (fsFinal_asked_finds ht hwalk)
    refine ⟨_, l, ⟨rfl, rfl, rfl, ?_⟩, hl, hfinds, seesN_fsWalk_asked huse hmaps htab huser
      (seesN_fsFinal_nested ht (seesN_ssFind (p := ssOf s pe true) huse _ hss))⟩
    simp [ht, usesFs, fsPage, SsFound.written, ssLeaf, fsWrite_eq, hw]
  next hpgtt =>
    obtain ⟨hbelow, hregion, rfl, rfl, hw, rfl, rfl, rfl⟩ := h
    have ht : pePgtt pe = 4 := BitVec.eq_of_toNat_eq hpgtt
    rw [scalablePage_through ht, show ssOwed pe [] = [] from ite_self _, leafSnp_nil]
    refine ⟨_, [], ⟨?_, ptRegion_of_throughRegion hregion, rfl, ?_⟩, walkOnly_nil _,
      (finds_check (by simpa using hbelow) .sgn4_2).skip (finds_pure _), (keepsN_check _ _).bind fun _ => keepsN_pure _⟩
    · exact congrArg (highBits r.addr) (ptRegion_of_throughRegion hregion)
    · simp [ht, usesFs, ptPage, hw]
  next => exact h.elim

/-! ## Requests that are left nothing -/

theorem finalCond_nothingLeft (b w : Bool) : finalCond (nothingLeft false b w) = nothingLeft false b w := by
  cases w <;> rfl

theorem scalablePage_leavesNothing (huse : s.choice.use = []) {fs tab fin : List UsedEntry}
    (h : s.nothingGiven pe pr (readOnlyRequest s.caps r) r.addr fs tab fin) (hset : s.canSetFlags pe (owedEntries pe fs tab []))
    (pasid : Pasid) :
    ∃ c l, (c.answered = true ∧ answersZero c.reason = true ∧ c.reason ≠ 0x91) ∧ walkOnly (snoopedWalk s.caps pe) l ∧
      stops (scalablePage s r pasid pr pe) c l ∧ seesN (scalablePage s r pasid pr pe) (leafSnp s pe fin) := by
  rw [owedEntries_eq] at hset
  obtain ⟨htab, hset⟩ := State.canSetFlags_append.1 hset
  obtain ⟨-, hfs⟩ := State.canSetFlags_append.1 hset
  unfold State.nothingGiven at h
  split at h
  next hpgtt =>
    obtain ⟨⟨k, hmaps⟩, hr, hw, rfl, rfl⟩ := h
    have ht : pePgtt pe = 2 := BitVec.eq_of_toNat_eq hpgtt
    have hwalk := ssWalk_leavesNothing (p := ssOf s pe true) (b := !readOnlyRequest s.caps r) huse hmaps
      (by rw [leaves, hr, hw, Bool.false_or])
    rw [scalablePage_second ht rfl, leafSnp_of_second (.inl ht)]
    exact ⟨_, _, nothingLeft_silent _ _ _, walkOnly_walkReads fin _,
      ((ssLast_alike true _ true true r.addr).stops hwalk).bind _,
      ((seesN_ssFind (p := ssOf s pe true) huse _ hmaps).ssLast true true true).bind fun _ => keepsN_pure _⟩
  next hpgtt =>
    obtain ⟨k1, k2, hmaps, huser, hss, hr, hw⟩ := h
    have ht : pePgtt pe = 3 := BitVec.eq_of_toNat_eq hpgtt
    have hnothing : leaves (fsWritable pe pr fs && !readOnlyRequest s.caps r) (allSet fin 0) (allSet fin 1) = false := by
      rw [leaves, hr, Bool.false_or, Bool.and_comm, Bool.and_right_comm]
      exact hw
    have hwalk := ssWalk_leavesNothing (p := ssOf s pe true) huse hss hnothing
    have hfin := fsFinal_asked_stops (pasid := pasid) (pr := pr) (rw := allSet fs 1) (us := allSet fs 2) (sh := k1) ht hwalk
    rw [scalablePage_first (.inr ht) rfl, leafSnp_of_second (.inr ht)]
    obtain ⟨l, hl, hstop⟩ := fsWalk_given_stops (b := !readOnlyRequest s.caps r) huse hmaps htab hfs huser rfl
      (walkOnly_walkReads fin _) hfin
    exact ⟨_, l, nothingLeft_silent false _ _, hl, by rw [← finalCond_nothingLeft]; exact hstop,
      seesN_fsWalk_asked huse hmaps htab huser (seesN_fsFinal_nested ht (seesN_ssFind (p := ssOf s pe true) huse _ hss))⟩
  next => exact h.elim

/-! ## Requests that are refused -/

theorem scalablePage_refused (huse : s.choice.use = []) {reason : BitVec 8} {fin : List UsedEntry}
    (h : s.TranslationRefused pe pr (readOnlyRequest s.caps r) r.addr reason fin) (pasid : Pasid) :
    refusesAsked (scalablePage s r pasid pr pe) (snoopedWalk s.caps pe) reason ∧
      seesN (scalablePage s r pasid pr pe) (leafSnp s pe fin) := by
  cases h with
  | first _ ht h =>
    rw [scalablePage_first ht rfl, leafSnp_nil]
    exact fsWalk_asked_refused huse h pasid _
  | firstFlags fs tab k _ ht hmaps huser hflags =>
    have hflat : pePgtt pe ≠ 3 := by simp [ht]
    have htab : s.canSetFlags pe (ssOwed pe tab) := by
      rw [fsUses_tab_nil hflat hmaps.2, ssOwed, ite_self]
      exact canSetFlags_nil s pe
    rw [scalablePage_first (.inl ht) rfl, leafSnp_nil]
    exact ⟨(fsWalk_given_flagsFail huse hflat hmaps huser rfl hflags).asked (plainReason_of_flagsFail hflags rfl rfl),
      seesN_fsWalk_asked huse hmaps htab huser (keepsN_fsFinal_flat hflat _ _ _ _ _)⟩
  | second _ ht h =>
    obtain ⟨hrefuses, hn⟩ := ssFind_unmapped huse h (askFor !readOnlyRequest s.caps r)
    rw [scalablePage_second ht rfl, leafSnp_nil]
    exact ⟨(((ssLast_alike true _ true true r.addr).refuses (hrefuses.bind _)).bind _).asked (plainReason_of_ssUnmapped h),
      (hn.ssLast true true true).bind fun _ => keepsN_pure _⟩
  | secondFlags _ k _ ht hmaps hleft hade hflags =>
    have hleaves : leaves (!readOnlyRequest s.caps r) (allSet fin 0) (allSet fin 1) = true := by simpa [leaves] using hleft
    have hwalk := ssWalk_given_flagsFail huse hmaps hleaves hade hflags
    rw [scalablePage_second ht rfl, leafSnp_of_second (.inl ht)]
    exact ⟨(((ssLast_alike true _ true true r.addr).refuses hwalk).bind _).asked (plainReason_of_flagsFail hflags rfl rfl),
      ((seesN_ssFind (p := ssOf s pe true) huse _ hmaps).ssLast true true true).bind fun _ => keepsN_pure _⟩
  | nested fs tab k q ht hmaps huser hset h =>
    rw [owedEntries_eq] at hset
    obtain ⟨htab, hset⟩ := State.canSetFlags_append.1 hset
    obtain ⟨-, hfs⟩ := State.canSetFlags_append.1 hset
    obtain ⟨⟨c, l, rfl, hq, hl, hstop⟩, hn⟩ := ssFind_unmapped huse h (askFor (fsWritable pe pr fs && !readOnlyRequest s.caps r))
    rw [scalablePage_first (.inr ht) rfl, leafSnp_nil]
    obtain ⟨l', hl', hstop'⟩ := fsWalk_given_stops (b := !readOnlyRequest s.caps r) (pasid := pasid) huse hmaps htab hfs huser rfl hl
      (fsFinal_asked_stops ht (hstop.bind _))
    have hreason := finalCond_reason c
    exact ⟨⟨finalCond c, l', hreason, finalCond_qualified hq,
      answered_of_plainReason (hreason ▸ plainReason_finalReason (plainReason_of_ssUnmapped h)), hl', hstop'⟩,
      seesN_fsWalk_asked huse hmaps htab huser (seesN_fsFinal_nested ht hn)⟩
  | passThrough ht hbeyond =>
    rw [scalablePage_through ht, leafSnp_nil]
    exact ⟨⟨.sgn4_2, [], rfl, rfl, rfl, walkOnly_nil _, (stops_check (by simpa using hbeyond) .sgn4_2).bind _⟩,
      (keepsN_check _ _).bind fun _ => keepsN_pure _⟩

end Sys2Proof.Machine
end

section
/-! O45: the answers to translation requests in scalable mode. -/

namespace Sys2Proof.Machine

variable {s v : State} {pe : BitVec 512} {r : MemReq}

/-! ## The flags that a page owes -/

theorem ssMaps_holds {d : Bool} {a : Addr} {l : List UsedEntry} {k : Nat} (h : s.ssMaps pe d a l k) : ∀ x ∈ l, s.holds x :=
  ssUses_holds (toNat_table_mod _ _ _) h.2

theorem fsMaps_holds {d : Bool} {a : Addr} {fs tab : List UsedEntry} {k : Nat} (h : s.fsMaps pe d a fs tab k) :
    (∀ x ∈ fs, s.holds x) ∧ ∀ x ∈ tab, s.holds x := fsUses_holds (toNat_table_mod _ _ _) h.2

theorem owedEntries_holds {fs tab fin : List UsedEntry} (hfs : ∀ x ∈ fs, s.holds x) (htab : ∀ x ∈ tab, s.holds x)
    (hfin : ∀ x ∈ fin, s.holds x) : ∀ x ∈ owedEntries pe fs tab fin, s.holds x := by
  intro x hx
  unfold owedEntries at hx
  rcases List.mem_append.1 hx with hx | hx
  · split at hx
    · exact (List.mem_append.1 hx).elim (htab x) (hfin x)
    · cases hx
  · exact hfs x hx

/-- The entries that a page is given by stand in memory. -/
theorem pageGiven_holds {pr ro withPasid : Bool} {a page : Addr} {fs tab fin : List UsedEntry} {k : Nat} {rd w : Bool}
    (h : s.pageGiven pe pr ro withPasid a page fs tab fin k rd w) : ∀ x ∈ owedEntries pe fs tab fin, s.holds x := by
  unfold State.pageGiven at h
  split at h
  · obtain ⟨hmaps, -, -, -, -, rfl⟩ := h
    obtain ⟨hfs, htab⟩ := fsMaps_holds hmaps
    exact owedEntries_holds hfs htab nofun
  · obtain ⟨hmaps, -, -, -, rfl, rfl⟩ := h
    exact owedEntries_holds nofun nofun (ssMaps_holds hmaps)
  · obtain ⟨gpa, k1, k2, hmaps, -, -, hss, -⟩ := h
    obtain ⟨hfs, htab⟩ := fsMaps_holds hmaps
    exact owedEntries_holds hfs htab (ssMaps_holds hss)
  · obtain ⟨-, -, -, -, -, rfl, rfl, rfl⟩ := h
    exact owedEntries_holds nofun nofun nofun
  · exact h.elim

/-- The updates that entries owe change memory and the trace of accesses alone, and set their flags. -/
theorem updateAll_owed (hv : onlyCounted s v) (hm : s.memoryForm) (hwbuf : s.wbuf = []) {l : List UsedEntry}
    (hl : ∀ x ∈ l, s.holds x) (bus : List UnitAccess) :
    ∃ m, State.updateAll { v with bus := bus } (owedUpdates l) =
        { v with mem := m, bus := ((owedUpdates l).map flagAccess).reverse ++ bus } ∧
      flagsSet s { v with mem := m } l := by
  have hkept : v.mem = s.mem ∧ v.wbuf = s.wbuf := by
    rw [hv.1]
    exact ⟨rfl, rfl⟩
  obtain ⟨hmem, hwbufv⟩ := hkept
  refine ⟨_, State.updateAll_eq (s := { v with bus := bus }) (hwbufv.trans hwbuf) (owedUpdates l), ?_⟩
  have hflags := flagsSet_updateAll (s := { v with bus := bus }) (hwbufv.trans hwbuf) (by rw [State.memoryForm, hmem]; exact hm)
    (l := l) (fun x hx => by rw [State.holds, hmem]; exact hl x hx)
  unfold flagsSet at hflags ⊢
  rw [← hmem]
  exact hflags

/-- Flag updates and reads of paging entries are what a walk does. -/
theorem walkAccess_of_updates {snoop : Bool} {l : List UnitAccess} (hl : walkOnly snoop l) (u : List FlagUpdate) :
    ∀ y ∈ (u.map flagAccess).reverse ++ l, walkAccess snoop y := by
  intro y hy
  rcases List.mem_append.1 hy with hy | hy
  · simp only [List.mem_reverse, List.mem_map] at hy
    obtain ⟨x, -, rfl⟩ := hy
    exact .inr rfl
  · exact .inl (hl y hy)

/-! ## The reply -/

section
variable {ce : BitVec 256} {pasid : Pasid} {pr : Bool} {p : PageResult} {c : Cond} {l : List UnitAccess} {u : List FlagUpdate}
  {n : Bool}

theorem scalableReply_special (hp : r.pasid = none) (hrange : inInterruptRange r.addr = true) (ce : BitVec 256) (pasid : Pasid)
    (pr : Bool) : scalableReply s r ce pasid pr pe =
      pure { scalableGiven s r ce pasid pr pe PageResult.none with special := true } := by
  unfold scalableReply
  rw [if_pos (by rw [isSpecial_translation hp, hrange])]

theorem scalableReply_walks (hrange : r.pasid = none → inInterruptRange r.addr = false) (ce : BitVec 256) (pasid : Pasid)
    (pr : Bool) : scalableReply s r ce pasid pr pe = (do
      let p ← keepBad s r (scalableGiven s r ce pasid pr pe) (scalablePage s r pasid pr pe)
      check (outputInRange .translation p r.addr) .sgn8_2
      pure (scalableGiven s r ce pasid pr pe p)) := by
  have hno : ¬ isSpecial .translation r = true := by
    cases hp : r.pasid with
    | none => simp [isSpecial_translation hp, hrange hp]
    | some q => simp [isSpecial, hp]
  unfold scalableReply
  rw [if_neg hno]

/-- The walk finds a page that keeps clear of the interrupt range. -/
theorem scalableReply_finds (hrange : r.pasid = none → inInterruptRange r.addr = false)
    (h : finds (scalablePage s r pasid pr pe) p l u) (hn : seesN (scalablePage s r pasid pr pe) n)
    (hfree : regionMeetsInterruptRange p.hpa p.shift = false) (x : Seen) (m : Bool) :
    yieldsN (scalableReply s r ce pasid pr pe) (scalableGiven s r ce pasid pr pe p) x m ((x.reads l).owes u) (m || n) := by
  rw [scalableReply_walks hrange]
  exact (yields.seeing ((keepBad_alike r _ _).finds h x) (hn.keepBad r _) m).bind
    ((checkedN hfree .sgn8_2 _ _).bind ((finds_pure _).unseenN (keepsN_pure _) _ _))

/-- A page that meets the interrupt range (22 R762). -/
theorem scalableReply_inRange (hrange : r.pasid = none → inInterruptRange r.addr = false)
    (h : finds (scalablePage s r pasid pr pe) p l u) (hn : seesN (scalablePage s r pasid pr pe) n)
    (hmeets : regionMeetsInterruptRange p.hpa p.shift = true) (x : Seen) (m : Bool) :
    faultsN (scalableReply s r ce pasid pr pe) .sgn8_2 x m (l ++ x.bus) x.fpd (m || n) := by
  rw [scalableReply_walks hrange]
  exact (yields.seeing ((keepBad_alike r _ _).finds h x) (hn.keepBad r _) m).bind_faults ((failedN hmeets .sgn8_2 _ _).bind _)

theorem scalableReply_stops (hrange : r.pasid = none → inInterruptRange r.addr = false)
    (h : stops (scalablePage s r pasid pr pe) c l) (hn : seesN (scalablePage s r pasid pr pe) n) (x : Seen) (m : Bool) :
    faultsN (scalableReply s r ce pasid pr pe) c x m (l ++ x.bus) x.fpd (m || n) := by
  rw [scalableReply_walks hrange]
  exact (faults.seeing ((keepBad_alike r _ _).stops h x) (hn.keepBad r _) m).bind _

end

/-- The completion that a page given makes. -/
theorem buildCompletion_given {ce : BitVec 256} {pasid : Pasid} {pr : Bool} {page : Addr} {k : Nat} {rd w : Bool} {p : PageResult}
    (h : GivenPage s r pe pr page k rd w p) (n : Bool) :
    buildCompletion s.caps r (scalableGiven s r ce pasid pr pe p) n = pageAnswer r page k rd w n := by
  obtain ⟨rfl, rfl, rfl, rfl⟩ := h
  exact buildCompletion_page _ _ rfl n

/-! ## The answers -/

section
variable {ca da pa : Addr} {ce : BitVec 256} {pasid : Pasid}

/-- An address of the interrupt range (43 R1066). -/
theorem turnedAway_of_scalableSpecial (hu : s.uncached) (q : s.quiet .perf) (hentry : s.requestEntry r ca da pa ce pasid pe)
    (hdte : smDte ce = true) (hp : r.pasid = none) (hrange : inInterruptRange r.addr = true) :
    s.turnedAway (.translationRequest r)
      [.respond r.sid (.translation (if readOnlyRequest s.caps r then noRights r (pePgsnp pe)
        else { noRights r (pePgsnp pe) with w := true, u := true }))] (s.tableReads r.sid ca da pa) none := by
  have hreply := translation_leads_scalableReply hu.1 hentry hdte
  rw [scalableReply_special hp hrange] at hreply
  have haway := turnedAway_of_foundWith hentry.1.1.1 hu q rfl (hreply.yields ((finds_pure _).unseenN (keepsN_pure _) _ _))
  rw [buildCompletion_special _ _ rfl] at haway
  exact haway

/-- A page that is given is answered, behind the flags that its entries owe (22 R735, R745; 43 R1070). -/
theorem exec_of_pageGiven (hu : s.uncached) (q : s.quiet .perf) (hentry : s.requestEntry r ca da pa ce pasid pe)
    (hdte : smDte ce = true) (hm : s.memoryForm) (hwbuf : s.wbuf = []) (hrange : r.pasid = none → inInterruptRange r.addr = false)
    {page : Addr} {fs tab fin : List UsedEntry} {k : Nat} {rd w : Bool}
    (h : s.pageGiven pe (s.requestPriv r ce) (readOnlyRequest s.caps r) r.pasid.isSome r.addr page fs tab fin k rd w)
    (hany : (rd || w) = true) (hset : s.canSetFlags pe (owedEntries pe fs tab fin))
    (hfree : regionMeetsInterruptRange page k = false) :
    ∃ v t l, onlyCounted s v ∧ exec (.translationRequest r) s = .next t ∧
      t = { v with
            mem := t.mem, bus := l ++ s.tableReads r.sid ca da pa ++ s.bus
            out := .respond r.sid (.translation (pageAnswer r page k rd w (s.completionN pe fin))) :: v.out } ∧
      flagsSet s t (owedEntries pe fs tab fin) ∧ ∀ y ∈ l, walkAccess (snoopedWalk s.caps pe) y := by
  obtain ⟨p, l, hpage, hl, hfinds, hn⟩ := scalablePage_given hu.1 h hany hset pasid
  have hclear : regionMeetsInterruptRange p.hpa p.shift = false := by rw [hpage.hpa, hpage.shift, hfree]
  obtain ⟨v, hv, hexec⟩ := exec_of_foundWith hentry.1.1.1 hu q
    ((translation_leads_scalableReply hu.1 hentry hdte).yields (scalableReply_finds (ce := ce) hrange hfinds hn hclear _ _))
  have hupd : (((s.tablesSeen r.sid ca da pa ce pe).reads l).owes (owedUpdates (owedEntries pe fs tab fin))).upd =
      owedUpdates (owedEntries pe fs tab fin) := List.nil_append _
  have hbus : (((s.tablesSeen r.sid ca da pa ce pe).reads l).owes (owedUpdates (owedEntries pe fs tab fin))).bus =
      l ++ s.tableReads r.sid ca da pa := rfl
  obtain ⟨m, hstate, hflags⟩ := updateAll_owed hv hm hwbuf (pageGiven_holds h) (l ++ s.tableReads r.sid ca da pa ++ s.bus)
  rw [buildCompletion_given hpage, hupd, hbus, hstate] at hexec
  refine ⟨v, _, ((owedUpdates (owedEntries pe fs tab fin)).map flagAccess).reverse ++ l, hv, hexec, ?_, hflags,
    walkAccess_of_updates hl _⟩
  simp only [List.append_assoc]
  rfl

end

/-- Settles O45: the tables refuse the request or lead to its PASID-table entry, whose walk gives a page, leaves nothing or is
refused (`scalablePage_given`, `scalablePage_leavesNothing`, `scalablePage_refused`); each answer carries N of that entry and of the
second-stage leaf of the page. -/
theorem scalableTranslationRequest : Obligations.ScalableTranslationRequest := by
  intro s r hwf hu qp hon
  have failed : s.quiet .fault → s.recordFree r.sid → ∀ {c reads fpd n}, c.qualified = true → c.answered = true →
      failsWith (translate s .translation r) c reads fpd n → s.answersFault r reads n c.reason fpd := by
    intro qf hrec c reads fpd n hq hanswered h
    simpa [hq] using answersFault_of_failsWith hon.1 hu qp qf hrec hanswered h fun _ => rfl
  refine ⟨fun qf hrec => ⟨fun reads reason fpd h hats => ?_, fun ca ce hce hdte hrid => ?_,
    fun ca da pa ce pasid pe reason h hdte hno => ?_⟩, ?_⟩
  · exact answersFault_of_refusedN hon.1 hu qp qf hrec (plainReason_of_tablesRefuse h)
      (translation_refused_tables hon hu.1 h hats)
  · have hsupported : ridSupported s r.pasid.isNone ce := fun hnone => hrid (Option.isNone_iff_eq_none.1 hnone)
    exact answersFault_of_refusedN hon.1 hu qp qf hrec rfl
      (refusedN_of_replyRest hon hu.1 hce hsupported (c := .sct5) rfl fun x n => replyRest_noAts hdte x n)
  · exact answersFault_of_refusedN hon.1 hu qp qf hrec (plainReason_of_entryRefuses hno)
      (translation_refused_entry hu.1 h hdte hno)
  rintro ca da pa ce pasid pe pr ro withPasid hentry hdte rfl rfl rfl hm hwbuf
  have hreply := translation_leads_scalableReply hu.1 hentry hdte
  refine ⟨fun hp hrange => turnedAway_of_scalableSpecial hu qp hentry hdte hp hrange, fun hrange =>
    ⟨fun page fs tab fin k rd w h hany hset => ⟨fun hfree =>
      exec_of_pageGiven hu qp hentry hdte hm hwbuf hrange h hany hset hfree, fun hmeets qf hrec => ?_⟩,
    fun fs tab fin h hset => ?_, fun reason fin h qf hrec => ?_⟩⟩
  · obtain ⟨p, l, hpage, hl, hfinds, hn⟩ := scalablePage_given hu.1 h hany hset pasid
    have hin : regionMeetsInterruptRange p.hpa p.shift = true := by rw [hpage.hpa, hpage.shift, hmeets]
    exact ⟨l, hl, failed qf hrec (c := .sgn8_2) rfl rfl (hreply.faults (scalableReply_inRange hrange hfinds hn hin _ _))⟩
  · obtain ⟨c, l, ⟨hanswered, hzero, h91⟩, hl, hstop, hn⟩ := scalablePage_leavesNothing hu.1 h hset pasid
    exact ⟨l, hl, turnedAway_of_silentFault hon.1 hu qp hanswered hzero h91
      (hreply.faults (scalableReply_stops hrange hstop hn _ _))⟩
  · obtain ⟨⟨c, l, rfl, hq, hanswered, hl, hstop⟩, hn⟩ := scalablePage_refused hu.1 h pasid
    exact ⟨l, hl, failed qf hrec hq hanswered (hreply.faults (scalableReply_stops hrange hstop hn _ _))⟩

end Sys2Proof.Machine
end

section
/-! Interrupt requests (44 R1100 to R1137): each operation on the way of a request has one rule. A request is counted; an entry
is fetched, checked and used; an interrupt is delivered, or its fault recorded. -/

namespace Sys2Proof.Machine

variable {s v u : State} {sid : SourceId} {addr data : BitVec 32} {idx : Nat} {e : BitVec 128} {reason : BitVec 8}

/-! ## Requests and their delivery (R1100, R1137) -/

/-- No posted write is in flight that an interrupt has to push. -/
def State.postedNone (s : State) : Prop := ∀ f ∈ s.inFlight, f.req.access ≠ .write

theorem State.drainPosted_eq (h : s.postedNone) : s.drainPosted = s := by
  have hnone : ∀ f ∈ s.inFlight, (f.req.access == .write) = false := fun f hf => beq_eq_false_iff_ne.2 (h f hf)
  have hgo : s.inFlight.filter (fun f => f.req.access == .write) = [] :=
    List.filter_eq_nil_iff.2 fun f hf => Bool.eq_false_iff.1 (hnone f hf)
  have hstay : s.inFlight.filter (fun f => !(f.req.access == .write)) = s.inFlight :=
    List.filter_eq_self.2 fun f hf => by rw [hnone f hf]; rfl
  unfold State.drainPosted State.drainWhere
  rw [hgo, hstay]
  rfl

theorem postedNone_of_onlyCounted (h : onlyCounted s v) (hposted : s.postedNone) : v.postedNone := by
  rw [eq_counted_of_onlyCounted h]
  exact hposted

/-- The request is counted, and then handled. -/
theorem exec_interruptRequest (hposted : s.postedNone) (quiet : s.quiet .perf) (sid : SourceId) (addr data : BitVec 32) :
    ∃ v, onlyCounted s v ∧ v.postedNone ∧
      exec (.interruptRequest sid addr data) s = .next (v.handleInterrupt sid addr data) :=
  have hv := State.countRequest_onlyCounted quiet sid none 0
  ⟨s.countRequest sid none 0, hv, postedNone_of_onlyCounted hv hposted, rfl⟩

theorem State.handleInterrupt_of_off (hposted : s.postedNone) (hoff : s.gsts.ires = false) :
    s.handleInterrupt sid addr data = s.deliverCompat sid addr data := by
  rw [State.handleInterrupt, State.drainPosted_eq hposted, if_pos (by simp [hoff])]

theorem State.handleInterrupt_of_compat (hposted : s.postedNone) (hon : s.gsts.ires = true) (hformat : bitAt addr 4 = false) :
    s.handleInterrupt sid addr data = s.handleCompat sid addr data := by
  rw [State.handleInterrupt, State.drainPosted_eq hposted, if_neg (by simp [hon]), if_pos (by simp [hformat])]

theorem State.handleInterrupt_of_remappable (hposted : s.postedNone) (hon : s.gsts.ires = true)
    (hformat : bitAt addr 4 = true) : s.handleInterrupt sid addr data = s.remapInterrupt sid addr data := by
  rw [State.handleInterrupt, State.drainPosted_eq hposted, if_neg (by simp [hon]), if_neg (by simp [hformat])]

/-- A remappable request is counted, and then remapped. -/
theorem exec_of_remappable (hposted : s.postedNone) (quiet : s.quiet .perf) (hon : s.gsts.ires = true)
    (hformat : bitAt addr 4 = true) :
    ∃ v, onlyCounted s v ∧ exec (.interruptRequest sid addr data) s = .next (v.remapInterrupt sid addr data) := by
  obtain ⟨v, hv, hposted', hexec⟩ := exec_interruptRequest hposted quiet sid addr data
  rw [State.handleInterrupt_of_remappable hposted' (gsts_of_onlyCounted hv ▸ hon) hformat] at hexec
  exact ⟨v, hv, hexec⟩

theorem State.deliver_delivered (s : State) (sid : SourceId) (m : Delivery) :
    delivered s (s.deliver { sid := sid, msg := m }) sid m := by
  unfold delivered State.deliver
  split
  · rfl
  · rw [State.acceptWhere_eq]
    rfl

/-! ## Faults (R1100; 60 R1370, R1372) -/

/-- The record of an interrupt fault that no FPD bit suppresses. -/
theorem State.intFault_recorded {qualified fpd : Bool} (hs : (qualified && fpd) = false) (hfree : s.recordFree sid)
    (quiet : s.quiet .fault) (reason : BitVec 8) (fi : BitVec 52) :
    onlyReported s (s.intFault reason qualified sid fi fpd) ∧
      recorded s (s.intFault reason qualified sid fi fpd) (intRecord sid reason fi) := by
  have hrec := State.reportFault_recorded (x := {
    reason := reason, qualified := qualified, fpd := fpd, sid := sid, fi := fi, t1 := false, t2 := false, atf := 0, pp := false
    pv := 0, exe := false, priv := false }) hs hfree quiet
  simp only [FaultReport.record, ite_self, Bool.false_and] at hrec
  exact hrec

/-- Where nothing that a fault report reads has moved since `s`, and the fault is not qualified. -/
theorem intFault_recorded_after (hv : onlyCounted s v) (hfree : s.recordFree sid) (quiet : s.quiet .fault)
    (bus : List UnitAccess) {qualified fpd : Bool} (hs : (qualified && fpd) = false) (reason : BitVec 8) (fi : BitVec 52) :
    onlyReported { v with bus := bus } (State.intFault { v with bus := bus } reason qualified sid fi fpd) ∧
      recorded { v with bus := bus } (State.intFault { v with bus := bus } reason qualified sid fi fpd)
        (intRecord sid reason fi) := by
  have heq := eq_counted_of_onlyCounted hv
  exact State.intFault_recorded hs (by rw [heq]; exact hfree) (by rw [heq]; exact quiet) reason fi

theorem onlyReported_fresh (h : onlyReported v u) : onlyReported { v with freeCtr := v.freeCtr + 1 } u.fresh :=
  congrArg State.fresh h

/-- A fault whose FI is undefined takes a free value. -/
theorem intFault_fresh_recorded (hv : onlyCounted s v) (hfree : s.recordFree sid) (quiet : s.quiet .fault) (reason : BitVec 8)
    (fi : BitVec 52) :
    onlyReported { v with freeCtr := s.freeCtr + 1 } (v.intFault reason false sid fi false).fresh ∧
      recorded v (v.intFault reason false sid fi false).fresh (intRecord sid reason fi) := by
  obtain ⟨honly, hrec⟩ := intFault_recorded_after hv hfree quiet v.bus (Bool.false_and false) reason fi
  rw [← freeCtr_of_onlyCounted hv]
  exact ⟨onlyReported_fresh honly, hrec⟩

/-! ## From the request to its entry (R1110, R1115) -/

/-- The address of an entry of the table. -/
def State.irteAddr (s : State) (idx : Nat) : Nat := s.pageBase s.latchedIr.irta + 16 * idx

/-- The request names an index in the table, with no reserved field set (R1110). -/
def State.inTable (s : State) (addr data : BitVec 32) (idx : Nat) : Prop :=
  (intShv addr = true → field data 16 16 = 0) ∧ idx = interruptIndex addr data ∧ idx < 2 ^ (s.latchedIr.size.toNat + 1)

theorem State.remapInterrupt_of_reserved (hshv : intShv addr = true) (hfield : field data 16 16 ≠ 0) :
    s.remapInterrupt sid addr data = s.reservedIntFault sid := by
  unfold State.remapInterrupt
  rw [if_pos (by simpa [hshv] using hfield)]

theorem noReserved_iff :
    (intShv addr && field data 16 16 != 0) = false ↔ (intShv addr = true → field data 16 16 = 0) := by
  simp

theorem State.remapInterrupt_of_beyondTable (hfield : intShv addr = true → field data 16 16 = 0)
    (hidx : idx = interruptIndex addr data) (hbeyond : 2 ^ (s.latchedIr.size.toNat + 1) ≤ idx) :
    s.remapInterrupt sid addr data = s.intFault 0x21 false sid (indexInfo idx) false := by
  subst hidx
  unfold State.remapInterrupt
  rw [noReserved_iff.2 hfield]
  exact if_pos hbeyond

theorem State.iecLookup_of_usesNone (h : s.choice.use = []) (i : BitVec 16) : s.iecLookup i = none :=
  if_neg (by simp [Choice.uses, h])

theorem State.fillIec_of_fillsNone (h : s.choice.fill = []) (x : IecEntry) : s.fillIec x = s :=
  if_neg (by simp [Choice.fills, h])

theorem State.countInt_onlyCounted (quiet : s.quiet .perf) (group event : Nat) (sid : SourceId) :
    onlyCounted s (s.countInt group event sid) := s.count_only _ quiet

/-- The fetch of an entry, where no cache gives it (R1115): what `State.remapInterrupt` goes on with. -/
def State.fetchEntry (s : State) (sid : SourceId) (idx : Nat) : State :=
  if s.hpaEnd ≤ s.irteAddr idx then s.intFault 0x21 false sid (indexInfo idx) false
  else
    let fetched := (s.countInt 1 0 sid).access .read (s.irteAddr idx) 16 s.caps.c
    match fetched.memRead (s.irteAddr idx) 16 with
    | none => fetched.intFault 0x23 false sid (indexInfo idx) false
    | some n => fetched.useIrte sid idx (BitVec.ofNat 128 n) false

/-- With no cache used, a request to an index in the table is counted as a lookup, and its entry fetched. -/
theorem State.remapInterrupt_of_inTable (hin : s.inTable addr data idx) (hu : s.uncached) (quiet : s.quiet .perf)
    (sid : SourceId) : ∃ v, onlyCounted s v ∧ s.remapInterrupt sid addr data = v.fetchEntry sid idx := by
  obtain ⟨hfield, rfl, hlt⟩ := hin
  have hlooked := State.countInt_onlyCounted quiet 4 0 sid
  have hmiss := State.iecLookup_of_usesNone (uncached_of_onlyCounted hlooked hu).1
    (BitVec.ofNat 16 (interruptIndex addr data))
  refine ⟨s.countInt 4 0 sid, hlooked, ?_⟩
  unfold State.remapInterrupt
  simp only [noReserved_iff.2 hfield, if_neg (Nat.not_le.2 hlt), hmiss, Bool.false_eq_true, if_false]
  rfl

theorem fetchEntry_of_beyondHaw (hv : onlyCounted s v) (hbeyond : s.hpaEnd ≤ s.irteAddr idx) :
    v.fetchEntry sid idx = v.intFault 0x21 false sid (indexInfo idx) false := by
  refine if_pos ?_
  rw [eq_counted_of_onlyCounted hv]
  exact hbeyond

/-- The read of an entry below 2^HAW is counted, and stands in the trace of the unit's accesses. -/
theorem fetchEntry_of_below (hv : onlyCounted s v) (quiet : s.quiet .perf) (hbelow : s.irteAddr idx < s.hpaEnd)
    (sid : SourceId) :
    ∃ w, onlyCounted s w ∧
      (s.memRead (s.irteAddr idx) 16 = none → v.fetchEntry sid idx =
        State.intFault { w with bus := s.irteAccesses idx 0 false ++ s.bus } 0x23 false sid (indexInfo idx) false) ∧
      (∀ e, s.memRead (s.irteAddr idx) 16 = some e.toNat → v.fetchEntry sid idx =
        State.useIrte { w with bus := s.irteAccesses idx e false ++ s.bus } sid idx e false) := by
  have hw := onlyCounted_trans hv (State.countInt_onlyCounted (onlyCounted_quiet hv quiet) 1 0 sid)
  refine ⟨v.countInt 1 0 sid, hw, ?_⟩
  have haccess : (v.countInt 1 0 sid).access .read (v.irteAddr idx) 16 v.caps.c =
      { v.countInt 1 0 sid with bus := busRead (s.irteAddr idx) 16 s.caps.c :: s.bus } := by
    rw [← bus_of_onlyCounted hw, eq_counted_of_onlyCounted hv]
    rfl
  have hread : State.memRead { v.countInt 1 0 sid with bus := busRead (s.irteAddr idx) 16 s.caps.c :: s.bus }
      (v.irteAddr idx) 16 = s.memRead (s.irteAddr idx) 16 := by
    rw [eq_counted_of_onlyCounted hw, eq_counted_of_onlyCounted hv]
    rfl
  have hin : ¬ v.hpaEnd ≤ v.irteAddr idx := by
    rw [eq_counted_of_onlyCounted hv]
    exact Nat.not_le.2 hbelow
  unfold State.fetchEntry
  simp only [if_neg hin, haccess, hread]
  constructor
  · intro hnone
    rw [hnone]
    rfl
  · intro e hsome
    rw [hsome]
    simp only [BitVec.ofNat_toNat, BitVec.setWidth_eq]
    rfl

/-! ## Under an entry (R1120, R1125, R1135) -/

/-- The state after the access that posting makes to the descriptor (20 R525). -/
def State.atPid (s : State) (sid : SourceId) (e : BitVec 128) : State :=
  if reachesPid s sid e then s.access .atomic (irtePid e).toNat 64 true else s

theorem State.useIrte_of_refused (hfill : s.choice.fill = []) (hfault : useFault s sid e = some reason) (idx : Nat) :
    s.useIrte sid idx e false = (s.atPid sid e).intFault reason true sid (indexInfo idx) (irteFpd e) := by
  unfold State.useIrte
  simp only [hfault, State.fillIec_of_fillsNone hfill, ite_self]
  rfl

theorem State.useIrte_of_remapped (hfill : s.choice.fill = []) (hgood : irteFault s sid e = none) (hmode : irteIm e = false)
    (idx : Nat) : s.useIrte sid idx e false = s.deliverRemapped sid e := by
  have hfault : useFault s sid e = none := by simp [useFault, hgood, hmode]
  have hposts : reachesPid s sid e = false := by simp [reachesPid, hmode]
  unfold State.useIrte
  simp only [hfault, hposts, State.fillIec_of_fillsNone hfill, ite_self]
  rfl

theorem State.useIrte_of_posted (hfill : s.choice.fill = []) (hgood : irteFault s sid e = none) (hmode : irteIm e = true)
    (hpid : postFault s e = none) (idx : Nat) :
    s.useIrte sid idx e false = (s.access .atomic (irtePid e).toNat 64 true).post sid e := by
  have hfault : useFault s sid e = none := by simp [useFault, hgood, hmode, hpid]
  have hposts : reachesPid s sid e = true := by simp [reachesPid, hgood, hmode]
  unfold State.useIrte
  simp only [hfault, hposts, State.fillIec_of_fillsNone hfill, ite_self]
  rfl

theorem useFault_of_irteFault (h : irteFault s sid e = some reason) : useFault s sid e = some reason := by
  simp [useFault, h]

theorem reachesPid_of_irteFault (h : irteFault s sid e = some reason) : reachesPid s sid e = false := by
  simp [reachesPid, h]

theorem postFault_of_inaccessible
    (h : ¬ (s.readable (irtePid e).toNat 64 = true ∧ s.writable (irtePid e).toNat 64 = true)) :
    postFault s e = some 0x27 := if_pos (by rw [← Bool.and_eq_true, Bool.not_eq_true] at h; simp [h])

theorem postFault_of_accessible (hr : s.readable (irtePid e).toNat 64 = true) (hw : s.writable (irtePid e).toNat 64 = true) :
    postFault s e = if pidRsvd s.latchedIr.eime (s.pidOf e) then some 0x28 else none := if_neg (by simp [hr, hw])

/-- The fault of an entry that refuses a request is the first of its checks that fails (92 D32), and the descriptor is accessed
for the faults of posting alone. -/
theorem useFault_of_irteRefuses (h : s.irteRefuses sid e reason) :
    useFault s sid e = some reason ∧ reachesPid s sid e = (reason == 0x27 || reason == 0x28) := by
  have own {x : BitVec 8} (hx : irteFault s sid e = some x) (hne : (x == 0x27 || x == 0x28) = false) :
      useFault s sid e = some x ∧ reachesPid s sid e = (x == 0x27 || x == 0x28) :=
    ⟨useFault_of_irteFault hx, (reachesPid_of_irteFault hx).trans hne.symm⟩
  rcases h with ⟨rfl, habsent⟩ | ⟨rfl, hpresent, hbad⟩ | ⟨rfl, hpresent, hsvt, hsource⟩ | ⟨hgood, hmode, hpid⟩
  · exact own (by simp [irteFault, habsent]) rfl
  · refine own ?_ rfl
    rcases hbad with hsvt | ⟨hsource, hbad⟩
    · simp [irteFault, hpresent, hsvt]
    · cases hmode : irteIm e <;> simp_all [irteFault]
  · exact own (by simpa [irteFault, hpresent, hsource] using hsvt) rfl
  · have hreaches : reachesPid s sid e = true := by simp [reachesPid, hgood, hmode]
    have huse : useFault s sid e = postFault s e := by simp [useFault, hgood, hmode]
    rcases hpid with ⟨rfl, hno⟩ | ⟨rfl, hr, hw, hrsvd⟩
    · exact ⟨huse.trans (postFault_of_inaccessible hno), hreaches⟩
    · exact ⟨huse.trans ((postFault_of_accessible hr hw).trans (if_pos hrsvd)), hreaches⟩

/-! ## Posting (R1135, R1137) -/

/-- What posting stores: the interrupt's bit, and ON where a notification is due. -/
theorem bitAt_postedPid (d : BitVec 512) (vv : BitVec 8) (notify : Bool) (k : Nat) :
    bitAt (postedPid d vv notify) k = (bitAt d k || decide (k = vv.toNat) || (decide (k = 256) && notify)) := by
  have hvv : vv.toNat < 512 := by omega
  rw [postedPid, bitAt_or, bitAt_or, bitAt_flag hvv, bitAt_flag (by decide), Bool.and_true]

theorem notifyDue_eq (e : BitVec 128) (d : BitVec 512) :
    notifyDue e d = decide (bitAt d 256 = false ∧ (bitAt e 14 = true ∨ bitAt d 257 = false)) := by
  simp [notifyDue, pidOn, pidSn, irteUrg]

/-- The descriptor of the entry is updated behind the buffered stores and every earlier interrupt. -/
def State.posted (s : State) (e : BitVec 128) : State :=
  s.drainInterrupts.memWrite (irtePid e).toNat 64 (postedPid (s.pidOf e) (irteVector e) (notifyDue e (s.pidOf e))).toNat

theorem State.drainInterrupts_memWrite (s : State) (a n v : Nat) :
    s.drainInterrupts.memWrite a n v = { s with
      mem := writeNat s.flush.mem a n v, wbuf := [], intrFlight := []
      out := (s.intrFlight.map (fun d => Out.interrupt d.msg)).reverse ++ s.out } := by
  rw [State.drainInterrupts_eq]
  rfl

theorem State.post_of_notified (h : notifyDue e (s.pidOf e) = true) :
    s.post sid e = (s.posted e).deliver { sid := sid, msg := .notification (notifyMsg s.latchedIr.eime (s.pidOf e)) } := by
  have hir : (s.posted e).latchedIr = s.latchedIr := by rw [State.posted, State.drainInterrupts_memWrite]
  rw [← hir]
  exact if_pos h

theorem State.post_of_silent (h : notifyDue e (s.pidOf e) = false) : s.post sid e = s.posted e :=
  if_neg (Bool.eq_false_iff.1 h)

theorem State.posted_eq (s : State) (e : BitVec 128) :
    s.posted e = { s with
      mem := (s.posted e).mem, wbuf := [], intrFlight := []
      out := (s.intrFlight.map (fun d => Out.interrupt d.msg)).reverse ++ s.out } := by
  rw [State.posted, State.drainInterrupts_memWrite]

theorem State.posted_mem (s : State) (e : BitVec 128) :
    (s.posted e).mem = writeNat s.flush.mem (irtePid e).toNat 64
      (postedPid (s.pidOf e) (irteVector e) (notifyDue e (s.pidOf e))).toNat := by
  rw [State.posted, State.drainInterrupts_memWrite]

/-- The notification leaves memory alone. -/
theorem State.post_mem (s : State) (sid : SourceId) (e : BitVec 128) : (s.post sid e).mem = (s.posted e).mem := by
  cases h : notifyDue e (s.pidOf e) with
  | false => rw [State.post_of_silent h]
  | true =>
    rw [State.post_of_notified h]
    obtain ⟨o, l, hdeliver⟩ := (s.posted e).deliver_frame _
    rw [hdeliver]

/-- A word of whole bytes reads back as it was written. -/
theorem readNat_writeNat_toNat {m : List Host.Cell} (hm : Memory.wf m = true) (a n : Nat) (x : BitVec (8 * n)) :
    readNat (writeNat m a n x.toNat) a n = x.toNat := by
  have hbytes : 2 ^ (8 * n) = 256 ^ n := Nat.pow_mul 2 8 n
  rw [readNat_writeNat hm, ← hbytes, Nat.mod_eq_of_lt x.isLt]

/-- The descriptor reads back as posted. -/
theorem State.posted_pid (form : s.memoryForm) (e : BitVec 128) :
    BitVec.ofNat 512 (readNat (s.posted e).mem (irtePid e).toNat 64) =
      postedPid (s.pidOf e) (irteVector e) (notifyDue e (s.pidOf e)) := by
  rw [State.posted_mem, readNat_writeNat_toNat (State.flush_memoryForm form), BitVec.ofNat_toNat, BitVec.setWidth_eq]

theorem State.post_bits (form : s.memoryForm) (sid : SourceId) (e : BitVec 128) (k : Nat) :
    bitAt (BitVec.ofNat 512 (readNat (s.post sid e).mem (irtePid e).toNat 64)) k =
      (bitAt (s.pidOf e) k || decide (k = (irteVector e).toNat) || (decide (k = 256) && notifyDue e (s.pidOf e))) := by
  rw [State.post_mem, State.posted_pid form, bitAt_postedPid]

theorem State.post_sameOutside (s : State) (sid : SourceId) (e : BitVec 128) :
    sameOutside s (s.post sid e) (irtePid e).toNat 64 := by
  intro a ha
  refine keepsByte_of_flush ?_
  rw [State.post_mem, State.posted_mem]
  exact readByte_writeNat_outside _ _ _ _ _ ha

end Sys2Proof.Machine
end

section
/-! O48 to O51: interrupt requests passed, remapped, posted and refused (44 R1100 to R1137), and the other requests to the
interrupt range (42 R1023). The steps on the way of a request (`exec_interruptRequest`, `State.remapInterrupt_of_inTable`,
`fetchEntry_of_below`, `State.useIrte_of_remapped` and its likes) are put together here. -/

namespace Sys2Proof.Machine

variable {s v : State} {r : MemReq} {sid : SourceId} {addr data : BitVec 32} {idx : Nat} {e : BitVec 128} {reason : BitVec 8}

/-! ## Requests that are not remapped (R1100, R1105) -/

theorem State.handleCompat_of_passed (heime : s.latchedIr.eime = false) (hcfis : s.gsts.cfis = true) :
    s.handleCompat sid addr data = s.deliverCompat sid addr data := if_neg (by simp [heime, hcfis])

theorem State.handleCompat_of_blocked (h : s.latchedIr.eime = true ∨ s.gsts.cfis = false) :
    s.handleCompat sid addr data = s.compatIntFault sid := if_pos (by simpa using h)

theorem latchedIr_of_onlyCounted (h : onlyCounted s v) : v.latchedIr = s.latchedIr := by
  rw [eq_counted_of_onlyCounted h]
  rfl

/-- Settles O48: with remapping off, or in compatibility format, the request is passed on as it is, or blocked. -/
theorem interruptNotRemapped : Obligations.InterruptNotRemapped := by
  refine ⟨fun s sid addr data hoff hposted quiet => ?_, fun s sid addr data hon hformat hposted quiet =>
    ⟨fun heime hcfis => ?_, fun hblocked hfree qf => ?_⟩⟩
  · obtain ⟨v, hv, hposted', hexec⟩ := exec_interruptRequest hposted quiet sid addr data
    rw [State.handleInterrupt_of_off hposted' (gsts_of_onlyCounted hv ▸ hoff)] at hexec
    exact ⟨v, _, hv, v.deliver_delivered sid _, hexec⟩
  · obtain ⟨v, hv, hposted', hexec⟩ := exec_interruptRequest hposted quiet sid addr data
    rw [State.handleInterrupt_of_compat hposted' (gsts_of_onlyCounted hv ▸ hon) hformat,
      State.handleCompat_of_passed (latchedIr_of_onlyCounted hv ▸ heime) (gsts_of_onlyCounted hv ▸ hcfis)] at hexec
    exact ⟨v, _, hv, v.deliver_delivered sid _, hexec⟩
  · obtain ⟨v, hv, hposted', hexec⟩ := exec_interruptRequest hposted quiet sid addr data
    rw [← latchedIr_of_onlyCounted hv, ← gsts_of_onlyCounted hv] at hblocked
    rw [State.handleInterrupt_of_compat hposted' (gsts_of_onlyCounted hv ▸ hon) hformat,
      State.handleCompat_of_blocked hblocked] at hexec
    exact ⟨v, _, _, hexec, hv, intFault_fresh_recorded hv hfree qf 0x25 _⟩

/-! ## Requests that reach an entry (R1110, R1115) -/

/-- A request to an index in the table is counted, and its entry fetched. -/
theorem exec_of_inTable (hposted : s.postedNone) (quiet : s.quiet .perf) (hon : s.gsts.ires = true)
    (hformat : bitAt addr 4 = true) (hin : s.inTable addr data idx) (hu : s.uncached) (sid : SourceId) :
    ∃ v, onlyCounted s v ∧ exec (.interruptRequest sid addr data) s = .next (v.fetchEntry sid idx) := by
  obtain ⟨v, hv, hexec⟩ := exec_of_remappable (sid := sid) (data := data) hposted quiet hon hformat
  have hin' : v.inTable addr data idx := by rwa [State.inTable, latchedIr_of_onlyCounted hv]
  obtain ⟨w, hw, hremap⟩ :=
    State.remapInterrupt_of_inTable hin' (uncached_of_onlyCounted hv hu) (onlyCounted_quiet hv quiet) sid
  exact ⟨w, onlyCounted_trans hv hw, hexec.trans (congrArg Host.Outcome.next hremap)⟩

/-- The entry is read, and used. -/
theorem exec_of_remapsTo (hposted : s.postedNone) (quiet : s.quiet .perf) (h : s.remapsTo addr data idx e) (sid : SourceId) :
    ∃ v, onlyCounted s v ∧ exec (.interruptRequest sid addr data) s =
      .next (State.useIrte { v with bus := s.irteAccesses idx e false ++ s.bus } sid idx e false) := by
  obtain ⟨hon, hformat, hfield, hidx, hlt, hu, hbelow, hread⟩ := h
  obtain ⟨v, hv, hexec⟩ := exec_of_inTable hposted quiet hon hformat ⟨hfield, hidx, hlt⟩ hu sid
  obtain ⟨w, hw, -, hused⟩ := fetchEntry_of_below hv quiet hbelow sid
  exact ⟨w, hw, hexec.trans (congrArg Host.Outcome.next (hused e hread))⟩

theorem uncached_of_remapsTo (h : s.remapsTo addr data idx e) : s.uncached := by
  obtain ⟨-, -, -, -, -, hu, -⟩ := h
  exact hu

/-! What the entry is checked against has not moved once it is read. -/

theorem fill_of_remapsTo (hv : onlyCounted s v) (h : s.remapsTo addr data idx e) (bus : List UnitAccess) :
    ({ v with bus := bus } : State).choice.fill = [] := (uncached_of_onlyCounted hv (uncached_of_remapsTo h)).2

theorem irteFault_of_onlyCounted (hv : onlyCounted s v) (bus : List UnitAccess) :
    irteFault { v with bus := bus } sid e = irteFault s sid e := by
  rw [eq_counted_of_onlyCounted hv]
  rfl

theorem postFault_of_onlyCounted (hv : onlyCounted s v) (bus : List UnitAccess) :
    postFault { v with bus := bus } e = postFault s e := by
  rw [eq_counted_of_onlyCounted hv]
  rfl

theorem useFault_of_onlyCounted (hv : onlyCounted s v) (bus : List UnitAccess) :
    useFault { v with bus := bus } sid e = useFault s sid e := by
  rw [useFault, irteFault_of_onlyCounted hv, postFault_of_onlyCounted hv, useFault]

theorem pidOf_of_onlyCounted (hv : onlyCounted s v) (bus : List UnitAccess) :
    State.pidOf { v with bus := bus } e = s.pidOf e := by
  rw [eq_counted_of_onlyCounted hv]
  rfl

/-- The access to the descriptor follows the read of the entry. -/
theorem atPid_of_onlyCounted (hv : onlyCounted s v) :
    State.atPid { v with bus := s.irteAccesses idx e false ++ s.bus } sid e =
      { v with bus := s.irteAccesses idx e (reachesPid s sid e) ++ s.bus } := by
  have hreaches : reachesPid { v with bus := s.irteAccesses idx e false ++ s.bus } sid e = reachesPid s sid e := by
    rw [reachesPid, irteFault_of_onlyCounted hv, reachesPid]
  unfold State.atPid
  rw [hreaches]
  cases reachesPid s sid e <;> rfl

/-- Settles O49: the message is made of the fields of the entry. -/
theorem interruptRemapped : Obligations.InterruptRemapped := by
  intro s sid addr data idx e hto hgood hmode hposted quiet
  obtain ⟨v, hv, hexec⟩ := exec_of_remapsTo hposted quiet hto sid
  rw [State.useIrte_of_remapped (fill_of_remapsTo hv hto _) ((irteFault_of_onlyCounted hv _).trans hgood) hmode] at hexec
  refine ⟨v, _, hv, hexec, ?_⟩
  rw [← latchedIr_of_onlyCounted hv]
  exact State.deliver_delivered _ sid _

/-! ## Posting (R1135, R1137) -/

theorem intrFlight_of_onlyCounted (hv : onlyCounted s v) : v.intrFlight = s.intrFlight := by
  rw [eq_counted_of_onlyCounted hv]
  rfl

theorem memoryForm_of_onlyCounted (hv : onlyCounted s v) (form : s.memoryForm) (bus : List UnitAccess) :
    State.memoryForm { v with bus := bus } := by
  rw [eq_counted_of_onlyCounted hv]
  exact form

theorem sameOutside_of_onlyCounted (hv : onlyCounted s v) {bus : List UnitAccess} {t : State} {a n : Nat}
    (h : sameOutside { v with bus := bus } t a n) : sameOutside s t a n := by
  rw [eq_counted_of_onlyCounted hv] at h
  exact h

/-- The step of a posted interrupt. -/
theorem exec_of_posted (hposted : s.postedNone) (quiet : s.quiet .perf) (hto : s.remapsTo addr data idx e)
    (hgood : irteFault s sid e = none) (hmode : irteIm e = true) (hpid : postFault s e = none) :
    ∃ v, onlyCounted s v ∧ exec (.interruptRequest sid addr data) s =
      .next (State.post { v with bus := s.irteAccesses idx e true ++ s.bus } sid e) := by
  obtain ⟨v, hv, hexec⟩ := exec_of_remapsTo hposted quiet hto sid
  rw [State.useIrte_of_posted (fill_of_remapsTo hv hto _) ((irteFault_of_onlyCounted hv _).trans hgood) hmode
    ((postFault_of_onlyCounted hv _).trans hpid)] at hexec
  exact ⟨v, hv, hexec⟩

/-- Settles O50: the descriptor is updated (`State.posted`), and a notification that is due is delivered behind the update. -/
theorem interruptPosted : Obligations.InterruptPosted := by
  rintro s sid addr data idx e _ _ x hto hgood hmode rfl hr hw rfl hrsvd form hx hposted quiet
  rw [← notifyDue_eq] at hx
  have hpid : postFault s e = none := (postFault_of_accessible hr hw).trans (if_neg (Bool.eq_false_iff.1 hrsvd))
  obtain ⟨v, hv, hexec⟩ := exec_of_posted hposted quiet hto hgood hmode hpid
  have hd := pidOf_of_onlyCounted (e := e) hv (s.irteAccesses idx e true ++ s.bus)
  have hbits := State.post_bits (memoryForm_of_onlyCounted hv form (s.irteAccesses idx e true ++ s.bus)) sid e
  rw [hd] at hbits
  have hout := sameOutside_of_onlyCounted hv
    (State.post_sameOutside { v with bus := s.irteAccesses idx e true ++ s.bus } sid e)
  refine ⟨v, State.posted { v with bus := s.irteAccesses idx e true ++ s.bus } e, _, hexec, hv, ?_, ?_, ?_, hout⟩
  · rw [State.post_mem, ← intrFlight_of_onlyCounted hv]
    exact State.posted_eq _ e
  · split
    next hdue =>
      rw [State.post_of_notified (by rw [hd]; exact hx ▸ hdue), hd, ← latchedIr_of_onlyCounted hv]
      exact State.deliver_delivered _ sid _
    next hdue => exact State.post_of_silent (by rw [hd]; exact hx ▸ Bool.eq_false_iff.2 hdue)
  · rw [hx]
    exact fun k _ => hbits k

/-! ## Requests refused (R1100, R1110 to R1135) -/

/-- A request whose entry, or its descriptor, refuses it, is dropped, and the fault recorded unless FPD is set (60 R1331). -/
theorem exec_of_irteRefuses (hposted : s.postedNone) (quiet : s.quiet .perf) (qf : s.quiet .fault) (hfree : s.recordFree sid)
    (hto : s.remapsTo addr data idx e) (hno : s.irteRefuses sid e reason) :
    ∃ v w t, exec (.interruptRequest sid addr data) s = .next t ∧ onlyCounted s v ∧
      w = { v with bus := s.irteAccesses idx e (reason == 0x27 || reason == 0x28) ++ s.bus } ∧
      (if irteFpd e = true then t = w else onlyReported w t ∧ recorded w t (intRecord sid reason (indexInfo idx))) := by
  obtain ⟨hfault, hreaches⟩ := useFault_of_irteRefuses hno
  obtain ⟨v, hv, hexec⟩ := exec_of_remapsTo hposted quiet hto sid
  rw [State.useIrte_of_refused (fill_of_remapsTo hv hto _) ((useFault_of_onlyCounted hv _).trans hfault),
    atPid_of_onlyCounted hv, hreaches] at hexec
  refine ⟨v, _, _, hexec, hv, rfl, ?_⟩
  split
  next hfpd => exact State.reportFault_of_suppressed rfl hfpd
  next hfpd => exact intFault_recorded_after hv hfree qf _ (by simpa using hfpd) reason _

/-- A request to the interrupt range that is neither an interrupt request nor a zero-length read is an illegal one (42 R1023). -/
theorem State.interruptRange_of_illegal (hwf : (Instr.untranslatedRequest r).wf = true) (hpasid : r.pasid = none)
    (hrange : inInterruptRange r.addr = true) (hzlr : r.access ≠ .zlr) : s.interruptRange r = s.blockIllegal r := by
  obtain ⟨⟨-, hfits⟩, hinterrupt⟩ : (r.crosses = false ∧ r.fits = true) ∧ r.isInterrupt = false := by
    simpa [Instr.wf, MemReq.shape] using hwf
  unfold State.interruptRange
  cases haccess : r.access with
  | read => rfl
  | atomic => rfl
  | zlr => exact absurd haccess hzlr
  | write =>
    refine if_neg fun hdword => Bool.eq_false_iff.1 hinterrupt ?_
    obtain ⟨-, hdata⟩ : ¬ r.len = 0 ∧ r.data.length = r.len := by simpa [MemReq.fits, haccess] using hfits
    have hlen : r.len = 4 := beq_iff_eq.1 hdword
    have hfee : r.addr.extractLsb' 20 44 = 0xFEE#44 := beq_iff_eq.1 hrange
    simp [MemReq.isInterrupt, hpasid, haccess, hdata, hlen, hfee]

theorem State.blockIllegal_of_off (htes : s.gsts.tes = false) : s.blockIllegal r = s.turnAway r := if_neg (by simp [htes])

/-- The fault of an illegal request, by the mode (92 D29). -/
def State.illegalReason (s : State) : BitVec 8 := if s.latchedRt.ttm = 0 then 0x0E else 0x87

/-- The record of a fault of a request without PASID (60 R1372). -/
theorem requestRecord_of_noPasid (c : Caps) (hpasid : r.pasid = none) (reason : BitVec 8) :
    requestRecord c r r.access 0 reason =
      { f := true, t1 := (accessType r.access).1, t2 := (accessType r.access).2, atf := 0, pv := 0, fr := reason
        pp := false, exe := false, priv := false, sid := r.sid, fi := faultInfo c r.addr } := by
  simp [requestRecord, hpasid]

/-- With translation on an illegal request is turned away, and its fault recorded whatever FPD says. -/
theorem State.blockIllegal_recorded (htes : s.gsts.tes = true) (hfree : s.recordFree r.sid) (qf : s.quiet .fault) :
    onlyReported (s.turnAway r) (s.blockIllegal r) ∧
      recorded (s.turnAway r) (s.blockIllegal r) (requestRecord s.caps r r.access 0 s.illegalReason) := by
  have hreason : (if s.latchedRt.ttm == 0 then Cond.lgn4 else Cond.sgn8_1).reason = s.illegalReason := by
    unfold State.illegalReason
    split <;> simp_all [Cond.reason]
  have hblock : s.blockIllegal r = s.block .untranslated r (if s.latchedRt.ttm == 0 then .lgn4 else .sgn8_1) false :=
    if_pos htes
  rw [← hreason, hblock, State.block, ← requestReport_record s r _ false, State.turnAway_eq]
  exact State.reportFault_recorded (Bool.and_false _) hfree qf

/-- Settles O51: each check of a request has its fault, and so has an illegal request to the interrupt range. -/
theorem interruptFaults : Obligations.InterruptFaults := by
  refine ⟨fun s sid addr data hposted quiet qf hfree hon hformat => ⟨fun ⟨hshv, hfield⟩ => ?_,
    fun idx hfield hidx hu => ⟨fun hbeyond => ?_, fun hlt hbelow hunreadable => ?_⟩,
    fun idx e reason hto hno => exec_of_irteRefuses hposted quiet qf hfree hto hno⟩,
    fun s r hwf hpasid hrange hzlr quiet => ?_⟩
  · obtain ⟨v, hv, hexec⟩ := exec_of_remappable (sid := sid) (data := data) hposted quiet hon hformat
    rw [State.remapInterrupt_of_reserved hshv hfield] at hexec
    exact ⟨v, _, _, hexec, hv, intFault_fresh_recorded hv hfree qf 0x20 _⟩
  · rcases Nat.lt_or_ge idx (2 ^ (s.latchedIr.size.toNat + 1)) with hlt | hge
    · obtain ⟨v, hv, hexec⟩ := exec_of_inTable hposted quiet hon hformat ⟨hfield, hidx, hlt⟩ hu sid
      rw [fetchEntry_of_beyondHaw hv (hbeyond.resolve_left (Nat.not_le.2 hlt))] at hexec
      exact ⟨v, _, hexec, hv, intFault_recorded_after hv hfree qf v.bus rfl 0x21 _⟩
    · obtain ⟨v, hv, hexec⟩ := exec_of_remappable (sid := sid) (data := data) hposted quiet hon hformat
      rw [State.remapInterrupt_of_beyondTable hfield hidx (latchedIr_of_onlyCounted hv ▸ hge)] at hexec
      exact ⟨v, _, hexec, hv, intFault_recorded_after hv hfree qf v.bus rfl 0x21 _⟩
  · obtain ⟨v, hv, hexec⟩ := exec_of_inTable hposted quiet hon hformat ⟨hfield, hidx, hlt⟩ hu sid
    obtain ⟨w, hw, hfault, -⟩ := fetchEntry_of_below hv quiet hbelow sid
    rw [hfault (if_neg (Bool.eq_false_iff.1 hunreadable))] at hexec
    exact ⟨w, _, hexec, hw, intFault_recorded_after hw hfree qf _ rfl 0x23 _⟩
  · obtain ⟨v, hv, hexec⟩ := exec_untranslatedRequest quiet r
    rw [State.handleUntranslated_of_interruptRange hpasid hrange, State.interruptRange_of_illegal hwf hpasid hrange hzlr]
      at hexec
    refine ⟨v, v.turnAway r, hv, v.turnAway_eq r, fun htes => ?_, fun htes qf hfree => ⟨_, hexec, ?_⟩⟩
    · rw [hexec, State.blockIllegal_of_off (gsts_of_onlyCounted hv ▸ htes)]
    · have heq := eq_counted_of_onlyCounted hv
      have hrec := State.blockIllegal_recorded (s := v) (gsts_of_onlyCounted hv ▸ htes) (by rw [heq]; exact hfree)
        (by rw [heq]; exact qf)
      rw [requestRecord_of_noPasid _ hpasid] at hrec
      have hreason : v.illegalReason = s.illegalReason := by rw [heq]; rfl
      rw [hreason, caps_of_onlyCounted hv] at hrec
      exact hrec

end Sys2Proof.Machine
end

section
/-! O55: raising an event and releasing its message (60 R1400, R1402). A message that is sent stores its DWORD where its address is
memory and no interrupt address (`State.storeMessage_stored`), and otherwise stores nothing (`State.storeMessage_of_silent`). -/

namespace Sys2Proof.Machine

variable {s : State} {e : EventName}

/-! ## The registers of an event -/

@[simp] theorem State.evRegs_setEvRegs (s : State) (e : EventName) (r : EventRegs) : (s.setEvRegs e r).evRegs e = r := by
  cases e <;> rfl

theorem State.setEvRegs_evRegs (s : State) (e : EventName) : s.setEvRegs e (s.evRegs e) = s := by
  cases e <;> rfl

@[simp] theorem State.setEvRegs_mem (s : State) (e : EventName) (r : EventRegs) : (s.setEvRegs e r).mem = s.mem := by
  cases e <;> rfl

@[simp] theorem State.setEvRegs_wbuf (s : State) (e : EventName) (r : EventRegs) : (s.setEvRegs e r).wbuf = s.wbuf := by
  cases e <;> rfl

@[simp] theorem State.setEvRegs_out (s : State) (e : EventName) (r : EventRegs) : (s.setEvRegs e r).out = s.out := by
  cases e <;> rfl

/-! ## The message -/

/-- The message goes nowhere in memory: its address is an interrupt address, or the write fails (60 R1400, log 26). -/
def State.silent (s : State) (r : EventRegs) : Prop := r.isInterrupt = true ∨ s.writable r.msgAddr.toNat 4 = false

theorem State.silent_iff {r : EventRegs} : s.silent r ↔ (!r.isInterrupt && s.writable r.msgAddr.toNat 4) = false := by
  rw [State.silent, Bool.and_eq_false_iff, Bool.not_eq_false']

theorem State.silent_of_quiet (h : s.quiet e) (him : (s.evRegs e).im = false) : s.silent (s.evRegs e) :=
  h.resolve_left (by simp [him])

theorem State.storeMessage_of_silent {r : EventRegs} (h : s.silent r) : s.storeMessage r = s :=
  if_neg (Bool.eq_false_iff.1 (State.silent_iff.1 h))

theorem State.storeMessage_of_heard {r : EventRegs} (h : ¬ s.silent r) :
    s.storeMessage r = s.memWrite r.msgAddr.toNat 4 r.msgData.toNat :=
  if_pos (Bool.eq_true_of_not_eq_false (mt State.silent_iff.2 h))

theorem EventRegs.msgData_toNat (r : EventRegs) : r.msgData.toNat = r.imd.toNat := by
  have hlt := r.imd.isLt
  rw [EventRegs.msgData, BitVec.toNat_setWidth]
  omega

/-- The DWORD of a message that is stored, behind the buffered software stores. -/
theorem State.storeMessage_stored {r : EventRegs} (h : ¬ s.silent r) (form : s.memoryForm) :
    readNat (s.storeMessage r).mem r.msgAddr.toNat 4 = r.imd.toNat ∧ sameOutside s (s.storeMessage r) r.msgAddr.toNat 4 := by
  have hlt := r.imd.isLt
  rw [State.storeMessage_of_heard h]
  refine ⟨?_, s.memWrite_sameOutside _ _ _⟩
  rw [State.memWrite_mem, readNat_writeNat (State.flush_memoryForm form), r.msgData_toNat]
  omega

/-- An event's registers replaced and its message sent. -/
theorem State.setEvRegs_sendInterrupt (s : State) (e : EventName) (r : EventRegs) :
    (s.setEvRegs e r).sendInterrupt e = { s.setEvRegs e r with
      mem := (s.storeMessage r).mem, wbuf := (s.storeMessage r).wbuf, out := .interrupt (r.message e) :: s.out } := by
  have hsilent : (s.setEvRegs e r).silent r ↔ s.silent r := by cases e <;> exact Iff.rfl
  unfold State.sendInterrupt
  simp only [State.evRegs_setEvRegs]
  by_cases h : s.silent r
  · rw [State.storeMessage_of_silent h, State.storeMessage_of_silent (hsilent.2 h)]
    cases e <;> rfl
  · rw [State.storeMessage_of_heard h, State.storeMessage_of_heard (mt hsilent.1 h)]
    cases e <;> rfl

/-! ## Raising -/

theorem State.raiseEvent_of_pending (s : State) (e : EventName) : s.raiseEvent e true = s := rfl

theorem State.raiseEvent_of_held (h : (s.evRegs e).im = true ∨ s.choice.hold = true) :
    s.raiseEvent e false = s.setEvRegs e { s.evRegs e with ip := true } :=
  if_pos (Bool.or_eq_true_iff.2 h)

theorem State.raiseEvent_of_sent (h : ¬ ((s.evRegs e).im = true ∨ s.choice.hold = true)) :
    s.raiseEvent e false = { s.setEvRegs e { s.evRegs e with ip := false } with
      mem := (s.storeMessage (s.evRegs e)).mem, wbuf := (s.storeMessage (s.evRegs e)).wbuf
      out := .interrupt ((s.evRegs e).message e) :: s.out } :=
  (if_neg (mt Bool.or_eq_true_iff.1 h)).trans (s.setEvRegs_sendInterrupt e _)

/-- What raising moves: the event's registers, the trace and, by the message, memory. -/
theorem State.raiseEvent_frame (s : State) (e : EventName) (was : Bool) :
    s.raiseEvent e was = { s.setEvRegs e ((s.raiseEvent e was).evRegs e) with
      mem := (s.raiseEvent e was).mem, wbuf := (s.raiseEvent e was).wbuf, out := (s.raiseEvent e was).out } := by
  cases was with
  | true => cases e <;> rfl
  | false =>
    by_cases h : (s.evRegs e).im = true ∨ s.choice.hold = true
    · rw [State.raiseEvent_of_held h]
      cases e <;> rfl
    · rw [State.raiseEvent_of_sent h]
      cases e <;> rfl

theorem State.raiseEvent_raised (s : State) (e : EventName) (was : Bool) : raised s (s.raiseEvent e was) e was := by
  unfold raised
  cases was with
  | true => exact ⟨rfl, rfl⟩
  | false =>
    rw [if_neg Bool.false_ne_true]
    split
    next h =>
      rw [State.raiseEvent_of_held h]
      exact ⟨s.evRegs_setEvRegs e _, s.setEvRegs_out e _⟩
    next h =>
      rw [State.raiseEvent_of_sent h]
      exact ⟨by cases e <;> rfl, rfl⟩

theorem State.raiseEvent_keepsMemory {was : Bool} (h : was = true ∨ s.choice.hold = true ∨ s.quiet e) :
    (s.raiseEvent e was).mem = s.mem ∧ (s.raiseEvent e was).wbuf = s.wbuf := by
  cases was with
  | true => exact ⟨rfl, rfl⟩
  | false =>
    by_cases hheld : (s.evRegs e).im = true ∨ s.choice.hold = true
    · rw [State.raiseEvent_of_held hheld]
      exact ⟨s.setEvRegs_mem e _, s.setEvRegs_wbuf e _⟩
    · obtain ⟨him, hhold⟩ := not_or.1 hheld
      have hquiet : s.quiet e := (h.resolve_left Bool.false_ne_true).resolve_left hhold
      rw [State.raiseEvent_of_sent hheld,
        State.storeMessage_of_silent (State.silent_of_quiet hquiet (Bool.eq_false_iff.2 him))]
      exact ⟨rfl, rfl⟩

theorem State.raiseEvent_stores (hhold : s.choice.hold = false) (h : ¬ s.quiet e) (form : s.memoryForm) :
    readNat (s.raiseEvent e false).mem (s.evRegs e).msgAddr.toNat 4 = (s.evRegs e).imd.toNat ∧
      sameOutside s (s.raiseEvent e false) (s.evRegs e).msgAddr.toNat 4 := by
  obtain ⟨him, hheard⟩ := not_or.1 h
  rw [State.raiseEvent_of_sent (not_or.2 ⟨him, Bool.eq_false_iff.1 hhold⟩)]
  exact State.storeMessage_stored hheard form

/-! ## The control register -/

/-- Software clears IM while a message is held, and nothing holds it any longer (60 R1402). -/
def State.releases (s : State) (e : EventName) (im : Bool) : Prop :=
  (s.evRegs e).im = true ∧ im = false ∧ (s.evRegs e).ip = true ∧ s.choice.hold = false

theorem State.writeIm_of_released {im : Bool} (h : s.releases e im) :
    s.writeIm e im = { s.setEvRegs e { s.evRegs e with im := false, ip := false } with
      mem := (s.storeMessage (s.evRegs e)).mem, wbuf := (s.storeMessage (s.evRegs e)).wbuf
      out := .interrupt ((s.evRegs e).message e) :: s.out } := by
  obtain ⟨him, rfl, hip, hhold⟩ := h
  exact (if_pos (by simp [him, hip, hhold])).trans (s.setEvRegs_sendInterrupt e _)

theorem State.writeIm_of_kept {im : Bool} (h : ¬ s.releases e im) :
    s.writeIm e im = s.setEvRegs e { s.evRegs e with im := im } :=
  if_neg fun hsend => h (by simpa [State.releases, and_assoc] using hsend)

theorem EventName.controlOffset_plainAt (hivt : s.iotlbReg.ivt = false) : s.plainAt e.controlOffset := by
  refine ⟨by cases e <;> decide, ?_, fun _ _ => hivt⟩
  cases e <;> simp only [EventName.controlOffset] <;> omega

/-- A doubleword write to the control register of an event is a write of IM (11 R255). -/
theorem State.softWrite_control (hpages : 0 < s.plat.regPages) (hivt : s.iotlbReg.ivt = false)
    (hfixed : fixedAt s e.controlOffset = true) (v : BitVec 64) :
    s.softWrite e.controlOffset 4 v = .next (s.writeIm e (bitAt v 31)) := by
  have halign : e.controlOffset / 8 * 8 = e.controlOffset := by cases e <;> rfl
  rw [State.softWrite_dword (by cases e <;> rfl) (Platform.lt_regBytes hpages (by cases e <;> decide))
      (EventName.controlOffset_plainAt hivt), State.writePlain_fixed (halign.symm ▸ hfixed), ← bitAt_loWord v (by decide)]
  cases e <;> rfl

/-- Settles O55: an event is raised by its cases, pending, held and sent, and a write of its control register either releases the
message or moves IM alone. -/
theorem eventRaised : Obligations.EventRaised := by
  refine ⟨fun s e was => ⟨s.raiseEvent_raised e was, s.raiseEvent_frame e was, State.raiseEvent_keepsMemory, ?_⟩,
    fun s u c e v h hpages hivt hfixed => ⟨u.writeIm e (bitAt v 31),
      (step_of_nextEvent h).trans (State.softWrite_control hpages hivt hfixed v), fun hrelease => ?_, State.writeIm_of_kept⟩⟩
  · rintro rfl hhold hloud form
    exact State.raiseEvent_stores hhold hloud form
  · rw [State.writeIm_of_released hrelease]
    refine ⟨rfl, fun hsilent => ?_, fun hint hwritable form => ?_⟩
    · rw [State.storeMessage_of_silent hsilent]
      exact ⟨rfl, rfl⟩
    · exact State.storeMessage_stored (not_or.2 ⟨by simp [hint], by simp [hwritable]⟩) form

end Sys2Proof.Machine
end

section
/-! O56 and O58: a fault report by its cases (60 R1331, R1370), and one occurrence at one counter (46 R1244, R1255). -/

namespace Sys2Proof.Machine

variable {s : State}

/-! ## Fault reports -/

/-- A report goes unrecorded: FPD, where it counts, an overflow that is pending, or compression keep it so (60 R1331, R1370). -/
def State.suppresses (s : State) (r : FaultReport) : Prop :=
  (r.qualified = true ∧ r.fpd = true) ∨ s.fsts.pfo = true ∨
    (s.plat.faultCompression = true ∧ ∃ x ∈ s.frcd, x.f = true ∧ x.sid = r.sid)

theorem State.compresses_iff {r : FaultReport} :
    (s.plat.faultCompression && s.frcd.any (fun x => x.f && x.sid == r.sid)) = true ↔
      s.plat.faultCompression = true ∧ ∃ x ∈ s.frcd, x.f = true ∧ x.sid = r.sid := by
  simp

theorem State.reportFault_of_suppresses {r : FaultReport} (h : s.suppresses r) : s.reportFault r = s := by
  unfold State.reportFault
  obtain hfpd | hpfo | hcompress := h
  · exact if_pos (Bool.and_eq_true_iff.2 hfpd)
  · rw [if_pos hpfo, ite_self]
  · rw [if_pos (State.compresses_iff.2 hcompress), ite_self, ite_self]

/-- The record at the index is still in use: the fault overflows (60 R1370). -/
theorem State.reportFault_of_occupied {r : FaultReport} (h : ¬ s.suppresses r) {old : Frcd} (hold : s.frcd[s.faultIdx]? = some old)
    (hf : old.f = true) : s.reportFault r = { s with fsts := { s.fsts with pfo := true } } := by
  obtain ⟨hfpd, hpfo, hcompress⟩ : ¬ _ ∧ ¬ _ ∧ ¬ _ := by simpa only [State.suppresses, not_or] using h
  unfold State.reportFault
  rw [if_neg (mt Bool.and_eq_true_iff.1 hfpd), if_neg hpfo, if_neg (mt State.compresses_iff.1 hcompress), hold]
  exact if_pos hf

theorem State.recordFree_of_not_suppresses {r : FaultReport} (h : ¬ s.suppresses r) {old : Frcd}
    (hold : s.frcd[s.faultIdx]? = some old) (hf : old.f = false) : s.recordFree r.sid := by
  obtain ⟨-, hpfo, hcompress⟩ : ¬ _ ∧ ¬ _ ∧ ¬ _ := by simpa only [State.suppresses, not_or] using h
  exact ⟨Bool.eq_false_iff.2 hpfo, ⟨old, hold, hf⟩, fun hc x hx hxf hsid => hcompress ⟨hc, x, hx, hxf, hsid⟩⟩

/-- Settles O56: a report is suppressed, overflows, or is recorded. -/
theorem faultReported : Obligations.FaultReported := by
  intro s r quiet
  refine ⟨State.reportFault_of_suppresses, fun h => ⟨fun old hold hf => State.reportFault_of_occupied h hold hf,
    fun old hold hf => State.reportFault_recorded ?_ (State.recordFree_of_not_suppresses h hold hf) quiet⟩⟩
  exact Bool.eq_false_iff.2 fun hfpd => h (.inl (Bool.and_eq_true_iff.1 hfpd))

/-! ## Counters -/

/-- The counter counts the occurrence (46 R1244): it is enabled and not frozen, selects the event and lets it pass its filters. -/
def PerfCounter.takes (p : PerfCounter) (o : Occurrence) : Prop :=
  p.en = true ∧ p.frozen = false ∧ p.egi.toNat = o.group ∧ bitAt p.es o.event = true ∧ filterPass p o = true

/-- The counters that ask for it freeze, once one of them overflows (46 R1255). -/
def State.freezeIf (s : State) (b : Bool) : State :=
  { s with perf := { s.perf with counters := s.perf.counters.map (fun q => if b then { q with frozen := true } else q) } }

theorem State.ite_freezeAll (s : State) (b : Bool) : (if b then s.freezeAll true else s) = s.freezeIf b := by
  cases b with
  | true => rfl
  | false => simp [State.freezeIf]

theorem State.countAt_of_takes {k : Nat} {p : PerfCounter} (hp : s.perf.counters[k]? = some p) {o : Occurrence} (h : p.takes o) :
    s.countAt o k =
      (let t := s.setCounter k (p.bump o (s.caps.counterWidth k))
       let t := if p.overflows o (s.caps.counterWidth k) && p.io then t.perfmonEvent else t
       if p.overflows o (s.caps.counterWidth k) && p.gfo then t.freezeAll true else t) := by
  obtain ⟨hen, hfrozen, hgroup, hevent, hfilter⟩ := h
  unfold State.countAt
  rw [hp]
  exact if_pos (by simp [hen, hfrozen, hgroup, hevent, hfilter])

theorem State.countAt_of_room {k : Nat} {p : PerfCounter} (hp : s.perf.counters[k]? = some p) {o : Occurrence} (h : p.takes o)
    (hroom : p.value.toNat + o.amount < 2 ^ s.caps.counterWidth k) :
    s.countAt o k = s.setCounter k { p with value := BitVec.ofNat 64 (p.value.toNat + o.amount) } := by
  have hno : p.overflows o (s.caps.counterWidth k) = false := by simpa [PerfCounter.overflows] using hroom
  simp [State.countAt_of_takes hp h, hno, PerfCounter.bump, Nat.mod_eq_of_lt hroom]

/-- A counter of `n` bits past its end (46 R1255). -/
def PerfCounter.wrapped (p : PerfCounter) (o : Occurrence) (n : Nat) : PerfCounter :=
  { p with value := BitVec.ofNat 64 ((p.value.toNat + o.amount) % 2 ^ n), overflow := true }

theorem State.countAt_of_overflow {k : Nat} {p : PerfCounter} (hp : s.perf.counters[k]? = some p) {o : Occurrence} (h : p.takes o)
    (hover : 2 ^ s.caps.counterWidth k ≤ p.value.toNat + o.amount) :
    s.countAt o k =
      (let t := s.setCounter k (p.wrapped o (s.caps.counterWidth k))
       (if p.io then t.perfmonEvent else t).freezeIf p.gfo) := by
  have hyes : p.overflows o (s.caps.counterWidth k) = true := by simpa [PerfCounter.overflows] using hover
  simp only [State.countAt_of_takes hp h, hyes, Bool.true_and, State.ite_freezeAll, PerfCounter.bump, PerfCounter.wrapped, Bool.or_true]

/-- The perfmon event on a quiet event: PIS, the event's registers and the trace (60 R1418). -/
theorem State.perfmonEvent_raised (quiet : s.quiet .perf) :
    ∃ r o, s.perfmonEvent = { s with perf := { s.perf with pis := true }, perfEv := r, out := o } ∧
      raised s s.perfmonEvent .perf s.perf.pis := by
  obtain ⟨r, o, hevent, hraised⟩ := State.raiseEvent_quiet { s with perf := { s.perf with pis := true } } .perf s.perf.pis quiet
  refine ⟨r, o, hevent, ?_⟩
  rw [State.perfmonEvent, hevent]
  exact hraised

/-- Settles O58: below the end of the counter the value alone moves; past it the counter wraps, and what it asks for follows. -/
theorem counterCounts : Obligations.CounterCounts := by
  intro s o k p hp hen hfrozen hgroup hevent hfilter quiet
  have htakes : p.takes o := ⟨hen, hfrozen, hgroup, hevent, hfilter⟩
  refine ⟨State.countAt_of_room hp htakes, fun hover => ⟨_, State.countAt_of_overflow hp htakes hover, ?_⟩⟩
  by_cases hio : p.io = true
  · obtain ⟨r, out, hperf, hraised⟩ :=
      State.perfmonEvent_raised (s := s.setCounter k (p.wrapped o (s.caps.counterWidth k))) quiet
    rw [hperf] at hraised
    simp only [if_pos hio, hperf]
    exact ⟨rfl, rfl, rfl, hraised⟩
  · simp only [if_neg hio]
    exact ⟨rfl, rfl, rfl, rfl, rfl⟩

end Sys2Proof.Machine
end

section
/-! O9 and O59: the state after reset, and what a later reset keeps (70 R1450, R1451). -/

namespace Sys2Proof.Machine

/-! ## The invariant after reset -/

theorem State.reset_recordForm : State.reset.recordForm := ⟨by decide, by decide, by decide⟩

theorem State.reset_tagForm : State.reset.tagForm :=
  ⟨List.nodup_nil, nofun, fun _ => ⟨nofun, nofun⟩⟩

/-- Every counter starts at 0, below the width of any counter. -/
theorem State.reset_counters {k : Nat} {p : PerfCounter} (h : State.reset.perf.counters[k]? = some p) : p = PerfCounter.reset :=
  List.eq_of_mem_replicate (List.mem_of_getElem? h)

theorem State.reset_reservedForm : State.reset.reservedForm := by
  refine ⟨fun _ => rfl, fun _ => rfl, fun heime => absurd heime Bool.false_ne_true, fun heime => absurd heime Bool.false_ne_true,
    fun q hq => absurd hq List.not_mem_nil, clearLow_zero _, clearLow_zero _, clearLow_zero _, clearLow_zero _, fun k p hp => ?_⟩
  obtain rfl := State.reset_counters hp
  exact Nat.two_pow_pos _

theorem State.reset_pasidForm : State.reset.pasidForm :=
  (by decide : (State.reset.vcmd.free ++ State.reset.vcmd.allocated).Nodup)

theorem State.reset_inv : State.reset.Inv :=
  ⟨State.reset_memoryForm, State.reset_recordForm, State.reset_tagForm, State.reset_reservedForm, State.reset_pasidForm⟩

/-- Every event has the registers of reset, masked. -/
theorem State.reset_evRegs (e : EventName) : State.reset.evRegs e = EventRegs.reset := by
  cases e <;> rfl

/-- Settles O9: the invariant form by form, and each register read out. -/
theorem resetState : Obligations.ResetState := by
  refine ⟨State.reset_inv, by decide, by decide, by decide, by decide, by decide, by decide, by decide, fun e => ?_, fun x hx => ?_,
    rfl, rfl, rfl⟩
  · rw [State.reset_evRegs]
    decide
  · obtain rfl : x = Frcd.reset := List.eq_of_mem_replicate (n := 2) hx
    rfl

/-! ## A later reset -/

/-- A reset that is no Power Good Reset takes the sticky fields over (70 R1451). -/
theorem State.resetUnit_sticky (s : State) :
    (s.resetUnit false).fsts = s.fsts ∧ (s.resetUnit false).frcd = s.frcd ∧ (s.resetUnit false).iwc = s.iwc ∧
      (s.resetUnit false).iqercd = s.iqercd ∧ (s.resetUnit false).prq.pro = s.prq.pro ∧
      (s.resetUnit false).prq.ppr = s.prq.ppr :=
  ⟨rfl, rfl, rfl, rfl, rfl, rfl⟩

/-- A Power Good Reset clears them with the rest (70 R1451). -/
theorem State.resetUnit_powerGood (s : State) :
    (s.resetUnit true).fsts = State.reset.fsts ∧ (s.resetUnit true).frcd = List.replicate s.frcd.length Frcd.reset ∧
      (s.resetUnit true).iwc = false ∧ (s.resetUnit true).iqercd = State.reset.iqercd ∧
      (s.resetUnit true).prq.pro = false ∧ (s.resetUnit true).prq.ppr = false :=
  ⟨rfl, rfl, rfl, rfl, rfl, rfl⟩

theorem State.resetUnit_evRegs (s : State) (pg : Bool) (e : EventName) : (s.resetUnit pg).evRegs e = State.reset.evRegs e := by
  cases e <;> rfl

/-- Settles O59: every field but the sticky ones is that of reset, whatever the kind of the reset. -/
theorem stickyFieldsSurvive : Obligations.StickyFieldsSurvive := by
  intro s u c pg h
  refine ⟨u.resetUnit pg, step_of_nextEvent h, rfl, rfl, rfl, rfl, rfl, rfl, rfl, rfl, rfl, rfl, rfl, rfl, rfl,
    u.resetUnit_evRegs pg, rfl, rfl, rfl, rfl, rfl, rfl, rfl, rfl, rfl, rfl, rfl, rfl, rfl, ?_, ?_⟩
  · rintro rfl
    exact u.resetUnit_sticky
  · rintro rfl
    exact u.resetUnit_powerGood

end Sys2Proof.Machine
end

section
/-! O54 and O19: a page-request descriptor written to its queue (45 R1185), and a page group response sent (45 R1195). -/

namespace Sys2Proof.Machine

variable {s : State}

/-! ## The page request queue -/

/-- The write fails, and the descriptor is lost (log 34). -/
theorem State.writePrq_of_lost (h : s.writable s.prqAddr 32 = false) (d : PageMsg) :
    s.writePrq d = { s with bus := s.prqAccess :: s.bus } :=
  if_neg (Bool.eq_false_iff.1 h)

/-- A coherent write of the unit shows on the bus and moves the memory and the write buffer. -/
theorem State.memWrite_access_frame (s : State) (k : BusKind) (a n v : Nat) (snoop : Bool) :
    (s.access k a n snoop).memWrite a n v = { s with
      bus := { kind := k, addr := a, size := n, snoop := snoop, mt := .wb } :: s.bus
      mem := ((s.access k a n snoop).memWrite a n v).mem, wbuf := [] } := rfl

/-- The descriptor stands in memory, behind the buffered software stores; nothing of it is delivered yet. -/
def State.prqStored (s : State) (d : PageMsg) : State :=
  (s.access .write s.prqAddr 32 true).memWrite s.prqAddr 32 (encodePrq d).toNat

theorem State.prqStored_eq (s : State) (d : PageMsg) :
    s.prqStored d = { s with bus := s.prqAccess :: s.bus, mem := (s.prqStored d).mem, wbuf := [] } :=
  s.memWrite_access_frame .write s.prqAddr 32 (encodePrq d).toNat true

theorem State.prqStored_readNat (form : s.memoryForm) (d : PageMsg) :
    readNat (s.prqStored d).mem s.prqAddr 32 = (encodePrq d).toNat := by
  have hlt : (encodePrq d).toNat < 256 ^ 32 := (encodePrq d).isLt
  rw [State.prqStored, State.memWrite_mem, readNat_writeNat (State.flush_memoryForm (s := s.access _ _ _ _) form),
    Nat.mod_eq_of_lt hlt]

theorem State.prqStored_sameOutside (s : State) (d : PageMsg) : sameOutside s (s.prqStored d) s.prqAddr 32 :=
  (s.access .write s.prqAddr 32 true).memWrite_sameOutside _ _ _

/-- The occurrence of a descriptor delivered (46 R1242). -/
def prqOccurrence (d : PageMsg) : Occurrence := ⟨1, 6, d.rid, none, if d.pp then some d.pasid else none, 3, none, 1⟩

theorem State.writePrq_of_writable (h : s.writable s.prqAddr 32 = true) (d : PageMsg) :
    s.writePrq d = (s.prqStored d).prqDelivered.count (prqOccurrence d) :=
  if_pos h

/-- Delivery on a quiet page request event moves the tail, PPR, the event's registers and the trace. -/
theorem State.prqDelivered_raised (quiet : s.quiet .page) :
    ∃ r o, s.prqDelivered = { s with
        prq := { s.prq with pqt := BitVec.ofNat 14 ((s.prq.pqt.toNat + 1) % s.prqSize), ppr := true }, pageEv := r, out := o } ∧
      raised s s.prqDelivered .page (s.prq.ppr || s.prq.pro) := by
  obtain ⟨r, o, hevent, hraised⟩ := State.raiseEvent_quiet { s with
    prq := { s.prq with pqt := BitVec.ofNat 14 ((s.prq.pqt.toNat + 1) % s.prqSize), ppr := true } } .page
    (s.prq.ppr || s.prq.pro) quiet
  refine ⟨r, o, hevent, ?_⟩
  rw [State.prqDelivered, hevent]
  exact hraised

/-- The memory is as it was before the delivery. -/
theorem State.prqDelivered_mem (quiet : s.quiet .page) : s.prqDelivered.mem = s.mem := by
  obtain ⟨_, _, hdelivered, -⟩ := State.prqDelivered_raised quiet
  rw [hdelivered]

theorem State.prqDelivered_quiet (quiet : s.quiet .page) (qp : s.quiet .perf) : s.prqDelivered.quiet .perf := by
  obtain ⟨_, _, hdelivered, -⟩ := State.prqDelivered_raised quiet
  rw [hdelivered]
  exact State.quiet_congr s _ .perf rfl rfl rfl qp

/-- A range is kept outside whatever else than the memory a state holds. -/
theorem sameOutside_congr {s t u : State} {lo n : Nat} (h : sameOutside s t lo n) (hmem : u.mem = t.mem) :
    sameOutside s u lo n := by
  intro a ha
  obtain ⟨hkept, hlands⟩ := h a ha
  exact ⟨hmem ▸ hkept, hmem ▸ hlands⟩

/-- A descriptor that stands in memory (`w`) is delivered: its tail, PPR and the event, and all else as before. -/
theorem prqWritten_of_stored {w t : State} {m : List Host.Cell} {d : PageMsg}
    (hw : w = { s with bus := s.prqAccess :: s.bus, mem := m, wbuf := [] }) (quiet : s.quiet .page) (qp : s.quiet .perf)
    (hread : readNat w.mem s.prqAddr 32 = (encodePrq d).toNat) (houtside : sameOutside s w s.prqAddr 32)
    (ht : t = w.prqDelivered.count (prqOccurrence d)) : prqWritten s t d := by
  have hmem : w.prqDelivered.mem = w.mem := State.prqDelivered_mem (by rw [hw]; exact quiet)
  have hcounted : onlyCounted w.prqDelivered t := by
    rw [ht]
    exact State.count_only _ _ (State.prqDelivered_quiet (by rw [hw]; exact quiet) (by rw [hw]; exact qp))
  refine ⟨w.prqDelivered, ?frame, hmem ▸ hread, sameOutside_congr houtside hmem, ?raised, hcounted⟩
  all_goals
    obtain ⟨r, o, hdelivered, hraised⟩ := State.prqDelivered_raised (s := w) (by rw [hw]; exact quiet)
    subst hw
  case frame => exact hdelivered ▸ rfl
  case raised => exact hraised

/-- The write succeeds: the descriptor stands at the tail and is delivered. -/
theorem State.writePrq_prqWritten (h : s.writable s.prqAddr 32 = true) (form : s.memoryForm) (qp : s.quiet .perf)
    (quiet : s.quiet .page) (d : PageMsg) : prqWritten s (s.writePrq d) d :=
  prqWritten_of_stored (s.prqStored_eq d) quiet qp (State.prqStored_readNat form d) (s.prqStored_sameOutside d)
    (State.writePrq_of_writable h d)

/-- Settles O54: page_req_dsc is the write of its descriptor. -/
theorem pageDescriptorWritten : Obligations.PageDescriptorWritten := fun _ m qp quiet =>
  ⟨fun h form => ⟨_, rfl, State.writePrq_prqWritten h form qp quiet m⟩,
    fun h => congrArg Host.Outcome.next (State.writePrq_of_lost h m)⟩

/-! ## Page group responses -/

/-- A response behind Device-TLB invalidations that have been sent goes at once. -/
theorem State.pend_responds (ahead : s.onlySent) (p : PageResp) :
    s.pend (.resp p) = { s with out := .pageResp p :: s.out } := by
  rw [State.pend_eq ahead, advancePend, ahead.not_unsent, if_neg Bool.false_ne_true, advancePend]
  rfl

/-- Settles O19: the descriptor passes its checks, and its response goes. -/
theorem pageGroupResponse : Obligations.PageGroupResponse := by
  intro s pp rc rid pasid prgi mode ahead
  have valid : dscTypeValid s 9 = true := dscTypeValid_iff.2 (by simpa using mode)
  exact congrArg Host.Outcome.next ((s.runDsc_valid 9 false _ valid rfl).trans
    (State.pend_responds (s := { s with iq := s.movedHead }) ahead _))

end Sys2Proof.Machine
end

section
/-! The tables of a page request (45 R1175): the walk in stages, where it leads, and where it is refused. -/

namespace Sys2Proof.Machine

variable {α : Type} {s : State} {m : PageMsg}

/-! ## The walk in stages -/

/-- The PASID-table entry of a PASID is found and checked, and then followed. -/
def pasidThen (s : State) (sid : SourceId) (pasid : Pasid) (ce : BitVec 256) (rest : BitVec 512 → Walk α) : Walk α := do
  let pe ← pasidFetch s sid pasid ce
  pasidChecks s sid pasid pe
  rest pe

/-- What a page request takes from its PASID-table entry: PGTT, Domain ID and PASID. -/
def pageEntry (m : PageMsg) (pasid : Pasid) (pe : BitVec 512) : Walk (BitVec 3 × DomainId × Pasid) := do
  keepPasid m.rid pasid pe
  modify fun t => { t with did := some (peDid pe) }
  pure (pePgtt pe, peDid pe, pasid)

/-- The PASID under which a page request looks its tables up. -/
def pagePasidOf (s : State) (m : PageMsg) (ce : BitVec 256) : Pasid := if m.pp then m.pasid else smRidPasid s.caps ce

/-- A page request behind the checks of its context entry. -/
def pageRest (s : State) (m : PageMsg) (ce : BitVec 256) : Walk (BitVec 3 × DomainId × Pasid) := do
  check (!smPre ce) .sct8
  if m.pp then do
    check (!smPaside ce) .sct6
    check (s.caps.rps && m.pasid == smRidPasid s.caps ce) .sct9
  pasidThen s m.rid (pagePasidOf s m ce) ce (pageEntry m (pagePasidOf s m ce))

theorem prLookup_leads (hon : s.scalableOn) (m : PageMsg) :
    leadsN (prLookup s m) (contextThen s m.rid (!m.pp) (pageRest s m)) Trail.empty.seen false Trail.empty.seen false := by
  obtain ⟨hmode, hscal⟩ := modeFault_of_scalableOn hon
  unfold prLookup
  refine ((finds_checkMode hmode).unseenN (keepsN_checkMode s) _ _).leads ?_
  exact (checkedN (by simp [hscal]) .rta3 _ _).leads (leadsN_refl _ _ _)

theorem prLookup_leads_pageRest (hon : s.scalableOn) (huse : s.choice.use = []) {ca : Addr} {ce : BitVec 256}
    (hce : s.scalableContext m.rid ca ce) (hrid : ridSupported s (!m.pp) ce) :
    leadsN (prLookup s m) (pageRest s m ce) Trail.empty.seen false (s.contextSeen m.rid ca ce) false :=
  (prLookup_leads hon m).trans (contextThen_leads huse hce hrid _)

theorem pagePasidOf_of_pagePasid {ce : BitVec 256} {pasid : Pasid} (h : s.pagePasid m ce pasid) : pagePasidOf s m ce = pasid := by
  unfold State.pagePasid at h
  unfold pagePasidOf
  split at h
  case isTrue hpp => rw [if_pos hpp, h.1]
  case isFalse hpp => rw [if_neg hpp, h.1]

theorem ridSupported_of_pagePasid {ce : BitVec 256} {pasid : Pasid} (h : s.pagePasid m ce pasid) :
    ridSupported s (!m.pp) ce := by
  intro hno
  have hpp : m.pp = false := by simpa using hno
  obtain ⟨rfl, hwidth⟩ : pasid = smRidPasid s.caps ce ∧ pasid.toNat < 2 ^ s.caps.pssBits := by
    simpa [State.pagePasid, hpp] using h
  exact hwidth

theorem pageRest_leads {ce : BitVec 256} {pasid : Pasid} (hpre : smPre ce = true) (h : s.pagePasid m ce pasid) (x : Seen)
    (n : Bool) : leadsN (pageRest s m ce) (pasidThen s m.rid pasid ce (pageEntry m pasid)) x n x n := by
  rw [← pagePasidOf_of_pagePasid h]
  unfold pageRest
  refine (checkedN (by simp [hpre]) .sct8 x n).leads ?_
  cases hpp : m.pp with
  | false => exact leadsN_refl _ _ _
  | true =>
    obtain ⟨-, hpaside, hrid⟩ : pasid = m.pasid ∧ smPaside ce = true ∧
        ¬ (s.caps.rps = true ∧ m.pasid = smRidPasid s.caps ce) := by simpa [State.pagePasid, hpp] using h
    refine (checkedN (by simp [hpaside]) .sct6 x n).leads ?_
    exact (checkedN (by simpa using hrid) .sct9 x n).leads (leadsN_refl _ _ _)

/-! ## The PASID-table entry that the tables lead to -/

theorem pasidThen_leads (huse : s.choice.use = []) {sid : SourceId} {ca da pa : Addr} {ce : BitVec 256} {pasid : Pasid}
    {pe : BitVec 512} (h : s.scalablePasid ce pasid da pa pe) (rest : BitVec 512 → Walk α) :
    leadsN (pasidThen s sid pasid ce rest) (rest pe) (s.contextSeen sid ca ce) false (s.tablesSeen sid ca da pa ce pe) false := by
  obtain ⟨d, hd, ht, hpe, hpresent, hrsvd, hprog⟩ := h
  unfold pasidThen
  refine ((yields_pasidFetch huse hd ht hpe sid _).keeping (keepsN_pasidFetch _ _ _ _) _).leads ?_
  refine ((yields_pasidChecks (finds_pasidEntryChecks hpresent hrsvd hprog) sid pasid _).keeping
    (keepsN_pasidChecks _ _ _ _) _).leads ?_
  have hseen : ((((s.contextSeen sid ca ce).reads [busRead da.toNat 8 s.caps.c]).meets (bitAt d 1)).reads
      [busRead pa.toNat 64 s.caps.c]).meets (peFpd pe) = s.tablesSeen sid ca da pa ce pe := by
    obtain ⟨-, -, hread⟩ := hd
    simp [State.contextSeen, State.tablesSeen, Seen.reads, Seen.meets, State.tableReads, State.fpdMet,
      State.directoryFpd_of_read hread]
  rw [hseen]
  exact leadsN_refl _ _ _

theorem pageEntry_yields (m : PageMsg) (pasid : Pasid) (pe : BitVec 512) (x : Seen) (n : Bool) :
    yieldsN (pageEntry m pasid pe) (pePgtt pe, peDid pe, pasid) x n x n :=
  ((finds_keepPasid m.rid pasid pe).unseenN (keepsN_keepPasid _ _ _) x n).bind
    (((finds_noteDid (peDid pe)).unseenN (keepsN_noteDid _) x n).bind
      ((finds_pure (pePgtt pe, peDid pe, pasid)).unseenN (keepsN_pure _) x n))

/-- The tables lead to the PASID-table entry. -/
theorem prLookup_found {ca da pa : Addr} {pasid : Pasid} {pe : BitVec 512} (h : s.pageLookup m ca da pa pasid pe) :
    ∃ ce, foundWith (prLookup s m) (pePgtt pe, peDid pe, pasid) (s.tablesSeen m.rid ca da pa ce pe) false := by
  obtain ⟨hon, ⟨huse, -⟩, ce, hce, hpre, hpasid, hpe⟩ := h
  refine ⟨ce, (prLookup_leads_pageRest hon huse hce (ridSupported_of_pagePasid hpasid)).yields ?_⟩
  refine (pageRest_leads hpre hpasid _ _).yields ?_
  exact (pasidThen_leads huse hpe _).yields (pageEntry_yields m pasid pe _ _)

/-! ## The PASID directory and table refuse -/

/-- What the walk makes of a PASID-directory entry. -/
def directoryRest (s : State) (pasid : Pasid) (d : BitVec 64) : Walk (BitVec 512) := do
  check (!bitAt d 0) .spd2
  check (pdeRsvd s.plat.haw d) .spd3
  let p ← fetch s (entryAddr (addrField d 0 12 s.plat.haw) 64 (pasid.toNat % 64)) 64 s.caps.c .spt1
  pure (BitVec.ofNat 512 p)

/-- A directory entry that is not present, has reserved bits set, or leads to a table that cannot be read. -/
theorem faults_pasidTables {pasid : Pasid} {ce : BitVec 256} {da : Addr} {d : BitVec 64} (hd : s.pasidDirectory ce pasid da d)
    {c : Cond} {l : List UnitAccess} (h : stops (directoryRest s pasid d) c l) (x : Seen) :
    faults (pasidTables s pasid ce) c x (l ++ busRead da.toNat 8 s.caps.c :: x.bus) (x.fpd || bitAt d 1) := by
  obtain ⟨-, rfl, hread⟩ := hd
  unfold pasidTables
  refine ((finds_fetch hread s.caps.c .spd1).yields x).bind_faults ?_
  rw [BitVec.ofNat_toNat, BitVec.setWidth_eq]
  refine (yields_meet (bitAt d 1) _).bind_faults ?_
  exact h _

section
variable (huse : s.choice.use = []) {sid : SourceId} {ca : Addr} {ce : BitVec 256} {pasid : Pasid}
include huse

theorem pasidThen_of_tables {c : Cond} {bus : List UnitAccess} {b : Bool} {x : Seen}
    (hreach : pasid.toNat / 64 < 2 ^ (smPdts ce + 7)) (h : faults (pasidTables s pasid ce) c x bus b)
    (rest : BitVec 512 → Walk α) (n : Bool) : faultsN (pasidThen s sid pasid ce rest) c x n bus b n :=
  (((pasidFetch_leads huse hreach sid x).faults ((pasidMarked_alike sid pasid 0 _).faults h)).keeping
    (keepsN_pasidFetch _ _ _ _) n).bind _

/-- A PASID-directory entry that leads nowhere: it fails behind the read of it, and counts its FPD bit. -/
theorem pasidThen_of_directory {da : Addr} {d : BitVec 64} (hd : s.pasidDirectory ce pasid da d) {c : Cond} {l : List UnitAccess}
    (h : stops (directoryRest s pasid d) c l) (rest : BitVec 512 → Walk α) :
    faultsN (pasidThen s sid pasid ce rest) c (s.contextSeen sid ca ce) false
      (l ++ busRead da.toNat 8 s.caps.c :: s.contextReads sid ca) (ceFpd ce || bitAt d 1) false := by
  have hreach : pasid.toNat / 64 < 2 ^ (smPdts ce + 7) := by
    obtain ⟨hreach, -⟩ := hd
    exact hreach
  refine pasidThen_of_tables huse hreach ?_ rest false
  simpa using faults_pasidTables hd h (s.contextSeen sid ca ce)

/-- A PASID-table entry that cannot be used: it fails behind the read of it, and counts every FPD bit. -/
theorem pasidThen_of_entry {da pa : Addr} {d : BitVec 64} {pe : BitVec 512} (hd : s.pasidDirectory ce pasid da d)
    (ht : s.pasidTable d pasid pa) (hpe : s.memRead pa.toNat 64 = some pe.toNat) {c : Cond}
    (h : stops (pasidEntryChecks s pe) c []) (rest : BitVec 512 → Walk α) :
    faultsN (pasidThen s sid pasid ce rest) c (s.contextSeen sid ca ce) false (s.tableReads sid ca da pa) (s.fpdMet ce da pe)
      false := by
  refine ((yields_pasidFetch huse hd ht hpe sid _).keeping (keepsN_pasidFetch _ _ _ _) _).bind_faults (faultsN.bind ?_ _)
  obtain ⟨-, -, hread⟩ := hd
  simpa [State.tableReads, State.fpdMet, State.directoryFpd_of_read hread] using
    (faults_pasidChecks h sid pasid ((((s.contextSeen sid ca ce).reads [busRead da.toNat 8 s.caps.c]).meets
      (bitAt d 1)).reads [busRead pa.toNat 64 s.caps.c])).keeping (keepsN_pasidChecks _ _ _ _) false

/-- The PASID directory and table refuse a PASID, whatever the kind of the request. -/
theorem pasidThen_refused {reads : List UnitAccess} {reason : BitVec 8} {fpd : Bool}
    (h : s.PasidRefuses sid ca ce pasid reads reason fpd) (rest : BitVec 512 → Walk α) :
    ∃ c b, c.reason = reason ∧ (c.qualified && b) = fpd ∧
      faultsN (pasidThen s sid pasid ce rest) c (s.contextSeen sid ca ce) false reads b false := by
  cases h with
  | tooWide hwide =>
    refine ⟨.sct7, ceFpd ce, rfl, Bool.true_and _, faultsN.bind ?_ _⟩
    simpa using ((stops_pasidFetch hwide sid).faults_same (s.contextSeen sid ca ce)).keeping (keepsN_pasidFetch _ _ _ _) false
  | directoryUnread da hreach hda hunread =>
    subst hda
    refine ⟨.spd1, ceFpd ce, rfl, Bool.false_and _, pasidThen_of_tables huse hreach ?_ rest false⟩
    unfold pasidTables
    simpa using (stops_fetch hunread s.caps.c .spd1).bind _ (s.contextSeen sid ca ce)
  | directoryAbsent da d hd hno =>
    exact ⟨.spd2, _, rfl, Bool.true_and _, pasidThen_of_directory huse hd ((stops_check (by simp [hno]) .spd2).bind _) rest⟩
  | directoryReserved da d hd hyes hrsvd =>
    exact ⟨.spd3, _, rfl, Bool.true_and _, pasidThen_of_directory huse hd
      ((finds_check (by simp [hyes]) .spd2).skip_stops ((stops_check hrsvd .spd3).bind _)) rest⟩
  | unread da pa d hd ht hunread =>
    obtain ⟨hyes, hrsvd, rfl⟩ := ht
    exact ⟨.spt1, _, rfl, Bool.false_and _, pasidThen_of_directory huse hd
      ((finds_check (by simp [hyes]) .spd2).skip_stops ((finds_check hrsvd .spd3).skip_stops
        ((stops_fetch hunread s.caps.c .spt1).bind _))) rest⟩
  | absent da pa d pe hd ht hpe hno =>
    exact ⟨.spt2, _, rfl, Bool.true_and _,
      pasidThen_of_entry huse hd ht hpe ((stops_check (by simp [hno]) .spt2).bind _) rest⟩
  | reserved da pa d pe hd ht hpe hyes hrsvd =>
    exact ⟨.spt3, _, rfl, Bool.true_and _, pasidThen_of_entry huse hd ht hpe
      ((finds_check (by simp [hyes]) .spt2).skip_stops ((stops_check hrsvd .spt3).bind _)) rest⟩
  | programming da pa d pe hd ht hpe hyes hrsvd hprog =>
    obtain ⟨c, hc, hq, hstop⟩ := stops_pasidEntryChecks hyes hrsvd hprog
    exact ⟨c, _, hc, by simp [hq], pasidThen_of_entry huse hd ht hpe hstop rest⟩

end

/-! ## The lookup refuses -/

/-- A page request in legacy mode (45 R1175). -/
theorem prLookup_refused_legacy (h : s.latchedRt.ttm = 0) (m : PageMsg) : refusedN (prLookup s m) [] 0x32 false false := by
  have hmode : modeFault s = none := by simp [modeFault, h]
  have hscal : s.scalable = false := by simp [State.scalable, h]
  unfold prLookup
  refine refusedN_of_unmet (c := .rta3) ?_
  refine ((finds_checkMode hmode).unseenN (keepsN_checkMode s) _ _).bind_faults ?_
  exact (failedN (by simp [hscal]) .rta3 _ _).bind _

/-- A check behind the context entry fails. -/
theorem prLookup_refused_rest (hon : s.scalableOn) (huse : s.choice.use = []) {ca : Addr} {ce : BitVec 256}
    (hce : s.scalableContext m.rid ca ce) (hrid : ridSupported s (!m.pp) ce) {c : Cond} (hq : c.qualified = true)
    (h : ∀ x n, faultsN (pageRest s m ce) c x n x.bus x.fpd n) :
    refusedN (prLookup s m) (s.contextReads m.rid ca) c.reason (ceFpd ce) false :=
  refusedN_of_qualified hq (by simpa using (prLookup_leads_pageRest hon huse hce hrid).faults (h _ _))

theorem ridSupported_of_pp (hpp : m.pp = true) (ce : BitVec 256) : ridSupported s (!m.pp) ce := by
  simp [ridSupported, hpp]

/-- The tables of scalable mode refuse a page request. -/
theorem prLookup_refused_tables (hon : s.scalableOn) (huse : s.choice.use = []) {reads : List UnitAccess} {reason : BitVec 8}
    {fpd : Bool} (h : s.PageRefuses m reads reason fpd) : refusedN (prLookup s m) reads reason fpd false := by
  cases h with
  | context reads reason fpd h => exact (prLookup_leads hon m).refusedN (contextThen_refused huse h _ _)
  | ridPasid ca ce hce hpp hrid =>
    refine (prLookup_leads hon m).refusedN ?_
    rw [hpp]
    exact refusedN_of_qualified (c := .sct4_2) rfl (contextThen_ridPasid huse hce hrid _)
  | disabled ca ce hce hrid hno =>
    refine prLookup_refused_rest hon huse hce (fun hpp => hrid (by simpa using hpp)) (c := .sct8) rfl fun x n => ?_
    exact (failedN (by simp [hno]) .sct8 x n).bind _
  | pasidDisabled ca ce hce hpre hpp hno =>
    refine prLookup_refused_rest hon huse hce (ridSupported_of_pp hpp ce) (c := .sct6) rfl fun x n => ?_
    unfold pageRest
    rw [hpp]
    exact (checkedN (by simp [hpre]) .sct8 x n).bind_faults ((failedN (by simp [hno]) .sct6 x n).bind _)
  | ridPasidUsed ca ce hce hpre hpp hyes hrps hrid =>
    refine prLookup_refused_rest hon huse hce (ridSupported_of_pp hpp ce) (c := .sct9) rfl fun x n => ?_
    unfold pageRest
    rw [hpp]
    exact (checkedN (by simp [hpre]) .sct8 x n).bind_faults ((checkedN (by simp [hyes]) .sct6 x n).bind_faults
      ((failedN (by simp [hrps, hrid]) .sct9 x n).bind _))
  | pasid ca ce pasid reads reason fpd hce hpre hpasid h =>
    obtain ⟨c, b, hc, hq, hfaults⟩ := pasidThen_refused huse h (pageEntry m pasid)
    exact ⟨c, b, hc, hq, (prLookup_leads_pageRest hon huse hce (ridSupported_of_pagePasid hpasid)).faults
      ((pageRest_leads hpre hpasid _ _).faults hfaults)⟩

end Sys2Proof.Machine
end

section
/-! O52 and O53: page requests queued and dropped (45 R1170 to R1185). -/

namespace Sys2Proof.Machine

variable {s v : State} {m : PageMsg}

/-! ## What follows the lookup -/

/-- What a page request comes to by its lookup: it is reported and answered Invalid Request, or accepted (45 R1170). -/
def afterLookup (m : PageMsg) : Except Cond (BitVec 3 × DomainId × Pasid) × Trail × State → State
  | (.error c, t, u) => (u.reportPage m c t.fpd).autoResponse m codeInvalid
  | (.ok (pgtt, did, pasid), _, u) => u.acceptPage m pgtt did pasid

theorem State.handlePage_of_on (htes : s.gsts.tes = true) (m : PageMsg) :
    s.handlePage m = afterLookup m (s.runWalk (prLookup s m) m.rid (if m.pp then some m.pasid else none) 3) := by
  unfold State.handlePage
  rw [if_neg (by simp [htes])]
  rcases s.runWalk (prLookup s m) m.rid (if m.pp then some m.pasid else none) 3 with ⟨_ | _, _, _⟩ <;> rfl

theorem State.handlePage_of_off (htes : s.gsts.tes = false) (m : PageMsg) : s.handlePage m = s.autoResponse m codeInvalid :=
  if_pos (by simp [htes])

theorem State.autoResponse_eq (s : State) (m : PageMsg) (code : BitVec 4) :
    s.autoResponse m code = { s with out := droppedResponse m code ++ s.out } := by
  unfold State.autoResponse droppedResponse
  by_cases h : m.lpig = true ∧ isStopMarker m = false
  · rw [if_pos h, if_pos (by simpa using h)]
    rfl
  · rw [if_neg h, if_neg (by simpa using h)]
    rfl

/-- The tables let the page request through: behind their reads and the counting it is accepted. -/
theorem exec_of_pageLookup {ca da pa : Addr} {pasid : Pasid} {pe : BitVec 512} (h : s.pageLookup m ca da pa pasid pe)
    (qp : s.quiet .perf) : ∃ v z, onlyCounted s v ∧ z = { v with bus := s.tableReads m.rid ca da pa ++ s.bus } ∧
      exec (.pageRequest m) s = .next (z.acceptPage m (pePgtt pe) (peDid pe) pasid) := by
  obtain ⟨ce, hfound⟩ := prLookup_found h
  obtain ⟨⟨htes, -⟩, huncached, -⟩ := h
  obtain ⟨v, t, hv, hrun, -⟩ := runWalk_of_foundWith hfound huncached qp m.rid (if m.pp then some m.pasid else none) 3
  refine ⟨v, _, hv, rfl, congrArg Host.Outcome.next ?_⟩
  rw [State.handlePage_of_on htes, hrun]
  rfl

/-- Neither the reads of a walk nor their counting moves the page request queue. -/
theorem prq_behind (hv : onlyCounted s v) {z : State} {bus : List UnitAccess} (hz : z = { v with bus := bus }) :
    z.prq = s.prq := by
  rw [hz, eq_counted_of_onlyCounted hv]
  rfl

theorem prqFull_congr {z : State} (h : z.prq = s.prq) : z.prqFull = s.prqFull := by
  simp only [State.prqFull, State.prqSize, h]

/-! ## Page requests accepted -/

theorem State.acceptPage_of_pro (hpro : s.prq.pro = true) (m : PageMsg) (pgtt : BitVec 3) (did : DomainId) (pasid : Pasid) :
    s.acceptPage m pgtt did pasid = { s with out := droppedResponse m 0 ++ s.out } :=
  (if_pos hpro).trans (s.autoResponse_eq m codeSuccess)

theorem State.acceptPage_of_full (hpro : s.prq.pro = false) (hfull : s.prqFull = true) (m : PageMsg) (pgtt : BitVec 3)
    (did : DomainId) (pasid : Pasid) :
    s.acceptPage m pgtt did pasid = { s.setPro with out := droppedResponse m 0 ++ s.setPro.out } :=
  (if_neg (Bool.eq_false_iff.1 hpro)).trans ((if_pos hfull).trans (s.setPro.autoResponse_eq m codeSuccess))

theorem State.acceptPage_of_room (hpro : s.prq.pro = false) (hroom : s.prqFull = false) (m : PageMsg) (pgtt : BitVec 3)
    (did : DomainId) (pasid : Pasid) : s.acceptPage m pgtt did pasid =
      ((s.implicitInvalidate pgtt did pasid m.addr).writePrq
        (prqFields (s.implicitInvalidate pgtt did pasid m.addr).freeCtr m)).fresh :=
  (if_neg (Bool.eq_false_iff.1 hpro)).trans (if_neg (Bool.eq_false_iff.1 hroom))

/-- PRO is set, and the page request event follows (60 R1415). -/
theorem State.setPro_raised (quiet : s.quiet .page) :
    ∃ r o, s.setPro = { s with prq := { s.prq with pro := true }, pageEv := r, out := o } ∧
      raised s s.setPro .page (s.prq.ppr || s.prq.pro) := by
  obtain ⟨r, o, hevent, hraised⟩ := State.raiseEvent_quiet { s with prq := { s.prq with pro := true } } .page
    (s.prq.ppr || s.prq.pro) quiet
  refine ⟨r, o, hevent, ?_⟩
  rw [State.setPro, hevent]
  exact hraised

/-- First-stage translations go by Domain ID, PASID and page (45 R1180). -/
theorem State.implicitInvalidate_of_firstStage {pgtt : BitVec 3} (h : pgtt = 1) (s : State) (did : DomainId) (pasid : Pasid)
    (addr : BitVec 52) : s.implicitInvalidate pgtt did pasid addr = s.invalidatePIotlb 3 did pasid addr 0 false := by
  subst h
  rfl

/-- Nested ones go by Domain ID, the others by Domain ID and page (45 R1180). -/
theorem State.implicitInvalidate_of_domain {pgtt : BitVec 3} (h : pgtt ≠ 1) (s : State) (did : DomainId) (pasid : Pasid)
    (addr : BitVec 52) :
    s.implicitInvalidate pgtt did pasid addr = s.invalidateIotlb (if pgtt = 3 then 2 else 3) did addr 0 false := by
  unfold State.implicitInvalidate
  split
  case h_1 hone => exact absurd (BitVec.eq_of_toNat_eq hone) h
  case h_2 hthree =>
    rw [if_pos (BitVec.eq_of_toNat_eq hthree)]
  case h_3 hthree =>
    rw [if_neg fun heq => hthree (by rw [heq]; rfl)]

/-- The descriptor copies the request, but for its undefined fields (30 R881). -/
theorem prqFields_eq (n : Nat) (m : PageMsg) : prqFields n m = { m with
    pasid := if m.pp then m.pasid else (prqFields n m).pasid
    prgi := if m.rdr || m.wrr then m.prgi else (prqFields n m).prgi } := by
  simp only [prqFields, PageMsg.mk.injEq, and_self, true_and]
  exact ⟨by split <;> rfl, by split <;> rfl, trivial⟩

/-- The unit can deliver a page-request descriptor: the queue's tail may be written, and no event stores its message. -/
def State.delivers (s : State) : Prop :=
  s.writable s.prqAddr 32 = true ∧ s.memoryForm ∧ s.quiet .perf ∧ s.quiet .page

theorem delivers_of_onlyCounted (hv : onlyCounted s v) (h : s.delivers) : v.delivers := by
  obtain ⟨hwritable, form, qp, quiet⟩ := h
  have hperf := onlyCounted_quiet hv qp
  rw [eq_counted_of_onlyCounted hv] at hperf ⊢
  exact ⟨hwritable, form, hperf, quiet⟩

/-- The implicit invalidation in the state behind the lookup. -/
theorem State.implicitInvalidate_behind (hv : onlyCounted s v) {bus : List UnitAccess} {pgtt : BitVec 3} {did : DomainId}
    {pasid : Pasid} {addr : BitVec 52} {w : State}
    (hw : w = State.implicitInvalidate { v with bus := bus } pgtt did pasid addr) :
    w = { v with bus := bus, caches := { s.caches with iotlb := w.caches.iotlb, psc := w.caches.psc } } ∧
    (if pgtt = 1 then
      w.caches.iotlb = s.caches.iotlb.filter (fun x => !pIotlbMatches 3 (s.caps.maskDid did) pasid (pageAddr addr).toNat 0 x) ∧
      w.caches.psc = s.caches.psc.filter (fun x => !pPscMatches 3 (s.caps.maskDid did) pasid (pageAddr addr).toNat 0 false x)
     else
      w.caches.iotlb = s.caches.iotlb.filter (fun x => !iotlbMatches (s.caps.mgaw + 1) (if pgtt = 3 then 2 else 3)
        (s.caps.maskDid did) (pageAddr addr).toNat 0 x) ∧
      w.caches.psc = s.caches.psc.filter (fun x => !pscMatches (s.caps.mgaw + 1) (if pgtt = 3 then 2 else 3)
        (s.caps.maskDid did) (pageAddr addr).toNat 0 false x)) := by
  rw [eq_counted_of_onlyCounted hv] at hw ⊢
  split
  case isTrue h =>
    rw [State.implicitInvalidate_of_firstStage h] at hw
    subst hw
    exact ⟨rfl, rfl, rfl⟩
  case isFalse h =>
    rw [State.implicitInvalidate_of_domain h] at hw
    subst hw
    exact ⟨rfl, rfl, rfl⟩

/-- Settles O52: the tables let the request through, its translations are dropped, and its descriptor is delivered. -/
theorem pageRequestQueued : Obligations.PageRequestQueued := by
  intro s m ca da pa pasid pe h hpro hroom hwritable qp quiet form
  obtain ⟨v, z, hv, hz, hexec⟩ := exec_of_pageLookup h qp
  have hprq : z.prq = s.prq := prq_behind hv hz
  rw [State.acceptPage_of_room (hprq ▸ hpro) ((prqFull_congr hprq).trans hroom)] at hexec
  obtain ⟨w, hw⟩ : ∃ w, w = z.implicitInvalidate (pePgtt pe) (peDid pe) pasid m.addr := ⟨_, rfl⟩
  rw [← hw] at hexec
  obtain ⟨hframe, hdropped⟩ := State.implicitInvalidate_behind hv (hz ▸ hw)
  have hdelivers : v.delivers := delivers_of_onlyCounted hv ⟨hwritable, form, qp, quiet⟩
  obtain ⟨hwritable, form, qp, quiet⟩ : w.delivers := by rw [hframe]; exact hdelivers
  exact ⟨v, w, _, _, hv, hframe, hdropped, prqFields_eq w.freeCtr m, State.writePrq_prqWritten hwritable form qp quiet _, hexec⟩

/-! ## Page requests dropped -/

theorem pageReport_record (s : State) (m : PageMsg) (c : Cond) (fpd : Bool) :
    (pageReport s m c fpd).record s.caps = pageRecord s.caps m c.reason := by
  simp [pageReport, FaultReport.record, pageRecord, ← ite_and, Bool.and_comm, and_comm]

/-- A fault that an FPD bit suppresses, or of a Stop Marker that is not reported, leaves no record (60 R1331; 93 U37). -/
theorem State.reportPage_silent {c : Cond} {b : Bool}
    (h : (c.qualified && b) = true ∨ isStopMarker m = true ∧ s.choice.stopRecord = false) : s.reportPage m c b = s := by
  unfold State.reportPage
  split
  case isTrue => rfl
  case isFalse hreported =>
    rcases h with hsuppressed | ⟨hstop, hno⟩
    · obtain ⟨hq, hfpd⟩ := Bool.and_eq_true_iff.1 hsuppressed
      exact State.reportFault_of_suppressed hq hfpd
    · exact absurd (by simp [hstop, hno]) hreported

theorem State.reportPage_recorded {c : Cond} {b : Bool}
    (h : ¬ ((c.qualified && b) = true ∨ isStopMarker m = true ∧ s.choice.stopRecord = false)) (hfree : s.recordFree m.rid)
    (quiet : s.quiet .fault) :
    onlyReported s (s.reportPage m c b) ∧ recorded s (s.reportPage m c b) (pageRecord s.caps m c.reason) := by
  obtain ⟨hsuppressed, hstop⟩ := not_or.1 h
  unfold State.reportPage
  rw [if_neg (by simpa using hstop), ← pageReport_record s m c b]
  exact State.reportFault_recorded (Bool.eq_false_iff.2 hsuppressed) hfree quiet

/-- The mode or the tables refuse the request: it is reported as its fault asks, and answered Invalid Request. -/
theorem exec_of_refusedLookup {reads : List UnitAccess} {reason : BitVec 8} {fpd : Bool}
    (h : refusedN (prLookup s m) reads reason fpd false) (htes : s.gsts.tes = true) (huncached : s.uncached)
    (qp : s.quiet .perf) (qf : s.quiet .fault) (hfree : s.recordFree m.rid) :
    ∃ v w t, onlyCounted s v ∧ w = { v with bus := reads ++ s.bus } ∧
      (if fpd = true ∨ (isStopMarker m = true ∧ s.choice.stopRecord = false) then t = w
       else onlyReported w t ∧ recorded w t (pageRecord s.caps m reason)) ∧
      exec (.pageRequest m) s = .next { t with out := droppedResponse m 1 ++ t.out } := by
  obtain ⟨c, b, rfl, rfl, hfails⟩ := h
  obtain ⟨v, t, hv, hrun, rfl, -⟩ := runWalk_of_failsWith hfails huncached qp m.rid (if m.pp then some m.pasid else none) 3
  have heq := eq_counted_of_onlyCounted hv
  refine ⟨v, { v with bus := reads ++ s.bus }, State.reportPage { v with bus := reads ++ s.bus } m c t.fpd, hv, rfl, ?reported,
    congrArg Host.Outcome.next ?answered⟩
  case reported =>
    have hchoice : v.choice = s.choice := by rw [heq]; rfl
    rw [← hchoice, ← caps_of_onlyCounted hv]
    split
    case isTrue hsilent => exact State.reportPage_silent hsilent
    case isFalse hreported =>
      exact State.reportPage_recorded hreported (by rw [heq]; exact hfree) (by rw [heq]; exact qf)
  case answered =>
    rw [State.handlePage_of_on htes, hrun, afterLookup, State.autoResponse_eq]
    rfl

/-- Settles O53: full queue and PRO behind the lookup, translation off, and a lookup that the mode or the tables refuse. -/
theorem pageRequestDropped : Obligations.PageRequestDropped := by
  refine ⟨?accepted, ?off, ?refused⟩
  case accepted =>
    intro s m ca da pa pasid pe h qp
    obtain ⟨v, z, hv, hz, hexec⟩ := exec_of_pageLookup h qp
    have hprq : z.prq = s.prq := prq_behind hv hz
    refine ⟨v, z, hv, hz, fun hpro hfull quiet => ?_, fun hpro => ?_⟩
    · rw [State.acceptPage_of_full (hprq ▸ hpro) ((prqFull_congr hprq).trans hfull)] at hexec
      have quiet' : z.quiet .page := by
        rw [hz, eq_counted_of_onlyCounted hv]
        exact quiet
      obtain ⟨r, o, hset, hraised⟩ := State.setPro_raised quiet'
      rw [hprq, hpro, Bool.or_false] at hraised
      refine ⟨z.setPro, _, hexec, hraised, ?_, rfl⟩
      rw [← hprq, hset]
    · rwa [State.acceptPage_of_pro (hprq ▸ hpro)] at hexec
  case off =>
    intro s m htes
    exact congrArg Host.Outcome.next ((State.handlePage_of_off htes m).trans (s.autoResponse_eq m codeInvalid))
  case refused =>
    intro s m reads reason fpd htes huncached qp qf hfree hrefused
    refine exec_of_refusedLookup ?_ htes huncached qp qf hfree
    rcases hrefused with ⟨rfl, rfl, hmode | ⟨rfl, hlegacy⟩⟩ | ⟨hon, htables⟩
    · exact refusedN_of_modeRefuses hmode _
    · exact prLookup_refused_legacy hlegacy m
    · exact prLookup_refused_tables hon huncached.1 htables

end Sys2Proof.Machine
end
